-- ==== Sys2Proof/Word.lean ====
section
/-! DEFINITION. The word types of the BN9512 and the plainest functions over them. -/

namespace Sys2Proof

/-- A general register, an address in the engine's address space, a control register. -/
abbrev Word := BitVec 64

/-- One byte of a memory, a frame or a packet. -/
abbrev Byte := BitVec 8

/-- A physical engine: square index times 9 plus physical position (R14). -/
abbrev Eng := Fin 576

/-- A square index (R5): (rank - 1) times 8 plus file. -/
abbrev SqId := Fin 64

/-- A five-bit register field of a scalar instruction (R185). -/
abbrev Reg := BitVec 5

/-- The word 1 for true and 0 for false. -/
def boolWord (b : Bool) : Word := if b then 1 else 0

/-- The square of a physical engine (R14). -/
def engSq (e : Eng) : SqId := ⟨e.val / 9, by omega⟩

/-- The physical position of an engine in its square (R14). -/
def engPos (e : Eng) : Fin 9 := ⟨e.val % 9, by omega⟩

/-- The engine at physical position `p` of square `s` (R14). -/
def mkEng (s : SqId) (p : Fin 9) : Eng := ⟨s.val * 9 + p.val, by omega⟩

end Sys2Proof
end

