-- ==== Sys2Proof/Syntax.lean ====
section
/-! DEFINITION. The commands the block takes: one constructor of `Instr` for each row of
`spec/opcode_table.json`, over the operands the rules of the spec give that row. -/

namespace Sys2Proof

/-- Operand fields of a VR-format vector instruction (R314): the chain bit, the mask register,
    the descriptor fields and the type.  For an instruction with one source and two types the
    field `b` holds the source type. -/
structure VR where
  c : Bool
  m : BitVec 3
  d : BitVec 4
  a : BitVec 4
  b : BitVec 4
  t : BitVec 4
  deriving DecidableEq, Repr

/-- Operand fields of a VT-format vector instruction (R314).  For a STEP instruction the field
    `x` holds the step count. -/
structure VT where
  c : Bool
  m : BitVec 3
  d : BitVec 4
  a : BitVec 4
  b : BitVec 4
  x : BitVec 4
  t : BitVec 2
  deriving DecidableEq, Repr

/-- Who writes a register (R21, R52, R130, R527): a store of an engine, the steward's own
    bus matrix, the host with a 64-bit write to BAR2, to the CXL component registers (R522) or to the
    configuration space (R520), or the host with a write of `bytes` bytes to BAR0 (R529). -/
inductive Writer
  | engine (e : Eng)
  | steward
  | host
  | hostDecoder
  | hostConfig
  | hostDoorbell (bytes : Nat)
  deriving DecidableEq, Repr

/-- Who reads a read-to-clear register (R25, R126, R598): a load of an engine into `rd`, the
    steward, or a debug read (R647). -/
inductive Reader
  | engine (e : Eng) (rd : Reg)
  | steward
  | debugMaster
  deriving DecidableEq, Repr

/-- The copy of the single-entry map command registers that takes a map command (R87, R130, R527). -/
inductive MapPort
  | engine (e : Eng)
  | host
  | steward
  deriving DecidableEq, Repr

/-- A core that the debug port can halt (R631). -/
inductive Core
  | steward
  | rank (k : Fin 8)
  | engine (e : Eng)
  deriving DecidableEq, Repr

/-- Why a spare is substituted (R417, Table 12.9, TYPE 0x0040). -/
inductive SpareReason
  | selfTest
  | errorRecurrence
  | gatingFault
  | spareNow
  deriving DecidableEq, Repr

/-- How the host completed a CXL.cache request (R526, R549). -/
inductive HostStatus
  | ok
  | poison
  | error
  deriving DecidableEq, Repr

/-- The straps sampled at power-on (R451, R476). -/
structure Straps where
  addrSel : BitVec 3
  forceOpening : Bool
  deriving DecidableEq, Repr

/-- What SETDASA carries (R450, R451): the static address that it names and the dynamic address that it
    assigns. -/
structure StaticAssign where
  static_ : BitVec 7
  da : BitVec 7
  deriving DecidableEq, Repr

/-- A private write on the I3C bus after its opcode byte (R450, R453): the address it is sent to, the header
    fields, and every byte that follows the 8-byte header, payload and TAG together. -/
structure Frame where
  addr : BitVec 7
  flags : Byte
  length : BitVec 16
  seq : BitVec 32
  body : List Byte
  deriving DecidableEq, Repr

/-- The probe's part of an Ikipin frame (R615, R616): the toggle, the data and the check. -/
structure IkFrame where
  tog : Bool
  data : BitVec 32
  chk : BitVec 4
  deriving DecidableEq, Repr

/-- A Frarix packet (R544, Table 13.8). -/
structure FrxPacket where
  dst : BitVec 16
  src : BitVec 16
  typ : Byte
  route : Byte
  len : BitVec 16
  tag : BitVec 32
  code : Byte
  addrH : BitVec 24
  payload : List Byte
  deriving DecidableEq, Repr

/-- A Frarix flit (R536). -/
structure Flit where
  seq : BitVec 12
  ackseq : BitVec 12
  ftype : Byte
  creditClass : BitVec 2
  creditLane : Bool
  creditCount : BitVec 13
  data : BitVec 1936
  crc : BitVec 64
  deriving DecidableEq, Repr

/-- What the steward measures in one loop period ("The steward's loop", R577, R579): VIN (mV),
    input current (10 mA), package power (0.1 W), the temperature (0.1 degree), power (10 mW),
    activity and critical-path margin of each square, the temperatures of the quarter dies, the
    hub, the stacks and the power-stage dies, and whether the period overran 1 ms. -/
structure LoopSample where
  vin : BitVec 16
  iin : BitVec 16
  pkg : BitVec 16
  sqTemp : List (BitVec 16)
  sqPower : List (BitVec 16)
  sqBusy : List Bool
  sqMarginShort : List Bool
  quarterTemp : List (BitVec 16)
  hubTemp : BitVec 16
  stackTemp : List (BitVec 16)
  stageTemp : List (BitVec 16)
  overrun : Bool
  deriving DecidableEq, Repr

/-- One command to the block, one constructor for each row of the opcode table.  The
    docstrings give the row and the rule of the spec that states its effect. -/
inductive Instr
  /-- ADD (R194). Writes the sum of ga and gb modulo 2^64 into gd. -/
  | add (e : Eng) (rd ra rb : Reg)
  /-- SUB (R194). Writes ga minus gb modulo 2^64 into gd. -/
  | sub (e : Eng) (rd ra rb : Reg)
  /-- AND (R194). Writes the bitwise AND of ga and gb into gd. -/
  | and (e : Eng) (rd ra rb : Reg)
  /-- OR (R194). Writes the bitwise OR of ga and gb into gd. -/
  | or (e : Eng) (rd ra rb : Reg)
  /-- XOR (R194). Writes the bitwise exclusive OR of ga and gb into gd. -/
  | xor (e : Eng) (rd ra rb : Reg)
  /-- ANDN (R194). Writes ga AND NOT gb into gd. -/
  | andn (e : Eng) (rd ra rb : Reg)
  /-- CLT (R194). Writes 1 into gd if ga is less than gb as signed values, else 0. -/
  | clt (e : Eng) (rd ra rb : Reg)
  /-- CLTU (R194). Writes 1 into gd if ga is less than gb as unsigned values, else 0. -/
  | cltu (e : Eng) (rd ra rb : Reg)
  /-- CEQ (R194). Writes 1 into gd if ga equals gb, else 0. -/
  | ceq (e : Eng) (rd ra rb : Reg)
  /-- SHL (R194). Shifts ga left by gb[5:0] into gd. -/
  | shl (e : Eng) (rd ra rb : Reg)
  /-- SHR (R194). Shifts ga logically right by gb[5:0] into gd. -/
  | shr (e : Eng) (rd ra rb : Reg)
  /-- SAR (R194). Shifts ga arithmetically right by gb[5:0] into gd. -/
  | sar (e : Eng) (rd ra rb : Reg)
  /-- ROR (R194). Rotates ga right by gb[5:0] into gd. -/
  | ror (e : Eng) (rd ra rb : Reg)
  /-- MIN (R194). Writes the signed minimum of ga and gb into gd. -/
  | min (e : Eng) (rd ra rb : Reg)
  /-- MAX (R194). Writes the signed maximum of ga and gb into gd. -/
  | max (e : Eng) (rd ra rb : Reg)
  /-- MINU (R194). Writes the unsigned minimum of ga and gb into gd. -/
  | minu (e : Eng) (rd ra rb : Reg)
  /-- MAXU (R194). Writes the unsigned maximum of ga and gb into gd. -/
  | maxu (e : Eng) (rd ra rb : Reg)
  /-- CLZ (R194). Writes the count of leading zero bits of ga into gd. -/
  | clz (e : Eng) (rd ra : Reg)
  /-- CTZ (R194). Writes the count of trailing zero bits of ga into gd. -/
  | ctz (e : Eng) (rd ra : Reg)
  /-- POPC (R194). Writes the number of one bits of ga into gd. -/
  | popc (e : Eng) (rd ra : Reg)
  /-- SEXT_B (R194). Writes the sign extension of ga[7:0] into gd. -/
  | sextB (e : Eng) (rd ra : Reg)
  /-- SEXT_H (R194). Writes the sign extension of ga[15:0] into gd. -/
  | sextH (e : Eng) (rd ra : Reg)
  /-- SEXT_W (R194). Writes the sign extension of ga[31:0] into gd. -/
  | sextW (e : Eng) (rd ra : Reg)
  /-- ZEXT_W (R194). Writes the zero extension of ga[31:0] into gd. -/
  | zextW (e : Eng) (rd ra : Reg)
  /-- ADDI (R195). Adds the sign-extended immediate to ga into gd. -/
  | addi (e : Eng) (rd ra : Reg) (imm : BitVec 16)
  /-- ANDI (R195). ANDs ga with the zero-extended immediate into gd. -/
  | andi (e : Eng) (rd ra : Reg) (imm : BitVec 16)
  /-- ORI (R195). ORs ga with the zero-extended immediate into gd. -/
  | ori (e : Eng) (rd ra : Reg) (imm : BitVec 16)
  /-- XORI (R195). Exclusive-ORs ga with the zero-extended immediate into gd. -/
  | xori (e : Eng) (rd ra : Reg) (imm : BitVec 16)
  /-- CLTI (R195). Writes 1 if ga is below the sign-extended immediate, signed. -/
  | clti (e : Eng) (rd ra : Reg) (imm : BitVec 16)
  /-- CLTIU (R195). Writes 1 if ga is below the sign-extended immediate, unsigned. -/
  | cltiu (e : Eng) (rd ra : Reg) (imm : BitVec 16)
  /-- SHLI (R195). Shifts ga left by the immediate amount into gd. -/
  | shli (e : Eng) (rd ra : Reg) (n : BitVec 6)
  /-- SHRI (R195). Shifts ga logically right by the immediate amount into gd. -/
  | shri (e : Eng) (rd ra : Reg) (n : BitVec 6)
  /-- SARI (R195). Shifts ga arithmetically right by the immediate amount into gd. -/
  | sari (e : Eng) (rd ra : Reg) (n : BitVec 6)
  /-- RORI (R195). Rotates ga right by the immediate amount into gd. -/
  | rori (e : Eng) (rd ra : Reg) (n : BitVec 6)
  /-- LDI (R196). Loads the immediate shifted by 16 times hw into gd. -/
  | ldi (e : Eng) (rd : Reg) (imm : BitVec 16) (hw : BitVec 2)
  /-- INSI (R196). Inserts the immediate into halfword hw of gd, keeping the other bits. -/
  | insi (e : Eng) (rd : Reg) (imm : BitVec 16) (hw : BitVec 2)
  /-- ADC (R198). Adds ga, gb and carry gc[0] into the pair gd with carry out in gd+1. -/
  | adc (e : Eng) (rd ra rb rc : Reg)
  /-- SBB (R198). Subtracts gb and borrow gc[0] from ga into the pair gd with borrow out in gd+1. -/
  | sbb (e : Eng) (rd ra rb rc : Reg)
  /-- MUL (R199). Writes the low 64 bits of ga times gb into gd. -/
  | mul (e : Eng) (rd ra rb : Reg)
  /-- MULW (R199). Writes the signed 128-bit product of ga and gb into the pair gd. -/
  | mulw (e : Eng) (rd ra rb : Reg)
  /-- MULWU (R199). Writes the unsigned 128-bit product of ga and gb into the pair gd. -/
  | mulwu (e : Eng) (rd ra rb : Reg)
  /-- DSTART_S (R200). Sets up signed division of ga in the pair gd. -/
  | dstartS (e : Eng) (rd ra : Reg)
  /-- DSTART_U (R200). Sets up unsigned division of ga in the pair gd. -/
  | dstartU (e : Eng) (rd ra : Reg)
  /-- DSTEP_S (R200). Develops two quotient bits for a signed divisor gb. -/
  | dstepS (e : Eng) (rd rb : Reg)
  /-- DSTEP_U (R200). Develops two quotient bits for an unsigned divisor gb. -/
  | dstepU (e : Eng) (rd rb : Reg)
  /-- DEND_S (R200). Applies the signed fix-up leaving quotient and remainder. -/
  | dendS (e : Eng) (rd ra rb : Reg)
  /-- DEND_U (R200). Applies the unsigned fix-up leaving quotient and remainder. -/
  | dendU (e : Eng) (rd ra rb : Reg)
  /-- DAJ_B (R204). Corrects a binary addition of 2 packed digits. -/
  | dajB (e : Eng) (rd ra rb : Reg)
  /-- DAJ_H (R204). Corrects a binary addition of 4 packed digits. -/
  | dajH (e : Eng) (rd ra rb : Reg)
  /-- DAJ_W (R204). Corrects a binary addition of 8 packed digits. -/
  | dajW (e : Eng) (rd ra rb : Reg)
  /-- DADD (R205). Adds two P15 values with saturation or a decimal exception. -/
  | dadd (e : Eng) (rd ra rb : Reg)
  /-- DSUB (R205). Subtracts two P15 values with saturation or a decimal exception. -/
  | dsub (e : Eng) (rd ra rb : Reg)
  /-- FADD (R207). Adds two binary floating-point operands. -/
  | fadd (e : Eng) (p : Bool) (rd ra rb : Reg)
  /-- FSUB (R207). Subtracts two binary floating-point operands. -/
  | fsub (e : Eng) (p : Bool) (rd ra rb : Reg)
  /-- FMUL (R207). Multiplies two binary floating-point operands. -/
  | fmul (e : Eng) (p : Bool) (rd ra rb : Reg)
  /-- FMIN (R207). Writes the smaller floating-point operand. -/
  | fmin (e : Eng) (p : Bool) (rd ra rb : Reg)
  /-- FMAX (R207). Writes the larger floating-point operand. -/
  | fmax (e : Eng) (p : Bool) (rd ra rb : Reg)
  /-- FABS (R207). Writes ga with its sign cleared. -/
  | fabs (e : Eng) (p : Bool) (rd ra : Reg)
  /-- FNEG (R207). Writes ga with its sign inverted. -/
  | fneg (e : Eng) (p : Bool) (rd ra : Reg)
  /-- FEQ (R207). Writes 1 if the floating-point operands are equal. -/
  | feq (e : Eng) (p : Bool) (rd ra rb : Reg)
  /-- FLT (R207). Writes 1 if ga is less than gb. -/
  | flt (e : Eng) (p : Bool) (rd ra rb : Reg)
  /-- FLE (R207). Writes 1 if ga is less than or equal to gb. -/
  | fle (e : Eng) (p : Bool) (rd ra rb : Reg)
  /-- FUN (R207). Writes 1 if either operand is a NaN. -/
  | funord (e : Eng) (p : Bool) (rd ra rb : Reg)
  /-- FCVT (R207). Converts between binary32 and binary64. -/
  | fcvt (e : Eng) (p : Bool) (rd ra : Reg)
  /-- FTOI (R209). Converts to a signed 64-bit integer rounded by FCTL.RM. -/
  | ftoi (e : Eng) (p : Bool) (rd ra : Reg)
  /-- FTOIZ (R209). Converts to a signed 64-bit integer rounded toward zero. -/
  | ftoiz (e : Eng) (p : Bool) (rd ra : Reg)
  /-- FTOU (R209). Converts to an unsigned 64-bit integer. -/
  | ftou (e : Eng) (p : Bool) (rd ra : Reg)
  /-- ITOF (R207). Converts a signed 64-bit integer to floating point. -/
  | itof (e : Eng) (p : Bool) (rd ra : Reg)
  /-- UTOF (R207). Converts an unsigned 64-bit integer to floating point. -/
  | utof (e : Eng) (p : Bool) (rd ra : Reg)
  /-- FMA (R208). Computes ga times gb plus gc, rounded once. -/
  | fma (e : Eng) (p : Bool) (rd ra rb rc : Reg)
  /-- FMS (R208). Computes ga times gb minus gc, rounded once. -/
  | fms (e : Eng) (p : Bool) (rd ra rb rc : Reg)
  /-- FNMA (R208). Computes minus ga times gb plus gc, rounded once. -/
  | fnma (e : Eng) (p : Bool) (rd ra rb rc : Reg)
  /-- FNMS (R208). Computes minus ga times gb minus gc, rounded once. -/
  | fnms (e : Eng) (p : Bool) (rd ra rb rc : Reg)
  /-- FDSTART (R377). Sets up the pair for a floating-point division step sequence. -/
  | fdstart (e : Eng) (p : Bool) (rd ra rb : Reg)
  /-- FDSTEP (R377). Develops two quotient bits of a floating-point division. -/
  | fdstep (e : Eng) (p : Bool) (rd rb : Reg)
  /-- FDEND (R213). Writes the rounded quotient of a floating-point division. -/
  | fdend (e : Eng) (p : Bool) (rd ra rb : Reg)
  /-- FSSTART (R378). Sets up the pair for a square-root step sequence. -/
  | fsstart (e : Eng) (p : Bool) (rd ra : Reg)
  /-- FSSTEP (R378). Develops two root bits of a square root. -/
  | fsstep (e : Eng) (p : Bool) (rd : Reg)
  /-- FSEND (R213). Writes the rounded square root. -/
  | fsend (e : Eng) (p : Bool) (rd ra : Reg)
  /-- LD_B (R214). Loads a sign-extended byte into gd. -/
  | ldB (e : Eng) (rd ra : Reg) (imm : BitVec 16)
  /-- LD_BU (R214). Loads a zero-extended byte into gd. -/
  | ldBu (e : Eng) (rd ra : Reg) (imm : BitVec 16)
  /-- LD_H (R214). Loads a sign-extended halfword into gd. -/
  | ldH (e : Eng) (rd ra : Reg) (imm : BitVec 16)
  /-- LD_HU (R214). Loads a zero-extended halfword into gd. -/
  | ldHu (e : Eng) (rd ra : Reg) (imm : BitVec 16)
  /-- LD_W (R214). Loads a sign-extended word into gd. -/
  | ldW (e : Eng) (rd ra : Reg) (imm : BitVec 16)
  /-- LD_WU (R214). Loads a zero-extended word into gd. -/
  | ldWu (e : Eng) (rd ra : Reg) (imm : BitVec 16)
  /-- LD_D (R214). Loads a 64-bit doubleword into gd. -/
  | ldD (e : Eng) (rd ra : Reg) (imm : BitVec 16)
  /-- ST_B (R214). Stores gs[7:0]. -/
  | stB (e : Eng) (rs ra : Reg) (imm : BitVec 16)
  /-- ST_H (R214). Stores gs[15:0]. -/
  | stH (e : Eng) (rs ra : Reg) (imm : BitVec 16)
  /-- ST_W (R214). Stores gs[31:0]. -/
  | stW (e : Eng) (rs ra : Reg) (imm : BitVec 16)
  /-- ST_D (R214). Stores all 64 bits of gs. -/
  | stD (e : Eng) (rs ra : Reg) (imm : BitVec 16)
  /-- LDL (R114). Loads a 64-bit word and sets a reservation on its sector. -/
  | ldl (e : Eng) (rd ra : Reg)
  /-- STC (R221). Stores gb if the reservation holds and reports success in gd. -/
  | stc (e : Eng) (rd ra rb : Reg)
  /-- AMO_ADD (R115). Atomically adds gb to a 64-bit word and returns the old value. -/
  | amoAdd (e : Eng) (rd ra rb : Reg)
  /-- AMO_XOR (R115). Atomically exclusive-ORs gb into a word and returns the old value. -/
  | amoXor (e : Eng) (rd ra rb : Reg)
  /-- AMO_MIN (R115). Atomically stores the signed minimum and returns the old value. -/
  | amoMin (e : Eng) (rd ra rb : Reg)
  /-- AMO_MAX (R115). Atomically stores the signed maximum and returns the old value. -/
  | amoMax (e : Eng) (rd ra rb : Reg)
  /-- AMO_SWP (R115). Atomically swaps gb into a word and returns the old value. -/
  | amoSwp (e : Eng) (rd ra rb : Reg)
  /-- DAMO_ADD (R116). Adds a P31 operand into a P31 value at the memory controller and returns a status. -/
  | damoAdd (e : Eng) (rd ra rb : Reg)
  /-- BR (R223). Branches unconditionally with a delay slot. -/
  | br (e : Eng) (a : Bool) (disp : BitVec 25)
  /-- BRL (R223). Branches unconditionally and writes the link into g30. -/
  | brl (e : Eng) (a : Bool) (disp : BitVec 25)
  /-- BEQZ (R224). Branches when ga is zero. -/
  | beqz (e : Eng) (a : Bool) (ra : Reg) (disp : BitVec 16)
  /-- BNEZ (R224). Branches when ga is not zero. -/
  | bnez (e : Eng) (a : Bool) (ra : Reg) (disp : BitVec 16)
  /-- BLTZ (R224). Branches when ga is negative. -/
  | bltz (e : Eng) (a : Bool) (ra : Reg) (disp : BitVec 16)
  /-- BGEZ (R224). Branches when ga is zero or positive. -/
  | bgez (e : Eng) (a : Bool) (ra : Reg) (disp : BitVec 16)
  /-- BGTZ (R224). Branches when ga is positive. -/
  | bgtz (e : Eng) (a : Bool) (ra : Reg) (disp : BitVec 16)
  /-- BLEZ (R224). Branches when ga is zero or negative. -/
  | blez (e : Eng) (a : Bool) (ra : Reg) (disp : BitVec 16)
  /-- BODD (R224). Branches when ga[0] is 1. -/
  | bodd (e : Eng) (a : Bool) (ra : Reg) (disp : BitVec 16)
  /-- BEVEN (R224). Branches when ga[0] is 0. -/
  | beven (e : Eng) (a : Bool) (ra : Reg) (disp : BitVec 16)
  /-- JR (R225). Jumps to the address in ga. -/
  | jr (e : Eng) (a : Bool) (ra : Reg)
  /-- JRL (R225). Jumps to the address in ga and writes the link into g30. -/
  | jrl (e : Eng) (a : Bool) (ra : Reg)
  /-- LOOP (R168). Starts a hardware loop level with the count in gs. -/
  | loop (e : Eng) (rs : Reg) (disp : BitVec 21)
  /-- SYNC_C (R175). Waits for earlier instructions, applies pending sync-register writes and refetches. -/
  | syncC (e : Eng)
  /-- SYNC_I (R177). Waits for earlier stores, invalidates the instruction cache and refetches. -/
  | syncI (e : Eng)
  /-- FENCE_L (R112). Completes every earlier access of the engine before later ones. -/
  | fenceL (e : Eng)
  /-- FENCE_D (R112). Makes earlier writes visible on the device and invalidates the data cache. -/
  | fenceD (e : Eng)
  /-- FENCE_S (R112). Makes earlier writes visible to host and remote devices and reports a deferred write error. -/
  | fenceS (e : Eng)
  /-- GATE (R238). Calls through a gate-table entry after its checks, pushing a gate frame. -/
  | gate (e : Eng) (index : BitVec 12)
  /-- GRET (R249). Pops a gate or exception frame and returns, releasing a held VSU. -/
  | gret (e : Eng)
  /-- JEND (R67). Fences and stops the engine, ending its part of the job. -/
  | jend (e : Eng)
  /-- WFI (R229). Waits until an enabled interrupt is pending or a debug halt is requested. -/
  | wfi (e : Eng)
  /-- BRK (R230). Halts the engine if halt on breakpoint is enabled, else raises ILLEGAL. -/
  | brk (e : Eng) (code : BitVec 16)
  /-- MTM (R231). Writes the mask fields of ga into mask register mk. -/
  | mtm (e : Eng) (k : BitVec 3) (ra : Reg)
  /-- MFM (R231). Reads mask register mk into gd. -/
  | mfm (e : Eng) (rd : Reg) (k : BitVec 3)
  /-- RESERVED_OPCODE (R191). A scalar reserved encoding raises the scalar reserved-opcode fault with no effect. -/
  | reservedOpcode (e : Eng) (w : BitVec 32)
  /-- EXCEPTION_ENTRY (R246). At an instruction boundary an event reads the vector table, pushes a frame and enters the handler. -/
  | exceptionEntry (e : Eng)
  /-- SYNC_REGISTER_STORE (R146). A store to a sync register is held pending until SYNC.C, exception entry or return. -/
  | syncRegisterStore (e : Eng) (off : BitVec 12) (v : Word)
  /-- VDROP (R261). A ring-0 write of 1 to EC_STATUS.VDROP discards held vector work or aborts a frozen chain. -/
  | vdrop (e : Eng)
  /-- SOFTWARE_INTERRUPT (R254). A ring-0 write sets or clears EC_IPEND.SOFT. -/
  | softwareInterrupt (e : Eng) (set : Bool)
  /-- TRACE_MARK (R648). A store to EC_TMARK makes a trace mark packet when enabled. -/
  | traceMark (e : Eng) (v : Word)
  /-- EC_WD_CTL_STORE (R612). A store to EC_WD_CTL writes the window and enables the watchdog if CLOSE exceeds OPEN. -/
  | ecWdCtlStore (e : Eng) (v : Word)
  /-- WATCHDOG_KICK (R609). A write of the key to EC_WD_KICK is accepted in the window or bites if early. -/
  | watchdogKick (e : Eng) (v : Word)
  /-- WATCHDOG_LATE (R609). The watchdog count reaches CLOSE without an accepted kick and bites. -/
  | watchdogLate (e : Eng)
  /-- SETVL (R351). Sets VL to the minimum of gs and VLMAX of the class and writes it to gd. -/
  | setvl (e : Eng) (rd ra : Reg) (cls : BitVec 3)
  /-- VBARRIER (R352). Waits until every earlier vector instruction has completed. -/
  | vbarrier (e : Eng)
  /-- CHRESUME (R353). Marks the engine ready for resumption of its frozen chain and returns a status. -/
  | chresume (e : Eng) (rd : Reg)
  /-- VQCNT (R354). Writes the state of chain queue CQn into gd. -/
  | vqcnt (e : Eng) (rd : Reg) (n : BitVec 2)
  /-- VFADD (R327). Vector floating-point add. -/
  | vfadd (e : Eng) (o : VR)
  /-- VFSUB (R327). Vector floating-point subtract. -/
  | vfsub (e : Eng) (o : VR)
  /-- VFMUL (R327). Vector floating-point multiply. -/
  | vfmul (e : Eng) (o : VR)
  /-- VFMIN (R327). Vector floating-point minimum. -/
  | vfmin (e : Eng) (o : VR)
  /-- VFMAX (R327). Vector floating-point maximum. -/
  | vfmax (e : Eng) (o : VR)
  /-- VFABS (R327). Vector floating-point absolute value. -/
  | vfabs (e : Eng) (o : VR)
  /-- VFNEG (R327). Vector floating-point negation. -/
  | vfneg (e : Eng) (o : VR)
  /-- VFEQ (R327). Vector floating-point equality into BIT elements. -/
  | vfeq (e : Eng) (o : VR)
  /-- VFLT (R327). Vector floating-point less-than into BIT elements. -/
  | vflt (e : Eng) (o : VR)
  /-- VFLE (R327). Vector floating-point less-or-equal into BIT elements. -/
  | vfle (e : Eng) (o : VR)
  /-- VFUN (R327). Vector unordered test into BIT elements. -/
  | vfun (e : Eng) (o : VR)
  /-- VCVT (R328). Vector binary conversion rounded by FCTL.RM. -/
  | vcvt (e : Eng) (o : VR)
  /-- VCVTZ (R328). Vector conversion to integer rounded toward zero. -/
  | vcvtz (e : Eng) (o : VR)
  /-- VFMA (R329). Vector fused multiply-add. -/
  | vfma (e : Eng) (o : VT)
  /-- VFMS (R329). Vector fused multiply-subtract. -/
  | vfms (e : Eng) (o : VT)
  /-- VFNMA (R329). Vector negated fused multiply-add. -/
  | vfnma (e : Eng) (o : VT)
  /-- VFNMS (R329). Vector negated fused multiply-subtract. -/
  | vfnms (e : Eng) (o : VT)
  /-- VADD (R330). Vector integer add. -/
  | vadd (e : Eng) (o : VR)
  /-- VSUB (R330). Vector integer subtract. -/
  | vsub (e : Eng) (o : VR)
  /-- VMUL (R330). Vector integer multiply, low half. -/
  | vmul (e : Eng) (o : VR)
  /-- VMULH (R330). Vector integer multiply, high half. -/
  | vmulh (e : Eng) (o : VR)
  /-- VAND (R330). Vector bitwise AND. -/
  | vand (e : Eng) (o : VR)
  /-- VOR (R330). Vector bitwise OR. -/
  | vor (e : Eng) (o : VR)
  /-- VXOR (R330). Vector bitwise exclusive OR. -/
  | vxor (e : Eng) (o : VR)
  /-- VANDN (R330). Vector bitwise AND NOT. -/
  | vandn (e : Eng) (o : VR)
  /-- VSHL (R330). Vector shift left. -/
  | vshl (e : Eng) (o : VR)
  /-- VSHR (R330). Vector shift right. -/
  | vshr (e : Eng) (o : VR)
  /-- VMIN (R330). Vector integer minimum. -/
  | vmin (e : Eng) (o : VR)
  /-- VMAX (R330). Vector integer maximum. -/
  | vmax (e : Eng) (o : VR)
  /-- VCEQ (R330). Vector integer equality into BIT elements. -/
  | vceq (e : Eng) (o : VR)
  /-- VCLT (R330). Vector integer less-than into BIT elements. -/
  | vclt (e : Eng) (o : VR)
  /-- VADDS (R330). Vector saturating add. -/
  | vadds (e : Eng) (o : VR)
  /-- VSUBS (R330). Vector saturating subtract. -/
  | vsubs (e : Eng) (o : VR)
  /-- VPOPC (R330). Vector population count. -/
  | vpopc (e : Eng) (o : VR)
  /-- VCLZ (R330). Vector leading-zero count. -/
  | vclz (e : Eng) (o : VR)
  /-- VCVTI (R331). Vector integer width conversion. -/
  | vcvti (e : Eng) (o : VR)
  /-- VMAC (R332). Vector integer multiply-accumulate. -/
  | vmac (e : Eng) (o : VT)
  /-- VDOT4 (R332). Vector four-way byte dot product with 32-bit accumulate. -/
  | vdot4 (e : Eng) (o : VT)
  /-- VDADD (R333). Vector decimal add. -/
  | vdadd (e : Eng) (o : VR)
  /-- VDSUB (R333). Vector decimal subtract. -/
  | vdsub (e : Eng) (o : VR)
  /-- VDMUL (R334). Vector decimal widening multiply into W62. -/
  | vdmul (e : Eng) (o : VR)
  /-- VDRESCALE (R335). Vector decimal rescale to the destination scale and type. -/
  | vdrescale (e : Eng) (o : VR)
  /-- VDCMP_EQ (R336). Vector decimal equality into BIT elements. -/
  | vdcmpEq (e : Eng) (o : VR)
  /-- VDCMP_LT (R336). Vector decimal less-than into BIT elements. -/
  | vdcmpLt (e : Eng) (o : VR)
  /-- VDCMP_LE (R336). Vector decimal less-or-equal into BIT elements. -/
  | vdcmpLe (e : Eng) (o : VR)
  /-- VDCVT (R337). Vector binary-decimal conversion. -/
  | vdcvt (e : Eng) (o : VR)
  /-- VDRSUM (R338). Vector decimal sum reduction rounded once. -/
  | vdrsum (e : Eng) (o : VR)
  /-- VFDSTART (R339). Vector floating-point division start into step records. -/
  | vfdstart (e : Eng) (o : VT)
  /-- VFDSTEP (R339). Vector floating-point division steps on records. -/
  | vfdstep (e : Eng) (o : VT)
  /-- VFDEND (R342). Vector floating-point division end writing rounded quotients. -/
  | vfdend (e : Eng) (o : VT)
  /-- VFSSTART (R339). Vector square-root start into step records. -/
  | vfsstart (e : Eng) (o : VT)
  /-- VFSSTEP (R339). Vector square-root steps on records. -/
  | vfsstep (e : Eng) (o : VT)
  /-- VFSEND (R342). Vector square-root end writing rounded roots. -/
  | vfsend (e : Eng) (o : VT)
  /-- VIDSTART (R339). Vector integer division start into step records. -/
  | vidstart (e : Eng) (o : VT)
  /-- VIDSTEP (R339). Vector integer division steps on records. -/
  | vidstep (e : Eng) (o : VT)
  /-- VIDEND (R342). Vector integer division end writing quotients. -/
  | vidend (e : Eng) (o : VT)
  /-- VIDREM (R342). Vector integer division end writing remainders. -/
  | vidrem (e : Eng) (o : VT)
  /-- VDDSTART (R380). Vector decimal division start into step records. -/
  | vddstart (e : Eng) (o : VT)
  /-- VDDSTEP (R380). Vector decimal division steps on records. -/
  | vddstep (e : Eng) (o : VT)
  /-- VDDEND (R381). Vector decimal division end writing rounded quotients. -/
  | vddend (e : Eng) (o : VT)
  /-- VMOV (R344). Vector bit-for-bit move. -/
  | vmov (e : Eng) (o : VR)
  /-- VIOTA (R344). Vector add of the element index. -/
  | viota (e : Eng) (o : VR)
  /-- VCOMPRESS (R345). Packs active elements into consecutive destination elements. -/
  | vcompress (e : Eng) (o : VR)
  /-- VEXPAND (R345). Spreads packed elements to active destination elements. -/
  | vexpand (e : Eng) (o : VR)
  /-- VRSUM (R347). Sum reduction in fixed lane order. -/
  | vrsum (e : Eng) (o : VR)
  /-- VRMIN (R346). Minimum reduction. -/
  | vrmin (e : Eng) (o : VR)
  /-- VRMAX (R346). Maximum reduction. -/
  | vrmax (e : Eng) (o : VR)
  /-- VRAND (R346). AND reduction. -/
  | vrand (e : Eng) (o : VR)
  /-- VRIOR (R346). OR reduction. -/
  | vrior (e : Eng) (o : VR)
  /-- VRXOR (R346). Exclusive-OR reduction. -/
  | vrxor (e : Eng) (o : VR)
  /-- VRPOPC (R346). Counts 1 elements of a BIT stream added to b. -/
  | vrpopc (e : Eng) (o : VR)
  /-- VECTOR_RESERVED_OPCODE (R317). A vector reserved encoding raises RSV_V with no effect. -/
  | vectorReservedOpcode (e : Eng) (w : BitVec 32)
  /-- VSU_STRIP (R293). The VSU advances a committed group through one strip of all its members. -/
  | vsuStrip (e : Eng)
  /-- VSU_IDLE_EXPIRY (R180). After 4,096 idle ECLK the VSU starts gating its power. -/
  | vsuIdleExpiry (e : Eng)
  /-- VSU_GATED (R180). Gating finishes after 64 ECLK and the VSU is gated. -/
  | vsuGated (e : Eng)
  /-- VSU_WAKE_DONE (R181). A VSU wake ends after 1,800 ECLK and held instructions proceed. -/
  | vsuWakeDone (e : Eng)
  /-- CQ_STRIP_ARRIVE (R446). A strip sent through a wire lands in a stage of the destination queue. -/
  | cqStripArrive (e : Eng) (n : Fin 4)
  /-- CQ_OUTPUT_SEND (R385). A waiting output buffer is sent when the destination queue has room. -/
  | cqOutputSend (e : Eng) (n : Fin 4)
  /-- STALEMATE (R407). After 2^20 ECLK without chain progress the stalled members take STALE. -/
  | stalemate (chain : Byte)
  /-- TENDER_GO (R45). Writing 1 to SQ_TNDn_CTL.GO checks and starts a tender transfer. -/
  | tenderGo (w : Writer) (sq : SqId) (n : Fin 4) (v : Word)
  /-- TENDER_UNIT (R47). A tender channel commits one unit and advances SRC, DST and LEN. -/
  | tenderUnit (sq : SqId) (n : Fin 4)
  /-- REGISTER_WRITE (R21). A write to a register with no behaviour of its own updates its writable fields. -/
  | registerWrite (w : Writer) (addr v : Word)
  /-- MEM_UE_LOG_READ (R126). A read of MEM_UE_LOG clears VALID. -/
  | memUeLogRead (r : Reader)
  /-- MG_XCOAL_READ (R598). A read of a coalesce register clears its counters. -/
  | mgXcoalRead (r : Reader) (second : Bool)
  /-- WRITE (R90). A map command writes MAP_DATA into the live and shadow entry. -/
  | write (p : MapPort)
  /-- READ_LIVE (R90). A map command loads the live entry into MAP_DATA. -/
  | readLive (p : MapPort)
  /-- READ_SHADOW (R90). A map command loads the shadow entry into MAP_DATA. -/
  | readShadow (p : MapPort)
  /-- SHOOT (R91). A map command invalidates every cached copy of an entry. -/
  | shoot (p : MapPort)
  /-- WRITE_SHOOT (R92). A map command writes an entry and then shoots it down. -/
  | writeShoot (p : MapPort)
  /-- SHOOT_COMPLETE (R87). The invalidation reaches every cache and CMD_BUSY returns to 0. -/
  | shootComplete (p : MapPort)
  /-- SHOOT_DRAIN_COMPLETE (R92). Every access under the old entries is done and SHOOT_BUSY returns to 0. -/
  | shootDrainComplete
  /-- CASTLE (R96). Writing MAP_CTL.CASTLE swaps the live and shadow map copies. -/
  | castle (w : Writer)
  /-- CASTLE_FENCE_RESTORE (R99). CASTLE_FENCE returns to 1 when no old-epoch translation remains. -/
  | castleFenceRestore
  /-- REBUILD_GO (R93). Writing MAP_RB_CTL.GO checks and starts a shadow-map rebuild. -/
  | rebuildGo (w : Writer)
  /-- REBUILD_ENTRY (R94). The rebuild writes one checked entry into the shadow copy per NCLK. -/
  | rebuildEntry
  /-- PATROL_SCRUB (R127). The patrol scrub reads, corrects or poisons memory each period. -/
  | patrolScrub
  /-- DOORBELL (R530). A write to DB_TAIL accepts a new tail and notifies the home rank controller. -/
  | doorbell (ctx : Byte) (tail : BitVec 32)
  /-- DESCRIPTOR_READ (R531). The home rank controller reads and validates a job descriptor and queues or rejects it. -/
  | descriptorRead (ctx : Byte)
  /-- SQUARE_RESERVE (R63). A free square is reserved for the highest-priority job waiting for it. -/
  | squareReserve (sq : SqId)
  /-- RUNTIME_MEASURE (R507). The entry page is read and measured into the ledger before the first job of a context starts. -/
  | runtimeMeasure (ctx : Byte)
  /-- JOB_COMPLETE (R67). After all writes are visible the completion record is written and MSI-X sent. -/
  | jobComplete (job : Nat)
  /-- QUIESCE_COMPLETE (R40). Every engine of a quiescing square stops at a boundary and the square is QUIESCED. -/
  | quiesceComplete (sq : SqId)
  /-- SQUARE_FAIL (R42). A regulator, clock or switch fault puts the square in FAILED and ends its job. -/
  | squareFail (sq : SqId)
  /-- D2D_LINK_FAIL (R43). A quarter's die-to-die link fails and its squares and near stacks are withdrawn. -/
  | d2dLinkFail (q : Fin 4)
  /-- PARK_IDLE_EXPIRY (R576). An IDLE square is parked after PARKIDLE seconds idle. -/
  | parkIdleExpiry (sq : SqId)
  /-- TILE_STORE_WAKE_DONE (R104). Retained tile stores finish waking after 20 µs and the square leaves PARKED. -/
  | tileStoreWakeDone (sq : SqId)
  /-- SPARE_SUBSTITUTION (R417). The steward quiesces, substitutes the spare for a failed engine and remaps. -/
  | spareSubstitution (sq : SqId) (reason : SpareReason) (pos : Fin 9) (selfTestOk : Bool)
  /-- STRUCTURE_SWITCH (R430). An accepted image is applied at run time to the affected squares. -/
  | structureSwitch
  /-- STEWARD_LOOP_PERIOD (R571). Every 1 ms the steward measures and chooses operating points and limits. -/
  | stewardLoopPeriod (m : LoopSample)
  /-- OVERCURRENT_GUARD (R563). Input current above 105 A for 10 µs drives unpinned squares to index 0. -/
  | overcurrentGuard
  /-- POWER_BRAKE (R567). PWRBRK_N falling forces unpinned squares to index 0 and package power to the brake level. -/
  | powerBrake
  /-- POWER_BRAKE_RELEASE (R569). PWRBRK_N rising lets the steward restore operating points. -/
  | powerBrakeRelease
  /-- THERMTRIP (R476). Tj reaching 115 °C drives THERMTRIP_N low and stops conversion. -/
  | thermtrip
  /-- STAGE1_RATIO_CHANGE (R559). VIN crossing a band edge changes the stage-1 capacitor ratio. -/
  | stage1RatioChange (mv : BitVec 16)
  /-- VIN_VALID (R558). VIN rising above the valid threshold starts a power-on. -/
  | vinValid (mv : BitVec 16) (straps : Straps)
  /-- VIN_RESET (R558). VIN falling below the reset threshold stops conversion and holds device reset. -/
  | vinReset
  /-- VAUX_VALID (R483). VAUX becoming valid powers the management domain. -/
  | vauxValid (straps : Straps)
  /-- VAUX_LOSS (R561). Losing VAUX moves the management domain to VIN without reset. -/
  | vauxLoss
  /-- MANAGEMENT_DOMAIN_UP (R482). The management domain and I3C target come up (boot step 1). -/
  | managementDomainUp
  /-- CONVERSION_UP (R482). Stage 1 and stage 2 rails reach regulation (boot step 2). -/
  | conversionUp
  /-- HBM_TRAINING_DONE (R482). HBM training, hard repair and structure selection finish (boot step 5). -/
  | hbmTrainingDone (rowsRepaired : BitVec 16)
  /-- ZERO_FILL_DONE (R129). Zero fill of all memory finishes and the structure applies (boot steps 6 and 7). -/
  | zeroFillDone
  /-- SELF_TEST_DONE (R482). Engine self-test and spare substitutions finish (boot step 8). -/
  | selfTestDone (failed : List Eng)
  /-- DEVICE_RESET (R589). The whole part except kept items is reset and boots from step 3. -/
  | deviceReset (force : Bool)
  /-- RESET_N (R476). RESET_N held low for at least 1 µs starts a device reset. -/
  | resetN (force : Bool)
  /-- RESET_N_RELEASE (R482). RESET_N rising ends the held reset and boot timing starts. -/
  | resetNRelease
  /-- TESTEN (R660). TESTEN high holds the part in device reset. -/
  | testen
  /-- PERST_N (R662). PERST_N low resets the CXL port alone. -/
  | perstN
  /-- GET_INFO (R466). Returns an identification page. -/
  | getInfo (f : Frame)
  /-- OPEN_PHASE1 (R461). Returns a fresh nonce for opening a session on a slot. -/
  | openPhase1 (f : Frame)
  /-- OPEN_PHASE2 (R461). Checks the host proof and opens a session or counts a failed open. -/
  | openPhase2 (f : Frame)
  /-- CLOSE (R465). Closes the session. -/
  | close (f : Frame)
  /-- CLAIM (R467). Unwraps and stores the owner key and marks the part claimed. -/
  | claim (f : Frame)
  /-- SET_KEY (R468). Installs or empties a key slot after a ledger entry. -/
  | setKey (f : Frame)
  /-- GET_LEDGER (R514). Returns Boot Ledger entries. -/
  | getLedger (f : Frame)
  /-- ARCHIVE_LEDGER (R515). Records that entries up to L are archived and returns the head. -/
  | archiveLedger (f : Frame)
  /-- QUOTE (R516). Starts signing a quote of the ledger head with a nonce. -/
  | quote (f : Frame)
  /-- QUOTE_SIGNED (R516). Quote signing ends and the response becomes ready. -/
  | quoteSigned
  /-- LOAD_STRUCTURE (R469). Writes a chunk of a structure image into a slot. -/
  | loadStructure (f : Frame)
  /-- APPLY_STRUCTURE (R470). Checks the image in a slot and starts a structure switch. -/
  | applyStructure (f : Frame)
  /-- LOAD_FIRMWARE (R490). Writes a chunk of a firmware image into a slot. -/
  | loadFirmware (f : Frame)
  /-- SET_POLICY (R472). Replaces the owner or power policy after a ledger entry. -/
  | setPolicy (f : Frame)
  /-- GET_POLICY (R466). Returns a policy record. -/
  | getPolicy (f : Frame)
  /-- SET_CALIBRATION (R578). Clamps, stores and applies a calibration item. -/
  | setCalibration (f : Frame)
  /-- READ_HEALTH (R478). Returns health-log entries and optionally clears alert bits. -/
  | readHealth (f : Frame)
  /-- READ_SENSORS (R582). Returns the sensor record of the latest loop period. -/
  | readSensors (f : Frame)
  /-- GRANT_CONTEXT (R473). Grants a context its ring and MSI-X vector. -/
  | grantContext (f : Frame)
  /-- REVOKE_CONTEXT (R69). Revokes a context, ending its queued and running jobs. -/
  | revokeContext (f : Frame)
  /-- DEBUG_UNLOCK (R627). Checks a debug certificate and sets the debug level. -/
  | debugUnlock (f : Frame)
  /-- RESET_DOMAIN_DEVICE (R474). Answers and then starts a device reset. -/
  | resetDomainDevice (f : Frame)
  /-- RESET_DOMAIN_RANK (R474). Resets one rank. -/
  | resetDomainRank (f : Frame)
  /-- RESET_DOMAIN_SQUARE (R474). Resets one square. -/
  | resetDomainSquare (f : Frame)
  /-- RESET_DOMAIN_ENGINE (R474). Resets one logical engine. -/
  | resetDomainEngine (f : Frame)
  /-- SPARE_NOW (R475). Requests substitution of the spare for a named position. -/
  | spareNow (f : Frame)
  /-- UNKNOWN_COMMAND (R457). A frame with an opcode not in the command set is refused with BAD_OPCODE. -/
  | unknownCommand (opcode : Byte) (f : Frame)
  /-- RESPONSE_READ (R455). A private read takes the ready response and frees the command slot.  It is addressed
      to the part; a read at another address is another target's and no command of this one (R450). -/
  | responseRead
  /-- SESSION_TIMEOUT (R465). A session ends after 60 s without a command passing the TAG check. -/
  | sessionTimeout
  /-- LOCKOUT_EXPIRY (R463). A slot's lockout time runs out and the slot may be opened again. -/
  | lockoutExpiry (slot : Fin 4)
  /-- ENTDAA (R450). I3C CCC assigning a dynamic address. -/
  | entdaa (da : BitVec 7)
  /-- SETDASA (R450). I3C CCC assigning a dynamic address from the static address. -/
  | setdasa (a : StaticAssign)
  /-- SETNEWDA (R450). I3C CCC changing the dynamic address. -/
  | setnewda (da : BitVec 7)
  /-- RSTDAA (R450). I3C CCC removing the dynamic address. -/
  | rstdaa
  /-- ENEC (R450). I3C CCC enabling in-band interrupts. -/
  | enec (events : Byte)
  /-- DISEC (R450). I3C CCC disabling in-band interrupts. -/
  | disec (events : Byte)
  /-- GETPID (R451). I3C CCC returning the provisional ID. -/
  | getpid
  /-- GETBCR (R451). I3C CCC returning the BCR. -/
  | getbcr
  /-- GETDCR (R451). I3C CCC returning the DCR. -/
  | getdcr
  /-- GETSTATUS (R456). I3C CCC returning status including a pending interrupt. -/
  | getstatus
  /-- GETMWL (R451). I3C CCC returning the maximum write length. -/
  | getmwl
  /-- GETMRL (R451). I3C CCC returning the maximum read length. -/
  | getmrl
  /-- SETMWL (R451). I3C CCC setting the maximum write length, refused below 4,120. -/
  | setmwl (len : BitVec 16)
  /-- SETMRL (R451). I3C CCC setting the maximum read length, refused below 4,120. -/
  | setmrl (len : BitVec 16)
  /-- GETMXDS (R450). I3C CCC returning maximum data speed. -/
  | getmxds
  /-- ENTHDR0 (R450). I3C CCC entering HDR-DDR mode for private transfers. -/
  | enthdr0
  /-- REMAP (R481). A write of MG_SYSCTL.REMAP switches the alias window between ROM and SRAM. -/
  | remap (v : Word)
  /-- STEWARD_WATCHDOG_KICK (R613). A key write to MG_WD_KICK kicks the steward watchdog. -/
  | stewardWatchdogKick (v : Word)
  /-- STEWARD_WATCHDOG_EXPIRY (R613). The steward watchdog bites, taking an exception or restarting the steward core. -/
  | stewardWatchdogExpiry
  /-- NV_REFRESH (R498). The steward rewrites the next 4 KiB block of the NV store. -/
  | nvRefresh
  /-- CXL_MEM_READ (R522). A host CXL.mem read reaches HBM by physical address. -/
  | cxlMemRead (addr : Word)
  /-- CXL_MEM_WRITE (R522). A host CXL.mem write reaches HBM by physical address. -/
  | cxlMemWrite (addr : Word) (mask : BitVec 64) (data : BitVec 512) (poison : Bool)
  /-- HOST_SNOOP (R524). A host snoop is answered with a miss. -/
  | hostSnoop (addr : Word)
  /-- CXL_HBASE_WRITE (R525). A host write to CXL_HBASE holds a new host base. -/
  | cxlHbaseWrite (v : Word)
  /-- HB_HOSTBASE_COPY (R525). The steward copies CXL_HBASE into HB_HOSTBASE. -/
  | hbHostbaseCopy
  /-- SPDM_GET_MEASUREMENTS (R519). The SPDM responder returns the quote body for the requester's nonce. -/
  | spdmGetMeasurements (nonce : BitVec 256)
  /-- CXL_LINK_DOWN (R521). The CXL link goes down and the port alone is reset. -/
  | cxlLinkDown
  /-- CXL_LINK_UP (R534). The CXL link comes up and pending MSI-X messages are sent. -/
  | cxlLinkUp (width speed : BitVec 3)
  /-- FLIT_RECEIVE (R537). A Frarix flit arrives, its CRC is checked and a NAK or credit is handled. -/
  | flitReceive (link : Fin 8) (f : Flit)
  /-- FRX_LINK_TRAINED (R539). A Frarix link finishes training and learns the peer node ID. -/
  | frxLinkTrained (link : Fin 8) (peer : BitVec 16)
  /-- FRX_READ_REQUEST (R546). A remote read request for one sector is performed or denied. -/
  | frxReadRequest (link : Fin 8) (p : FrxPacket)
  /-- FRX_WRITE_REQUEST (R546). A remote write request for one sector is performed or denied. -/
  | frxWriteRequest (link : Fin 8) (p : FrxPacket)
  /-- FRX_AMO_REQUEST (R546). A remote AMO request is performed at the memory controller. -/
  | frxAmoRequest (link : Fin 8) (p : FrxPacket)
  /-- FRX_DAMO_REQUEST (R546). A remote DAMO request is performed at the memory controller. -/
  | frxDamoRequest (link : Fin 8) (p : FrxPacket)
  /-- FRX_RESPONSE (R548). A response completes a remote request with its status. -/
  | frxResponse (link : Fin 8) (p : FrxPacket)
  /-- FRX_WRITE_ACKNOWLEDGE (R548). A write acknowledge completes a remote write. -/
  | frxWriteAcknowledge (link : Fin 8) (p : FrxPacket)
  /-- FRX_REQUEST_TIMEOUT (R547). A remote request without response completes with TIMEOUT after 1 ms. -/
  | frxRequestTimeout (tag : BitVec 32)
  /-- FRX_STRIP (R553). An inbound tunnel accepts a strip into its queue or discards it. -/
  | frxStrip (link : Fin 8) (p : FrxPacket)
  /-- FRX_FREEZE_NOTICE (R554). A freeze notice arrives through a tunnel and freezes the chain. -/
  | frxFreezeNotice (link : Fin 8) (p : FrxPacket)
  /-- FRX_READY_NOTICE (R555). A ready notice arrives through a tunnel toward resumption. -/
  | frxReadyNotice (link : Fin 8) (p : FrxPacket)
  /-- FRX_ABORT_NOTICE (R554). An abort notice arrives through a tunnel and aborts the chain. -/
  | frxAbortNotice (link : Fin 8) (p : FrxPacket)
  /-- IK_RESYNC (R619). A resync sequence on IKDIO resets the frame state and clears ERR. -/
  | ikResync
  /-- DROP (R629). A write of 1 to IK_CTL.DROP lowers the debug level to NONE. -/
  | drop (f : IkFrame)
  /-- ABORT (R622). A write of 1 to IK_CTL.ABORT abandons the access in flight. -/
  | abort (f : IkFrame)
  /-- HALT (R632). A write of 1 to IK_CCTL.HALT requests a halt at the next boundary. -/
  | halt (f : IkFrame)
  /-- CORE_HALTED (R632). The core stops at a boundary and HALTED becomes 1. -/
  | coreHalted (core : Core)
  /-- RESUME (R636). A write of 1 to IK_CCTL.RESUME continues a halted core. -/
  | resume (f : IkFrame)
  /-- STEP (R636). A write of 1 to IK_CCTL.STEP executes one instruction and halts. -/
  | step (f : IkFrame)
  /-- IK_INSTR (R637). A word written to IK_INSTR executes once at the halt point. -/
  | ikInstr (f : IkFrame)
  /-- IK_RDATA (R638). An access to IK_RDATA reads or writes the selected register half. -/
  | ikRdata (wr : Bool) (f : IkFrame)
  /-- IK_CDATA (R639). An access to IK_CDATA performs a 32-bit access by the halted core. -/
  | ikCdata (wr : Bool) (f : IkFrame)
  /-- IK_MDATA (R645). An access to IK_MDATA performs a system memory master access. -/
  | ikMdata (wr : Bool) (f : IkFrame)
  /-- IK_TDATA (R652). A read of IK_TDATA returns trace bytes and advances IK_TADDR. -/
  | ikTdata (f : IkFrame)
  /-- IK_CNT (R651). A read of IK_CNT returns the selected counter half. -/
  | ikCnt (f : IkFrame)
  /-- IK_ACCESS_DONE (R620). An access-port access completes and its frames stop answering BUSY. -/
  | ikAccessDone
  /-- DEBUG_DURATION_EXPIRY (R629). The debug level falls to NONE when the certificate's duration has passed. -/
  | debugDurationExpiry
  /-- CXL_CACHE_COMPLETION (R526). The host completes a CXL.cache read or write that the part sent for a TGT = 1 page, possibly with poison or error. -/
  | cxlCacheCompletion (tag : BitVec 32) (status : HostStatus) (data : BitVec 512)
  /-- MSI_X_UNMASK (R534). A host write to the MSI-X table unmasks a vector and its pending message is sent. -/
  | msiXUnmask (vec : Byte)
  /-- SPDM_CHALLENGE (R519). An SPDM authentication request on DOE is answered with the device attestation key and certificate. -/
  | spdmChallenge (nonce : BitVec 256)
  /-- IDE_KM_KEY_PROG (R519). An IDE_KM message over SPDM programs IDE link keys into the CXL port. -/
  | ideKmKeyProg (stream : Byte) (key : BitVec 256)
  /-- HDR_EXIT_PATTERN (R450). The I3C controller's HDR exit pattern returns the target from HDR-DDR mode to SDR. -/
  | hdrExitPattern
  /-- OPEN_NONCE_EXPIRY (R462). The nonce Np of an OPEN phase 1 stops being valid 10 s after it was issued. -/
  | openNonceExpiry
  /-- PERST_N_RELEASE (R662). PERST_N rising releases the CXL port from reset so that it may train. -/
  | perstNRelease
  /-- TESTEN_RELEASE (R660). TESTEN falling ends the held device reset and a boot starts. -/
  | testenRelease
  /-- FRX_LINK_LOSS (R537). A Frarix link loses its peer or signal and goes down, so traffic moves to other links of each route. -/
  | frxLinkLoss (link : Fin 8)
  /-- IK_FRAME (R618). An Ikipin frame for a register that no other step names is acknowledged, performs its read or write and updates the expected toggle. -/
  | ikFrame (kind : BitVec 2) (reg : BitVec 4) (f : IkFrame)
  deriving DecidableEq, Repr

end Sys2Proof
end

