-- ==== Sys2Proof/Decode.lean ====
section
/-! DEFINITION. Commands from table words.  No row of `spec/opcode_table.json` gives bits, so no word
spells a command; the words of engine instructions are decoded in `Machine/EngineDecode.lean`. -/

namespace Sys2Proof

/-- The command that a table word spells: none. -/
def decodeTableWord (_nbits _w : Nat) : Option Instr := none

end Sys2Proof
end

