-- ==== Sys2Proof/Machine/Encoding.lean ====
section
/-! DEFINITION. The instruction formats (Tables 4.1 and 7.1) as words built from their fields. -/

namespace Sys2Proof.Machine

/-- R format: op, rd, ra, rb, fn. -/
def wordR (op : BitVec 6) (rd ra rb : Reg) (fn : BitVec 11) : BitVec 32 :=
  op ++ rd ++ ra ++ rb ++ fn

/-- R4 format: op, rd, ra, rb, rc, fn. -/
def wordR4 (op : BitVec 6) (rd ra rb rc : Reg) (fn : BitVec 6) : BitVec 32 :=
  op ++ rd ++ ra ++ rb ++ rc ++ fn

/-- I format: op, rd, ra, imm. -/
def wordI (op : BitVec 6) (rd ra : Reg) (imm : BitVec 16) : BitVec 32 := op ++ rd ++ ra ++ imm

/-- B format: op, A, cond, ra, disp. -/
def wordB (op : BitVec 6) (a : Bool) (cond : BitVec 4) (ra : Reg) (disp : BitVec 16) : BitVec 32 :=
  op ++ BitVec.ofBool a ++ cond ++ ra ++ disp

/-- J format: op, A, disp. -/
def wordJ (op : BitVec 6) (a : Bool) (disp : BitVec 25) : BitVec 32 := op ++ BitVec.ofBool a ++ disp

/-- JR format: op, A, L, zero, ra, zero. -/
def wordJR (op : BitVec 6) (a l : Bool) (ra : Reg) : BitVec 32 :=
  op ++ BitVec.ofBool a ++ BitVec.ofBool l ++ (0 : BitVec 3) ++ ra ++ (0 : BitVec 16)

/-- L format: op, rs, disp. -/
def wordL (op : BitVec 6) (rs : Reg) (disp : BitVec 21) : BitVec 32 := op ++ rs ++ disp

/-- S format: op, sub, r, imm. -/
def wordS (op : BitVec 6) (sub r : BitVec 5) (imm : BitVec 16) : BitVec 32 := op ++ sub ++ r ++ imm

/-- VR format: op, C, mK, sdD, sdA, sdB, t, fn. -/
def wordVR (op : BitVec 6) (c : Bool) (m : BitVec 3) (d a b t : BitVec 4) (fn : BitVec 6) :
    BitVec 32 :=
  op ++ BitVec.ofBool c ++ m ++ d ++ a ++ b ++ t ++ fn

/-- VT format: op, C, mK, sdD, sdA, sdB, sdC, fn, t. -/
def wordVT (op : BitVec 6) (c : Bool) (m : BitVec 3) (d a b x fn : BitVec 4) (t : BitVec 2) :
    BitVec 32 :=
  op ++ BitVec.ofBool c ++ m ++ d ++ a ++ b ++ x ++ fn ++ t

/-- VS format: op, zero, sub, rd, ra, imm. -/
def wordVS (op : BitVec 6) (sub : BitVec 4) (rd ra : Reg) (imm : BitVec 11) : BitVec 32 :=
  op ++ (0 : BitVec 1) ++ sub ++ rd ++ ra ++ imm

end Sys2Proof.Machine
end

