-- ==== Sys2Proof/Config.lean ====
section
/-! DEFINITION. What one part fixes and the spec leaves open: every constant here is opaque, so
no proof can see a value.  A constant over a counter is a free value (the counter is the field
`free` of the state); a constant over operands is a fixed function of the part. -/

namespace Sys2Proof.Config

/-- A free 64-bit value: a result the spec leaves undefined at this moment of the run. -/
opaque freeWord : Nat → BitVec 64

/-- A free bit, for a choice the spec leaves open at this moment of the run. -/
opaque freeBool : Nat → Bool

/-- A free natural number, for a choice among several that the spec leaves open (the victim of a
    full cache set or translation cache). -/
opaque freeNat : Nat → Nat

/-- The value between 0 and 1 that R378 leaves open when a square root ends with a remainder, as a
    function of the remainder and the root bits. -/
opaque rootRho : BitVec 64 → BitVec 64 → Nat

/-- Fresh random bytes of the crypto unit (R461, R626). -/
opaque random : Nat → BitVec 256

/-- Sarpethal's PCI-SIG vendor ID (R520), which the spec does not give as a number. -/
opaque vendorId : BitVec 16

/-- REVISION_ID of the configuration space, which the spec does not give. -/
opaque pciRevision : BitVec 8

/-- The device serial in the fuses (Table 12.2). -/
opaque serial : BitVec 128

/-- The fused SHA-512 of the vendor firmware root key's modulus (Table 12.2). -/
opaque fwKeyHash : BitVec 512

/-- The fused SHA-512 of the vendor structure key's modulus (Table 12.2). -/
opaque stKeyHash : BitVec 512

/-- The modulus of the vendor structure key that SIGSLOT 0 names, which the part holds and whose hash
    the fuses hold (R424, Table 12.2). -/
opaque stKeyModulus : BitVec 4096

/-- The fused SHA-512 of the debug authority's modulus (Table 12.2). -/
opaque dbgKeyHash : BitVec 512

/-- The fused ROM revision (Table 12.2). -/
opaque romRevision : BitVec 16

/-- The bytes of the ROM (Table 11.11): the manual does not give them. -/
opaque romByte : Nat → BitVec 8

/-- SHA-512 of the ROM, the measurement of its ledger entry (Table 12.9). -/
opaque romHash : BitVec 512

/-- SHA-512 of the factory region, the measurement of the genesis entry (Table 12.9). -/
opaque factoryHash : BitVec 512

/-- The factory firmware image of the factory region (R491). -/
opaque factoryImage : List (BitVec 8)

/-- The device attestation certificate, X.509 DER (Table 11.7). -/
opaque attestCert : List (BitVec 8)

/-- The modulus of the device transport key (Table 11.7). -/
opaque transportModulus : BitVec 4096

/-- The wrapping secret in the fuses (Table 12.2): no instruction and no command reads it, and the crypto unit
    alone uses it (R486). -/
opaque wrappingSecret : BitVec 256

/-- The private keys of the device attestation and transport keys in the factory region, wrapped under the
    wrapping secret (R486, Table 12.6). -/
opaque wrappedAttestKey : List (BitVec 8)

/-- The wrapped private key of the device transport key. -/
opaque wrappedTransportKey : List (BitVec 8)

/-- The crypto unit's unwrapping of a private key under a secret (R486); the spec names no algorithm. -/
opaque unwrapKey : BitVec 256 → List (BitVec 8) → List (BitVec 8)

/-- RSASSA-PSS signature under a private key, with the salt drawn at the given moment (R512, R516). -/
opaque pssSign : List (BitVec 8) → Nat → List (BitVec 8) → BitVec 4096

/-- RSAES-OAEP decryption under a private key (R467). -/
opaque oaepDecrypt : List (BitVec 8) → BitVec 4096 → Option (List (BitVec 8))

/-- A signature under the device attestation private key, which never leaves the crypto unit unwrapped. -/
def attestSign (moment : Nat) (m : List (BitVec 8)) : BitVec 4096 :=
  pssSign (unwrapKey wrappingSecret wrappedAttestKey) moment m

/-- A decryption under the device transport private key, which never leaves the crypto unit unwrapped. -/
def oaepUnwrap (sealed_ : BitVec 4096) : Option (List (BitVec 8)) :=
  oaepDecrypt (unwrapKey wrappingSecret wrappedTransportKey) sealed_

/-- The CRC-64 of a flit's bytes 0 to 247 (R536): the spec names no polynomial. -/
opaque flitCrc : BitVec 1984 → BitVec 64

/-- The package power in 10 mW, without that of the pinned squares, which the steward predicts for other indices,
    scaled from what this period measured (R571): the package power in 0.1 W, and the powers and indices of the
    squares that are not pinned, then their other indices.  The spec gives no formula. -/
opaque predictedPower : Nat → List Nat → List Nat → List Nat → Nat

/-- The index that the steward picks for a square within its bounds where they leave a choice (R571,
    policy MODE): a function of the moment and of the square. -/
opaque pickIndex : Nat → Nat → Nat

/-- The rows hard-repaired before the part's first power-on (Table 2.14). -/
opaque factoryHardRows : BitVec 16

end Sys2Proof.Config
end

