-- ==== Sys2Proof/Machine/Sha.lean ====
section
/-! DEFINITION. The crypto unit's public functions: SHA-512 (FIPS 180-4), HMAC-SHA-512, MGF1 with
SHA-512, and the verification of RSASSA-PSS with SHA-512 and a 64-byte salt under exponent 65,537
(R423, R454, R461, R487, R625).  The spec names these standards and takes their definitions. -/

namespace Sys2Proof.Machine

/-- A byte string of `n` bytes holding `v`, least significant byte first (R17). -/
def leBytes (n : Nat) (v : Nat) : List Byte :=
  (List.range n).map fun i => BitVec.ofNat 8 (v >>> (8 * i))

/-- A byte string of `n` bytes holding `v`, most significant byte first. -/
def beBytes (n : Nat) (v : Nat) : List Byte :=
  (List.range n).map fun i => BitVec.ofNat 8 (v >>> (8 * (n - 1 - i)))

/-- The number a byte string holds, least significant byte first (R17). -/
def leNat : List Byte → Nat
  | [] => 0
  | b :: bs => b.toNat + 256 * leNat bs

/-- The number a byte string holds, most significant byte first. -/
def beNat (bs : List Byte) : Nat := bs.foldl (fun n b => n * 256 + b.toNat) 0

/-- The bytes of an ASCII string. -/
def ascii (s : String) : List Byte := s.toList.map fun c => BitVec.ofNat 8 c.toNat

/-- `n` bytes of `bs` from offset `off`; bytes past the end read 0. -/
def bytesAt (bs : List Byte) (off n : Nat) : List Byte :=
  let t := (bs.drop off).take n
  t ++ List.replicate (n - t.length) 0

/-- The little-endian field of `n` bytes at offset `off`. -/
def fieldAt (bs : List Byte) (off n : Nat) : Nat := leNat (bytesAt bs off n)

/-- Bytes padded with zeros, or cut, to exactly `n`. -/
def padTo (n : Nat) (bs : List Byte) : List Byte := bytesAt bs 0 n

/-- A number of 512 bits as eight words, the most significant first. -/
def eightWords (x : Nat) : List Word := (List.range 8).map fun i => BitVec.ofNat 64 (x >>> (448 - 64 * i))

/-- The round constants K of FIPS 180-4, 4.2.3, eight to a number. -/
def shaConstants : List Nat :=
  [0x428a2f98d728ae227137449123ef65cdb5c0fbcfec4d3b2fe9b5dba58189dbbc3956c25bf348b53859f111f1b605d019923f82a4af194f9bab1c5ed5da6d8118,
   0xd807aa98a303024212835b0145706fbe243185be4ee4b28c550c7dc3d5ffb4e272be5d74f27b896f80deb1fe3b1696b19bdc06a725c71235c19bf174cf692694,
   0xe49b69c19ef14ad2efbe4786384f25e30fc19dc68b8cd5b5240ca1cc77ac9c652de92c6f592b02754a7484aa6ea6e4835cb0a9dcbd41fbd476f988da831153b5,
   0x983e5152ee66dfaba831c66d2db43210b00327c898fb213fbf597fc7beef0ee4c6e00bf33da88fc2d5a79147930aa72506ca6351e003826f142929670a0e6e70,
   0x27b70a8546d22ffc2e1b21385c26c9264d2c6dfc5ac42aed53380d139d95b3df650a73548baf63de766a0abb3c77b2a881c2c92e47edaee692722c851482353b,
   0xa2bfe8a14cf10364a81a664bbc423001c24b8b70d0f89791c76c51a30654be30d192e819d6ef5218d69906245565a910f40e35855771202a106aa07032bbd1b8,
   0x19a4c116b8d2d0c81e376c085141ab532748774cdf8eeb9934b0bcb5e19b48a8391c0cb3c5c95a634ed8aa4ae3418acb5b9cca4f7763e373682e6ff3d6b2b8a3,
   0x748f82ee5defb2fc78a5636f43172f6084c87814a1f0ab728cc702081a6439ec90befffa23631e28a4506cebde82bde9bef9a3f7b2c67915c67178f2e372532b,
   0xca273eceea26619cd186b8c721c0c207eada7dd6cde0eb1ef57d4f7fee6ed17806f067aa72176fba0a637dc5a2c898a6113f9804bef90dae1b710b35131c471b,
   0x28db77f523047d8432caab7b40c724933c9ebe0a15c9bebc431d67c49c100d4c4cc5d4becb3e42b6597f299cfc657e2a5fcb6fab3ad6faec6c44198c4a475817]

/-- The initial hash value of FIPS 180-4, 5.3.5, as one number. -/
def shaSeed : Nat :=
  0x6a09e667f3bcc908bb67ae8584caa73b3c6ef372fe94f82ba54ff53a5f1d36f1510e527fade682d19b05688c2b3e6c1f1f83d9abfb41bd6b5be0cd19137e2179

/-- The exclusive or of a word rotated right by each of some amounts: the functions Σ of FIPS 180-4,
    4.1.3. -/
def turned (w : Word) (amounts : List Nat) : Word := amounts.foldl (fun acc n => acc ^^^ w.rotateRight n) 0

/-- The message schedule (FIPS 180-4, 6.4.2, step 1), word by word: `win` holds the last sixteen words,
    the oldest first. -/
def schedule : Nat → List Word → List Word
  | 0, _ => []
  | n + 1, win =>
    let old := win.headD 0
    let small0 := turned (win.getD 1 0) [1, 8] ^^^ win.getD 1 0 >>> 7
    let small1 := turned (win.getD 14 0) [19, 61] ^^^ win.getD 14 0 >>> 6
    old :: schedule n (win.drop 1 ++ [old + small0 + win.getD 9 0 + small1])

/-- The eight working variables of a round. -/
structure ShaVars where
  a : Word
  b : Word
  c : Word
  d : Word
  e : Word
  f : Word
  g : Word
  h : Word

/-- One round (FIPS 180-4, 6.4.2, step 3) with the sum of its constant and its schedule word. -/
def shaStep (x : ShaVars) (k : Word) : ShaVars :=
  let choose := x.g ^^^ (x.e &&& (x.f ^^^ x.g))
  let most := (x.a &&& (x.b ||| x.c)) ||| (x.b &&& x.c)
  let t := k + x.h + turned x.e [14, 18, 41] + choose
  { a := t + turned x.a [28, 34, 39] + most, b := x.a, c := x.b, d := x.c, e := x.d + t, f := x.e,
    g := x.f, h := x.g }

/-- One block of 128 bytes (FIPS 180-4, 6.4.2). -/
def shaBlock (hash : List Word) (blk : List Byte) : List Word :=
  let first := (List.range 16).map fun i => BitVec.ofNat 64 (beNat (bytesAt blk (8 * i) 8))
  let ks := List.zipWith (· + ·) (shaConstants.flatMap eightWords) (schedule 80 first)
  let w (i : Nat) : Word := hash.getD i 0
  let z := ks.foldl shaStep ⟨w 0, w 1, w 2, w 3, w 4, w 5, w 6, w 7⟩
  List.zipWith (· + ·) hash [z.a, z.b, z.c, z.d, z.e, z.f, z.g, z.h]

/-- SHA-512 over whole blocks; the first argument bounds their number. -/
def shaBlocks : Nat → List Word → List Byte → List Word
  | 0, h, _ => h
  | _ + 1, h, [] => h
  | n + 1, h, bs => shaBlocks n (shaBlock h (bs.take 128)) (bs.drop 128)

/-- SHA-512 of a byte string, as 64 bytes. -/
def sha512 (m : List Byte) : List Byte :=
  let z := (239 - m.length % 128) % 128
  let p := m ++ 0x80 :: List.replicate z 0 ++ beBytes 16 (8 * m.length)
  (shaBlocks (p.length / 128) (eightWords shaSeed) p).flatMap fun w => beBytes 8 w.toNat

/-- HMAC-SHA-512. -/
def hmac512 (key m : List Byte) : List Byte :=
  let k := padTo 128 (if key.length > 128 then sha512 key else key)
  sha512 (k.map (· ^^^ 0x5c) ++ sha512 (k.map (· ^^^ 0x36) ++ m))

/-- MGF1 with SHA-512: `n` bytes of mask from a seed. -/
def mgf1 (seed : List Byte) (n : Nat) : List Byte :=
  ((List.range ((n + 63) / 64)).flatMap fun i => sha512 (seed ++ beBytes 4 i)).take n

/-- `b` to the power 65,537 modulo `n`: sixteen squarings and one product. -/
def powF4 (b n : Nat) : Nat :=
  ((List.range 16).foldl (fun x _ => x * x % n) (b % n)) * b % n

/-- RSASSA-PSS verification under a 4,096-bit modulus, with SHA-512, MGF1 with SHA-512 and a 64-byte salt
    (RFC 8017, 8.1.2 and 9.1.2, with 4,095 bits of encoded message). -/
def pssVerify (n : Nat) (sig m : List Byte) : Bool :=
  let s := beNat sig
  if sig.length ≠ 512 ∨ n ≤ s then false
  else
    let em := beBytes 512 (powF4 s n)
    let mdb := em.take 447
    let h := (em.drop 447).take 64
    let db0 := List.zipWith (· ^^^ ·) mdb (mgf1 h 447)
    let db := (db0.headD 0 &&& 0x7f) :: db0.drop 1
    (em.getD 511 0 == 0xbc) && (em.headD 0 &&& 0x80 == 0) &&
      (db.take 383 == List.replicate 382 0 ++ [1]) &&
      (sha512 (List.replicate 8 0 ++ sha512 m ++ db.drop 383) == h)

/-- 64 bytes as one word, for a measurement field of the state. -/
def hashWord (bs : List Byte) : BitVec 512 := BitVec.ofNat 512 (leNat bs)

/-- The 64 bytes of a measurement field. -/
def hashBytes (w : BitVec 512) : List Byte := leBytes 64 w.toNat

/-- A Boot Ledger entry (Table 12.8): SEQ, BOOT, TYPE, FLAGS, COMP, MEAS, DATA, TIME. -/
def ledgerEntry (seq : Nat) (boot : BitVec 32) (typ flags : BitVec 16) (comp meas data : List Byte)
    (time : Word) : List Byte :=
  leBytes 8 seq ++ leBytes 4 boot.toNat ++ leBytes 2 typ.toNat ++ leBytes 2 flags.toNat ++
    padTo 16 comp ++ padTo 64 meas ++ padTo 24 data ++ leBytes 8 time.toNat

/-- The head after an entry (R502): SHA-512 of the head before it and its 128 bytes. -/
def ledgerHead (prev : BitVec 512) (entry : List Byte) : BitVec 512 :=
  hashWord (sha512 (hashBytes prev ++ entry))

/-- The head before the genesis entry (R502). -/
def ledgerRoot : BitVec 512 :=
  hashWord (sha512 (ascii "BNLH" ++ leBytes 16 Config.serial.toNat))

/-- The GENESIS entry, written at manufacture (R504, Table 12.9). -/
def genesisEntry : List Byte :=
  ledgerEntry 0 0 1 0 (ascii "BN9512") (hashBytes Config.factoryHash)
    (leBytes 16 Config.serial.toNat) 0

/-- The head after the genesis entry. -/
def genesisHead : BitVec 512 := ledgerHead ledgerRoot genesisEntry

end Sys2Proof.Machine
end

