-- ==== Sys2Proof/Machine/State.lean ====
section
/-! DEFINITION. The state of the block, as plain data: every register, buffer, counter, mode and
pin the spec gives the BN9512, and the queue of waiting commands.  The default of a field is its
value in `State.reset`: the reset value the spec gives, or the value that a log entry names. -/

namespace Sys2Proof.Machine

/-- A sparse map from numbers to values, keys strictly rising; an unlisted key reads as the default that
    its reader names.  A map written with `SMap.set` (a memory, the entry map, the routes) also lists no
    entry equal to that default (`SMap.wf`); one written with `SMap.put` (engines, squares) may. -/
abbrev SMap (α : Type) := List (Nat × α)

/-- A memory of bytes: (address, byte) pairs in canonical form; an unlisted address reads 0, the
    value of the zero fill (R105, R129; log entry 6). -/
abbrev Mem := List Host.Cell

/-- Why the block stops.  The spec gives every command of the table an effect, so no meaning
    raises one. -/
inductive Fault
  /-- Raised by no meaning; the type of faults is closed with this one name.  Safe. -/
  | unused
  deriving DecidableEq, Repr

/-- Why a command is refused. -/
inductive Refusal
  /-- The command has no meaning yet, named by its mnemonic.  Safe: nothing can be proved of it. -/
  | notModelled (mnemonic : String)
  deriving DecidableEq, Repr

/-! ### Engines -/

/-- What a physical engine does with its instruction stream (R64 to R68, R240). -/
inductive EngRun
  /-- no job runs on it: after a reset, before a job starts -/
  | idle
  /-- runs the program of a job -/
  | running
  /-- executed JEND (R67) -/
  | ended
  /-- its job has ended within one of its strips or atomic accesses, which it brings to its end (R68) -/
  | stopping
  /-- stopped by a fail-stop or by the end of its job (R68, R240) -/
  | stopped
  deriving DecidableEq, Repr

/-- The power state of a VSU (Table 3.10). -/
inductive VsuPower
  | on
  | gating
  | gated
  | waking
  deriving DecidableEq, Repr

/-- A pending delay slot: the branch's address, its outcome and its target (R160, R263). -/
structure Slot where
  bpc : Word
  taken : Bool
  tgt : Word
  deriving DecidableEq, Repr

/-- An event that takes an exception: the fields of EC_CAUSE it sets and its EC_FADDR (Tables 5.3,
    5.4, 5.11). -/
structure Ev where
  code : Byte
  acc : BitVec 3 := 0
  check : BitVec 3 := 0
  high : Bool := false
  detail : Byte := 0
  sd : BitVec 4 := 0
  faddr : Word := 0
  deriving DecidableEq, Repr

/-- A vector event that waits for the next boundary: the event, the address of the held
    instruction, and the EC_MODE bits and ring in force at its commit (R259, R264). -/
structure VEvent where
  ev : Ev
  vpc : Word
  mode : BitVec 5
  ring : BitVec 2
  vvalid : Bool := true
  deriving DecidableEq, Repr

/-- A windowed watchdog of an engine (Tables 15.4, 15.5, R609 to R612).  `ready` is a bite not yet
    taken at a boundary; `second` says that it came while a first bite was outstanding. -/
structure EngWd where
  close : BitVec 24 := 0
  opn : BitVec 24 := 0
  en : Bool := false
  t : BitVec 24 := 0
  bite1 : Bool := false
  early : Bool := false
  late : Bool := false
  badkey : Bool := false
  cfgerr : Bool := false
  ready : Bool := false
  second : Bool := false
  recent : Bool := false
  deriving DecidableEq, Repr

/-- What a vector instruction captures of a stream descriptor (R270, R273): its number and words 0
    and 1. -/
structure VDesc where
  sd : BitVec 4 := 0
  base : Word := 0
  ctl : Word := 0
  deriving DecidableEq, Repr

/-- A captured vector operand (R270): its descriptor, the index descriptor of a GATHER or SCATTER,
    and the value of the general register or pair that a SCALAR operand names. -/
structure VOperand where
  desc : VDesc := {}
  idx : VDesc := {}
  lo : Word := 0
  hi : Word := 0
  deriving DecidableEq, Repr

/-- Where the bytes of an access lie. -/
inductive Place
  | hbm (pa : Nat)
  | tile (key : Nat)
  | host (addr : Nat)
  | remote (node : BitVec 16) (pa : Nat)
  deriving DecidableEq, Repr

/-- A place, and whether the caches may hold it (R106). -/
structure Target where
  place : Place
  cached : Bool
  deriving DecidableEq, Repr

/-- A sector of host or remote memory that a write stream has begun to write: the place and the address of its
    first byte written, the bytes enabled so far, and the data (R524, R545).  `old` and `shot` say of the entry
    that translated it what they say of an access on its way. -/
structure FarWrite where
  place : Place
  va : Word
  mask : BitVec 64
  data : BitVec 512
  old : Bool := false
  shot : Bool := false
  deriving DecidableEq, Repr

/-- The parts of a scalar access under way, as it resolved them, which it does not do again (R117, R219): the
    address, the length and the target of each.  `old` and `shot` say of the entries that translated them what
    they say of an access on its way. -/
structure Way where
  parts : List (Word × Nat × Target) := []
  old : Bool := false
  shot : Bool := false
  deriving DecidableEq, Repr

/-- A member of a committed group: its word and address, its captured operands, mask descriptor and
    mask register, and what it carries from strip to strip: the kept count of VCOMPRESS and VEXPAND
    and index elements not yet used (R345), the partial results of a reduction (R346, R347), and its
    EC_ERANGE record (R311).  `started` says that its first element has committed, `base` is the initial value
    of a reduction read before that (R346). -/
structure VMember where
  word : BitVec 32
  pc : Word
  d : VOperand := {}
  srcs : List VOperand := []
  mask : VDesc := {}
  mcfg : Byte := 0
  started : Bool := false
  kept : Nat := 0
  fifo : List Nat := []
  acc : List Int := []
  base : Option Nat := none
  erange : Word := 0
  deriving DecidableEq, Repr

/-- A translation in use as the current page of a stream port or a tender channel (R98): the port,
    the page index, the entry, and whether it belongs to an epoch before the last castling. -/
structure PageRef where
  port : Nat
  page : Nat
  entry : Word
  old : Bool := false
  deriving DecidableEq, Repr

/-- A committed vector instruction or chained group on its way through the VSU: the values it
    captured at commit (R270), the element it started or resumed at and the one it goes on from,
    whether it raised a trapping flag, the current pages of its ports, the bytes it has written with their
    values before it (R298), and its strip length (R286).  `first` is the element it started afresh at (R346).
    `fill` has the bytes written so far of each sector that its write stream writes whole over an error (R123),
    `healed` the sectors it has so written, `bits` the bytes of BIT elements it has written to host and remote
    memory (R296), `far` the sector of each member's stream on its way there, and `lines` the last sector that
    each of its UNIT streams has read there, by its port (R545). -/
structure VGroup where
  members : List VMember
  vl : Nat
  gs : BitVec 2
  fctl : Word
  dctl : Word
  mode : BitVec 5
  ring : BitVec 2
  start : Nat
  prog : Nat
  trapped : Bool := false
  pages : List PageRef := []
  undo : SMap Byte := []
  strip : Nat := 1
  first : Nat := 0
  fill : SMap (BitVec 64) := []
  healed : List Nat := []
  bits : SMap Byte := []
  far : SMap FarWrite := []
  lines : SMap (Nat × BitVec 512) := []
  deriving DecidableEq, Repr

/-- What is wrong with a stored byte of an on-chip array under its code (R120): one wrong bit, two, or a
    byte of an address of the other parity.  Bits 0 to 7 are data, 8 to 12 check bits. -/
inductive ByteFlaw
  | bit (i : Fin 13)
  | bits (i j : Fin 13)
  | moved
  deriving DecidableEq, Repr

/-- A strip of a chain queue: its bytes, the tag fields of Table 9.1, and what is wrong with its bytes by
    the check bits that the data carries (R383, R389), by the byte's number. -/
structure Strip where
  data : List Byte
  nbytes : BitVec 9
  eop : Bool
  pseq : BitVec 4
  flaws : SMap ByteFlaw := []
  deriving DecidableEq, Repr

/-- A chain queue of an engine: the strips that have arrived, oldest first, how many bits of the
    oldest are used, and the element bookkeeping of its current packet (R383 to R390). -/
structure ChainQueue where
  strips : List Strip := []
  used : Nat := 0
  inPacket : Bool := false
  pseq : BitVec 4 := 0
  deriving DecidableEq, Repr

/-- An output buffer of an engine: the bits of the packet not yet sent, whether a packet is open,
    the next packet number, a full strip that waits for room, and strips on the wire (R384, R385). -/
structure CqOutput where
  buf : List Bool := []
  opened : Bool := false
  pseq : BitVec 4 := 0
  waiting : Option Strip := none
  wire : List Strip := []
  deriving DecidableEq, Repr

/-- The debug state of a core (R632 to R643): what IK_CCTL and IK_CSTAT hold, the selected
    register, the address and the latches of 64-bit accesses.  `feed` is set while a debug access or a
    fed instruction acts on an engine, `regs` are the registers g0 to g31 and the PC of a halted steward
    or rank controller, whose firmware the model does not run. -/
structure CoreDbg where
  halted : Bool := false
  haltReq : Bool := false
  haltBrk : Bool := false
  frz : BitVec 4 := 15
  step : Bool := false
  reason : BitVec 3 := 0
  rst : Bool := false
  bites : BitVec 2 := 0
  fcode : Byte := 0
  rsel : BitVec 9 := 0
  caddr : BitVec 48 := 0
  latch : BitVec 32 := 0
  hold : BitVec 32 := 0
  feed : Bool := false
  regs : List Word := []
  deriving DecidableEq, Repr

/-- How a host or remote access ended, for the requester that sent it (R526, R548). -/
structure Resp where
  status : Byte
  data : BitVec 512
  deriving DecidableEq, Repr

/-- What a compared scalar write of a paired engine has come to (R412, R414): posted for the twin to
    compare, performed with a result, met by a fault as it was performed, or found to diverge. -/
inductive TwinTok
  | posted (kind : Byte) (addr : Word) (size : Nat) (data : BitVec 128)
  | performed (result : Word)
  | faulted (v : Ev)
  | diverged (addr : Word)
  deriving DecidableEq, Repr

/-- A write that a paired engine's stream compares (R412, R413): the address of its element (0 at a pair exit),
    whether the element writes, and its data. -/
structure PairWrite where
  addr : Word
  enable : Bool
  data : Nat
  deriving DecidableEq, Repr

/-- What a paired engine's stream has posted for its twin: an element, its compared writes in member order,
    and whether the twin has agreed. -/
structure StreamTok where
  index : Nat
  writes : List PairWrite
  agreed : Bool := false
  deriving DecidableEq, Repr

/-- The trap, gate and interrupt registers of an engine (Tables 5.10 to 5.16). -/
structure TrapRegs where
  ring : BitVec 2 := 0
  ie : Bool := false
  dbl : Bool := false
  vheld : Bool := false
  cause : Word := 0
  faddr : Word := 0
  trapen : BitVec 10 := 0x3FF
  vecbase : Word := 0
  gatebase : Word := 0
  ipend : BitVec 2 := 0
  ien : BitVec 2 := 0
  deriving DecidableEq, Repr

/-- The loop registers of an engine (Tables 3.12, 3.13). -/
structure LoopRegs where
  lps : Vector Word 4 := Vector.replicate 4 0
  lpe : Vector Word 4 := Vector.replicate 4 0
  lpc : Vector (BitVec 32) 4 := Vector.replicate 4 0
  st : BitVec 16 := 0
  deriving DecidableEq, Repr

/-- The vector registers of an engine that instructions and the control block reach ("Vector
    streams", register tables), its staging registers and its queue of committed groups, the head
    of which the VSU runs.  `gpend` holds the members of an open chained group (R290, R291), `resp` what
    the current element has read that may not be read again (R301), `twin` its element compared with the
    twin's (R413).  `starved` says that the group waits on an empty source queue or a full output (R306). -/
structure VecRegs where
  vl : BitVec 24 := 0
  vprog : BitVec 24 := 0
  vflags : BitVec 9 := 0
  gs : BitVec 2 := 0
  erange : Vector Word 4 := Vector.replicate 4 0
  sd : Vector Word 64 := Vector.replicate 64 0
  v : Vector (BitVec 8192) 8 := Vector.replicate 8 0
  q : List VGroup := []
  gpend : List (BitVec 32 × Word) := []
  stopped : Bool := false
  starved : Bool := false
  resp : SMap Resp := []
  twin : Option StreamTok := none
  held : Option VEvent := none
  imprecise : List VEvent := []
  deriving DecidableEq, Repr

/-- The power state of a VSU, its idle count and its wakes (Table 3.10).  `wakeReq` is a wake that waits
    for gating to finish, `stall` says that a vector instruction started the wake: no later instruction
    commits until it ends (R181). -/
structure VsuRegs where
  st : VsuPower := .on
  idle : BitVec 13 := 0
  wakes : BitVec 32 := 0
  wakeReq : Bool := false
  stall : Bool := false
  deriving DecidableEq, Repr

/-- The caches and the predictor of an engine (R86, R106, R164): lines by their key, the entries of
    the translation cache by page index, the two-bit counters and the return stack. -/
structure Caches where
  ic : SMap (BitVec 512) := []
  dc : SMap (BitVec 512) := []
  tlb : SMap Word := []
  pred : SMap (BitVec 2) := []
  rets : List Word := []
  deriving DecidableEq, Repr

/-- The architected state of one physical engine (Table 3.1) and what the spec lets an event of the
    part see of it.  `fresh` marks the first instruction after a GATE or GRET (R255), `mid` an instruction
    at the boundary that no event parts: a split access between its parts (R219), a remote atomic on its way
    (R117), a compared write that the primary has performed (R412), and `barred` the boundary after a VBARRIER
    (R352).  `way` is what the access under way has resolved.  `wfi` is a WFI that waits (R229), `defer` the
    deferred write error (R549). -/
structure Engine where
  run : EngRun := .idle
  job : Nat := 0
  ctx : Byte := 0
  pc : Word := 0
  slot : Option Slot := none
  g : Vector Word 32 := Vector.replicate 32 0
  m : Vector Byte 8 := Vector.replicate 8 0
  stk : Vector (BitVec 48) 4 := Vector.replicate 4 0
  loops : LoopRegs := {}
  mode : BitVec 5 := 2
  cycle : Word := 0
  trap : TrapRegs := {}
  sync : SMap Word := []
  fctl : Word := 0
  fflags : BitVec 7 := 0
  dctl : Word := 0x1000
  vec : VecRegs := {}
  vsu : VsuRegs := {}
  cq : Vector ChainQueue 4 := Vector.replicate 4 {}
  outs : Vector CqOutput 4 := Vector.replicate 4 {}
  resv : Option Nat := none
  tsconf : Vector (BitVec 32) 3 := Vector.replicate 3 0
  tchan : BitVec 5 := 0
  tmask : BitVec 32 := 0
  wd : EngWd := {}
  caches : Caches := {}
  defer : Option (Word × BitVec 3) := none
  resp : SMap Resp := []
  fresh : Bool := false
  mid : Bool := false
  way : Way := {}
  barred : Bool := false
  wfi : Bool := false
  twin : Option TwinTok := none
  dbg : CoreDbg := {}
  count : Vector Word 8 := Vector.replicate 8 0
  deriving DecidableEq, Repr

/-! ### Squares -/

/-- A square state (Table 1.6). -/
inductive SqState
  | parked
  | idle
  | busy
  | quiescing
  | quiesced
  | failed
  deriving DecidableEq, Repr

/-- A tender channel (Tables 1.14 to 1.16), the context and the writes it has outstanding (R550),
    and the translation of its current page (R86). -/
structure Tender where
  src : BitVec 48 := 0
  dst : BitVec 48 := 0
  len : BitVec 32 := 0
  irqEn : Bool := false
  irqEng : BitVec 3 := 0
  ctx : Byte := 0
  paused : Bool := false
  ignwr : Bool := false
  code : BitVec 4 := 0
  err : Bool := false
  done : Bool := false
  busy : Bool := false
  page : Option PageRef := none
  resp : Option Resp := none
  outstanding : List (BitVec 32 × (BitVec 48 × BitVec 48 × BitVec 32)) := []
  deriving DecidableEq, Repr

/-- A trace packet (Table 16.9). -/
structure TracePkt where
  time : Word
  src : BitVec 16
  kind : Byte
  chan : Byte
  ctx : Byte
  lost : Bool
  ring : BitVec 2
  data : Word
  deriving DecidableEq, Repr

/-- A square (Tables 1.10 to 1.13, 9.14 to 9.17): its state, its job, its engine map, its operating
    point, its partition, its tender channels and its counters. -/
structure Square where
  st : SqState := .parked
  back : SqState := .idle
  job : Nat := 0
  reservedBy : Nat := 0
  map : BitVec 32 := 0x76543210
  retired : BitVec 9 := 0
  spareUsed : Bool := false
  guard : BitVec 6 := 0
  pinned : Bool := false
  minop : BitVec 3 := 0
  maxop : BitVec 3 := 5
  opp : BitVec 3 := 4
  partner : BitVec 6 := 0
  paired : Bool := false
  assigned : Bool := true
  part : BitVec 4 := 0
  tnd : Vector Tender 4 := Vector.replicate 4 {}
  cqlost : BitVec 32 := 0
  traceQ : List TracePkt := []
  traceLost : Bool := false
  lifeMax : BitVec 4 := 5
  marginDue : Bool := false
  waking : Bool := false
  policyParked : Bool := false
  deriving DecidableEq, Repr

/-! ### Memory, map and hub -/

/-- One copy of the single-entry map command registers (R87, R527): of a logical engine, or of the
    host map port.  `op` is the shootdown in progress while CMD_BUSY is 1. -/
structure MapCopy where
  idx : BitVec 21 := 0
  data : Word := 0
  code : BitVec 4 := 0
  busy : Bool := false
  part : BitVec 4 := 0
  deriving DecidableEq, Repr

/-- The rebuild engine (Table 2.12), how many entries it has done (R93, R94), and the source and range
    that a running rebuild has checked (log entry 61). -/
structure Rebuild where
  src : BitVec 39 := 0
  first : BitVec 21 := 0
  count : BitVec 22 := 0
  refused : BitVec 24 := 0
  code : BitVec 4 := 0
  collide : Bool := false
  err : Bool := false
  done : Bool := false
  busy : Bool := false
  next : Nat := 0
  part : BitVec 4 := 0
  runSrc : BitVec 39 := 0
  runFirst : BitVec 21 := 0
  runCount : BitVec 22 := 0
  deriving DecidableEq, Repr

/-- The hub, map and memory registers (Tables 2.9 to 2.14).  `unreachable` has bit q set when the
    near stacks of quarter q are withdrawn (R43), `inner` counts the accesses that the on-die code
    corrected (Table 2.6), `spareRows` are the rows of the soft repairs that wait to be made permanent
    (R128), numbered as `rowNumber` does. -/
structure Hub where
  hostbase : Word := 0
  epoch : BitVec 32 := 0
  fence : Bool := true
  shootBusy : Bool := false
  copies : SMap MapCopy := []
  live : SMap Word := []
  shadow : SMap Word := []
  rb : Rebuild := {}
  ilvLocal : Bool := false
  chskew : BitVec 2 := 1
  bkskew : BitVec 2 := 1
  ceChip : BitVec 32 := 0
  ceHbm : BitVec 32 := 0
  ueChip : BitVec 32 := 0
  ueHbm : BitVec 32 := 0
  ueLog : Word := 0
  scrubPasses : BitVec 32 := 0
  scrubPeriod : Byte := 24
  sparePending : BitVec 16 := 0
  spareHard : BitVec 16 := Config.factoryHardRows
  spareSoft : BitVec 16 := 0
  spareRows : List Nat := []
  inner : Nat := 0
  unreachable : BitVec 4 := 0
  deriving DecidableEq, Repr

/-- What is wrong with a stored sector of HBM under its outer code (R119): one erroneous byte, two, or
    content that belongs to another location.  Bytes 0 to 63 are data, 64 to 71 check bits. -/
inductive SecFlaw
  | byte (i : Fin 72)
  | bytes (i j : Fin 72)
  | moved (home : Nat)
  deriving DecidableEq, Repr

/-- A flawed byte of an on-chip array: the code of MEM_UE_LOG.ARRAY (Table 2.14), the engine for arrays 0
    to 3, the line or entry that the byte belongs to, and the byte in it.  A tile store has one line, a
    cache the key of the sector, a translation cache and the map copies the page; of the NV store buffers
    (array 6) it is a byte of the words that wait in them, the oldest first. -/
structure ChipFlaw where
  array : Nat
  eng : Nat := 0
  line : Nat := 0
  off : Nat
  flaw : ByteFlaw
  deriving DecidableEq, Repr

/-- The latent errors of the memories (R118 to R125): sectors of HBM by sector number, sectors whose
    on-die code corrects an error, and bytes of on-chip arrays.  Physical events, which no command of the
    table makes (log entry 12). -/
structure Flaws where
  hbm : SMap SecFlaw := []
  inner : List Nat := []
  chip : List ChipFlaw := []
  deriving DecidableEq, Repr

/-! ### Structure, jobs and chains -/

/-- A PARTITION section of the applied structure (Table 9.7). -/
structure Partition where
  num : BitVec 4
  sqmask : BitVec 64
  pgFirst : Nat
  pgCount : Nat
  hbFirst : Nat
  hbCount : Nat
  ctxmask : BitVec 256
  deriving DecidableEq, Repr

/-- A wire of the applied structure (Table 9.8): the logical engine, its output and the endpoint
    code. -/
structure Wire where
  leng : Nat
  out : Nat
  code : BitVec 16
  deriving DecidableEq, Repr

/-- A TUNNEL section of the applied structure (Table 9.9). -/
structure Tunnel where
  num : Nat
  part : BitVec 4
  inbound : Bool
  node : BitVec 16
  rtun : BitVec 6
  cls : BitVec 2
  dest : BitVec 16
  lctx : Byte
  deriving DecidableEq, Repr

/-- A SQUARES entry (Table 9.5). -/
structure SqCfg where
  minop : BitVec 3 := 0
  maxop : BitVec 3 := 5
  pin : Bool := false
  deriving DecidableEq, Repr

/-- The power-policy record (Table 14.6). -/
structure PowerPolicy where
  plimit : BitVec 16 := 1000
  pceil : BitVec 16 := 1000
  twarn : Byte := 95
  tthrot : Byte := 100
  scrub : Byte := 24
  pmode : Byte := 0
  turbo : Bool := true
  parkidle : Byte := 0
  pmaxop : BitVec 64 := 0x5555555555555555
  deriving DecidableEq, Repr

/-- The applied structure (Tables 9.4 to 9.9), with the chain ID of each logical engine that has a
    wire (R395, R396).  The wiring and the chains of the opening are the rule of R428 and are not
    listed. -/
structure Board where
  opening : Bool := true
  serial : Word := 0
  arb : BitVec 32 := 0
  digest : BitVec 512 := 0
  slotB : Bool := false
  bootOnly : Bool := false
  node : BitVec 16 := 0
  ilvLocal : Bool := false
  chskew : BitVec 2 := 1
  bkskew : BitVec 2 := 1
  spare : BitVec 2 := 0
  mapMaster : Byte := 0
  parts : List Partition := [⟨0, BitVec.allOnes 64, 0, 2097152, 0, 1572864, BitVec.allOnes 256⟩]
  squares : List SqCfg := List.replicate 64 {}
  wires : List Wire := []
  finals : List Nat := []
  chids : SMap Byte := []
  pairs : List (Nat × Nat) := []
  tunnels : List Tunnel := []
  power : PowerPolicy := {}
  routes : SMap (BitVec 16) := []
  deriving DecidableEq, Repr

/-- How far a job has come (R59). -/
inductive JobStage
  | queued
  | measuring
  | running
  | ended
  deriving DecidableEq, Repr

/-- A job: its descriptor (Table 13.5), its stage, the squares it has reserved, the status and the time
    it ends with (Tables 13.6, 13.7), and whether its completion record is on its way. -/
structure Job where
  id : Nat
  ctx : Byte
  seq : BitVec 32
  prio : Byte
  order : Nat
  entry : Word
  arg : Word
  sqmask : BitVec 64
  compl : Word
  tag : Word
  home : Nat
  stage : JobStage := .queued
  reserved : BitVec 64 := 0
  status : Byte := 0
  detail : Byte := 0
  engines : BitVec 16 := 0
  faultEng : BitVec 16 := 0xFFFF
  cause : Byte := 0
  endTime : Word := 0
  recordOut : Bool := false
  deriving DecidableEq, Repr

/-- A context: its grant, the registers of its doorbell page (R473, R528 to R535), its runtime
    measurement (R507) with the job it is for and the bytes read so far, and the answers, by sector, that its
    rank controller has waited for. -/
structure Ctx where
  granted : Bool := false
  base : Word := 0
  n : BitVec 32 := 16
  vec : Byte := 0
  head : BitVec 32 := 0
  tail : BitVec 32 := 0
  order : Nat := 0
  cfail : BitVec 16 := 0
  badtail : BitVec 16 := 0
  ringerr : Bool := false
  measured : Bool := false
  measJob : Nat := 0
  meas : List Byte := []
  resp : SMap Resp := []
  deriving DecidableEq, Repr

/-- A frozen or aborted chain (R399 to R406): the members marked ready, the tunnels from which
    READY has arrived and on which it was sent, the members still ABORTED, and whether debug or
    stall bookkeeping suspends it. -/
structure Chain where
  frozen : Bool := false
  cause : BitVec 4 := 0
  marked : List Nat := []
  held : List Nat := []
  readyIn : List Nat := []
  readyOut : List Nat := []
  aborted : List Nat := []
  deriving DecidableEq, Repr

/-- A rank controller (Tables 1.17, 1.18): its firmware version, its stalemate count, its exchange
    status and its debug state. -/
structure Rank where
  fwver : BitVec 32 := 0
  stale : BitVec 32 := 0
  exch : Bool := false
  ram : Mem := []
  dbg : CoreDbg := {}
  deriving DecidableEq, Repr

/-! ### Host and fabric -/

/-- Who sent a host or remote access and waits for its end. -/
inductive Requester
  | engine (e : Nat)
  | tender (sq n : Nat)
  | rank (job : Nat)
  | ring (ctx : Byte)
  | debug
  /-- its requester was reset: the response is discarded (R605) -/
  | gone
  deriving DecidableEq, Repr

/-- A host or remote access on its way (R524, R545 to R550): its tag, its requester, whether it is
    a write, the engine address it acts for, the access kind a deferred error reports, the bytes of the
    sector it names, and the job it belongs to (0 for none).  `shot` says that a SHOOT has named the page of
    that address since (R92), `old` that the entry which translated it is of an epoch before the last castling
    (R99). -/
structure Req where
  tag : BitVec 32
  who : Requester
  write : Bool
  host : Bool
  va : Word
  acc : BitVec 3
  mask : BitVec 64 := BitVec.allOnes 64
  atomic : Bool := false
  job : Nat := 0
  shot : Bool := false
  old : Bool := false
  deriving DecidableEq, Repr

/-- What has left the part, newest first: what the host, the board and the fabric have seen. -/
inductive Out
  | ibi (byte : Byte)
  | i3cRead (bytes : List Byte)
  | i3cNack
  | msix (vec : Byte) (addr : Word) (data : BitVec 32)
  | cxlData (data : BitVec 512) (poison : Bool)
  | cxlUnsupported (data : BitVec 512)
  | cxlSnoopMiss
  | hostRead (tag : BitVec 32) (addr : Word)
  | hostWrite (tag : BitVec 32) (addr : Word) (mask : BitVec 64) (data : BitVec 512)
  | frx (link : Nat) (p : FrxPacket)
  | frxNak (link : Nat) (seq : BitVec 12)
  | flit (link : Nat) (f : Flit)
  | stripCredit (node : BitVec 16) (tunnel : BitVec 6) (n : Nat)
  | spdm (bytes : List Byte)
  | ik (ack : BitVec 3) (data : Option (BitVec 32 × BitVec 4))
  | brakeAct
  deriving DecidableEq, Repr

/-- An HDM decoder (R518, R522; log entry 21): the base and the size of the device-memory window, whether it is
    committed, and the enable bit of the capability. -/
structure HdmDecoder where
  base : Word := 0
  size : Word := 0
  committed : Bool := false
  on : Bool := false
  deriving DecidableEq, Repr

/-- The configuration space of the port (R520, Table 13.1; log entry 21): Command, the two BARs, and the
    status, mask and severity registers of AER and of CXL RAS. -/
structure PortCfg where
  command : BitVec 16 := 0
  bar0 : Word := 0
  bar2 : Word := 0
  aerUnc : BitVec 32 := 0
  aerUncMask : BitVec 32 := 0x400000
  aerUncSev : BitVec 32 := 0x462030
  aerCor : BitVec 32 := 0
  aerCorMask : BitVec 32 := 0xE000
  rasUnc : BitVec 32 := 0
  rasUncMask : BitVec 32 := 0x1CFFF
  rasUncSev : BitVec 32 := 0x1CFFF
  rasCor : BitVec 32 := 0
  rasCorMask : BitVec 32 := 0x7F
  deriving DecidableEq, Repr

/-- The CXL port and what the host sees beyond the doorbells (Tables 13.1 to 13.3, 13.11).  The
    MSI-X vectors are masked at reset by the PCIe rules (log entry 21). -/
structure Cxl where
  up : Bool := false
  cxl : Bool := false
  ide : Bool := false
  width : BitVec 3 := 0
  speed : BitVec 3 := 0
  linkdown : BitVec 16 := 0
  poisonrx : BitVec 16 := 0
  defer : BitVec 16 := 0
  dbdrop : BitVec 16 := 0
  hbase : Word := 0
  perst : Bool := false
  hdm : HdmDecoder := {}
  cfg : PortCfg := {}
  ideKeys : List (Byte × BitVec 256) := []
  msixTable : SMap (Word × BitVec 32) := []
  msixMask : BitVec 256 := BitVec.allOnes 256
  msixPend : BitVec 256 := 0
  deriving DecidableEq, Repr

/-- A Frarix link (Table 13.12, R536 to R538): its state, its peer, its retries, the consecutive bad
    flits, the sequence number it expects, the last acknowledged one, and the credit it holds per
    traffic class and lane.  To send it has the packets that wait for credit, the bytes that no flit carries yet,
    the SEQ of its next data flit, the replay buffer, how many bytes it has packed and how many of them are
    acknowledged, and the strips and notices on their way with the byte at which each ends; `back` has those with
    which it went down.  Of what it receives it has the bytes of an incomplete packet, the packets that their
    commands have not taken, the credit that it owes its peer, and whether an acknowledgement is due. -/
structure FrxLink where
  st : BitVec 2 := 0
  peer : BitVec 16 := 0
  peerv : Bool := false
  retry : BitVec 32 := 0
  fails : Nat := 0
  rxSeq : BitVec 12 := 0
  ackSeq : BitVec 12 := 0
  credit : Vector (BitVec 16) 8 := Vector.replicate 8 0
  waiting : List FrxPacket := []
  tx : List Byte := []
  txSeq : BitVec 12 := 0
  replay : List Flit := []
  sent : Nat := 0
  acked : Nat := 0
  flight : List (FrxPacket × Nat) := []
  back : List FrxPacket := []
  rx : List Byte := []
  arrived : List FrxPacket := []
  owed : Vector (BitVec 16) 8 := Vector.replicate 8 0
  ackDue : Bool := false
  deriving DecidableEq, Repr

/-- The Frarix ports (Tables 13.10, 13.12): the node, the counters, the links, per outbound tunnel
    the strip credits in use and the link it uses (R542, R552), per inbound tunnel the accepted
    strips that R390 keeps from its queue, and the notices that wait for the strips before them with their tunnels,
    oldest first (R554). -/
structure Frx where
  node : BitVec 16 := 0
  timeout : BitVec 16 := 0
  denied : BitVec 16 := 0
  drop : BitVec 16 := 0
  late : BitVec 16 := 0
  links : Vector FrxLink 8 := Vector.replicate 8 {}
  used : SMap Nat := []
  tunLink : SMap Nat := []
  inWait : SMap (List Strip) := []
  notices : List (Nat × FrxPacket) := []
  deriving DecidableEq, Repr

/-! ### Management -/

/-- The boot state that MG_BOOTST reports (Table 12.12), and the codes the ledger records. -/
structure Boot where
  powered : Bool := false
  first : Bool := false
  vinValid : Bool := false
  vaux : Bool := false
  conversion : Bool := false
  held : Bool := false
  step : BitVec 4 := 1
  cause : BitVec 4 := 0
  fwCodeA : BitVec 4 := 0
  fwCodeB : BitVec 4 := 0
  fwslotB : Bool := false
  recovery : Bool := false
  openingReg : Bool := false
  stslotB : Bool := false
  stCodeA : Byte := 0
  stCodeB : Byte := 0
  ready : Bool := false
  fwArb : BitVec 32 := 0
  fwVersion : BitVec 32 := 0
  fwDigest : BitVec 512 := 0
  next : Option Board := none
  resetDue : Bool := false
  start : Word := 0
  pre : Nat := 0
  ranks : Bool := false
  deriving DecidableEq, Repr

/-- The pins and straps (R451, R476, Table 11.15). -/
structure Pins where
  addrSel : BitVec 3 := 0
  force : Bool := false
  resetN : Bool := true
  pwrbrk : Bool := false
  testen : Bool := false
  thermtrip : Bool := false
  deriving DecidableEq, Repr

/-- The I3C target (R450 to R456): its dynamic address, its mode, its lengths, and the in-band
    interrupts that wait. -/
structure I3c where
  da : Option (BitVec 7) := none
  hdr : Bool := false
  ibien : Bool := true
  mwl : BitVec 16 := 4120
  mrl : BitVec 16 := 4120
  ibiPend : List Byte := []
  deriving DecidableEq, Repr

/-- An open session (R459 to R465). -/
structure Session where
  slot : BitVec 2
  key : List Byte
  seq : BitVec 32
  badTags : Nat
  deriving DecidableEq, Repr

/-- What a command in progress still waits for. -/
inductive Work
  /-- the signature of a quote (R516): its body -/
  | quote (body : List Byte)
  /-- a structure switch (R470) -/
  | apply
  /-- the end of every job of a context (R473) -/
  | revoke (ctx : Byte)
  /-- a spare substitution (R475): the square and the position -/
  | spare (sq pos : Nat)
  deriving DecidableEq, Repr

/-- A command in progress: its opcode, its SEQ, the session key its response is tagged with, and what
    it waits for. -/
structure Deferred where
  op : Byte
  seq : BitVec 32
  key : Option (List Byte)
  work : Work
  deriving DecidableEq, Repr

/-- The command slot of the steward (R455): the command in progress, and a response that waits to be
    read. -/
structure CmdSlot where
  busy : Option Deferred := none
  response : Option (List Byte) := none
  deriving DecidableEq, Repr

/-- A record of the counters region: two copies, each with its write count, absent when its own
    SHA-512 does not match (R494). -/
structure NvRec (α : Type) where
  a : Option (Nat × α)
  b : Option (Nat × α)
  deriving DecidableEq, Repr

/-- The lockout state of a key slot (R463): consecutive failed opens and the nanoseconds still to
    run. -/
structure Lockout where
  fails : Nat := 0
  left : Nat := 0
  deriving DecidableEq, Repr

/-- The ledger head record (R508): the last SEQ, its head and the boot count. -/
structure HeadRec where
  seq : Nat
  head : BitVec 512
  boot : BitVec 32
  deriving DecidableEq, Repr

/-- A firmware or structure slot (R469): its bytes and whether LAST has come. -/
structure ImgSlot where
  data : List Byte := []
  complete : Bool := false
  deriving DecidableEq, Repr

/-- A health-log entry (Table 12.7). -/
structure HealthEntry where
  seq : Nat
  time : Word
  boot : BitVec 32
  code : BitVec 16
  wher : BitVec 16
  data : List Byte
  deriving DecidableEq, Repr

/-- A place of the NV store, or the copy of a firmware slot in steward SRAM, that a latent error spoils
    (R489, R499): a ledger slot by its number, a firmware or structure slot, a key slot, a copy of a record of
    the counters region, a record of the user-calibration region, a slot of the health log, or the factory
    region. -/
inductive NvFlaw
  | ledger (slot : Nat)
  | firmware (slotB : Bool)
  | structure_ (slotB : Bool)
  | key (i : Nat)
  | copy (slotB : Bool)
  | counter (record : Nat) (second : Bool)
  | calibration (record : Nat)
  | health (slot : Nat)
  | factory
  deriving DecidableEq, Repr

/-- An entry of the ledger whose change is not complete (R506): its SEQ, and the key slot that the change writes
    with what the slot held. -/
structure Opened where
  seq : Nat
  key : Option (Nat × List Byte) := none
  deriving DecidableEq, Repr

/-- Both copies of a record, written alike. -/
def NvRec.both {α : Type} (x : α) : NvRec α := ⟨some (1, x), some (1, x)⟩

/-- The NV store (Table 12.6), region by region: image slots, keys, user calibration with the
    guardband and spare records, counters, health log and Boot Ledger (both newest first).
    `ckptDone` is the SEQ of the last CHECKPOINT entry, `lostSince` counts the unarchived entries
    overwritten since its group (R510, R511).  `tail` is what a loss of power has left in the ring slot after
    the last recorded entry (R509), `opened` the entries whose change is not complete (R506, newest first),
    `flaws` the latent errors with whether the health log has them (R499; log entry 12), and `soft` the
    correctable errors that the next refresh removes (R498). -/
structure Nv where
  fw : Vector ImgSlot 2 := Vector.replicate 2 {}
  st : Vector ImgSlot 2 := Vector.replicate 2 {}
  keys : Vector (List Byte) 9 := Vector.replicate 9 []
  cal : Vector (BitVec 32) 4 := #v[0, 0, 1000, 300]
  guards : SMap (BitVec 6) := []
  lifeMax : SMap (BitVec 4) := []
  spares : SMap Word := []
  fwArb : NvRec (BitVec 32) := NvRec.both 0
  stArb : NvRec (BitVec 32) := NvRec.both 0
  bootCount : NvRec (BitVec 32) := NvRec.both 0
  lockout : NvRec (Vector Lockout 4) := NvRec.both (Vector.replicate 4 {})
  claimed : NvRec Bool := NvRec.both false
  owner : NvRec Word := NvRec.both 0
  head : NvRec HeadRec
  archived : NvRec Nat := NvRec.both 0
  ledger : List (List Byte)
  tail : List Byte := []
  opened : List Opened := []
  flaws : List (NvFlaw × Bool) := []
  soft : List NvFlaw := []
  ckptDone : Nat := 0
  lostSince : Nat := 0
  lostTot : BitVec 32 := 0
  health : List HealthEntry := []
  healthSeq : Nat := 0
  lifeMs : Nat := 0
  hotMs : Nat := 0
  tjSum : Nat := 0
  tjCount : Nat := 0
  deriving DecidableEq, Repr

/-- The management registers of the steward's own space that no other part of the state holds
    (Tables 11.12, 11.14, 12.13, 15.6 to 15.8) and whether the steward core runs. -/
structure Mg where
  remap : Bool := false
  alert : BitVec 6 := 0
  timebase : Word := 0
  refLock : Bool := false
  xcoal : Vector Byte 14 := Vector.replicate 14 0
  xlost : BitVec 32 := 0
  wdClose : BitVec 24 := 100000
  wdOpen : BitVec 24 := 0
  wdT : BitVec 24 := 0
  wdEn : Bool := true
  wdBite : Bool := false
  restarts : BitVec 32 := 0
  mgbusy : Byte := 0
  rkbusy : Byte := 0
  nvPasses : BitVec 32 := 0
  nvBlock : BitVec 12 := 0
  running : Bool := false
  stewardExc : Bool := false
  sram : Mem := []
  deriving DecidableEq, Repr

/-- Power, thermal state and the loop (Tables 14.10 to 14.12), the power policy in force and the one
    that takes effect at the next period (R576), and the sensor record of the latest period (Table
    14.9). -/
structure Pw where
  ratio : BitVec 2 := 0
  vin : BitVec 16 := 0
  iin : BitVec 16 := 0
  pkg : BitVec 16 := 0
  plimit : BitVec 16 := 1000
  guard : Bool := false
  brake : Bool := false
  throt : Bool := false
  capped : Bool := false
  periods : BitVec 32 := 0
  overrun : BitVec 16 := 0
  guards : BitVec 16 := 0
  policy : PowerPolicy := {}
  nextPolicy : PowerPolicy := {}
  sensors : List Byte := List.replicate 304 0
  halved : BitVec 8 := 0
  calApplied : Vector (BitVec 32) 4 := #v[0, 0, 1000, 300]
  deriving DecidableEq, Repr

/-- The registers of an access port that an access goes by, as they stand when its frame starts it: the address
    and what goes with it in the space of the memory master, the register number and half of a core, or the
    counter of the trace port (R620, Table 16.12). -/
structure IkArgs where
  addr : BitVec 48 := 0
  space : BitVec 3 := 0
  ctx : Byte := 0
  sq : BitVec 6 := 0
  pos : BitVec 4 := 0
  rsel : BitVec 9 := 0
  idx : BitVec 3 := 0
  half : Bool := false
  deriving DecidableEq, Repr

/-- An access that an access-port frame has started (R620): its header, its data, the data a read
    returns once it is done, for a fed instruction that has committed its group the engine as it stood
    before (R637), and the words fed to IK_INSTR meanwhile, which execute after it, the oldest first. -/
structure IkFlight where
  header : Byte
  data : BitVec 32
  args : IkArgs := {}
  result : BitVec 32 := 0
  was : Option Engine := none
  done : Bool := false
  fed : List (BitVec 32) := []
  deriving DecidableEq, Repr

/-- The Ikipin port, the debug level and the trace buffer (Tables 16.9, 16.11, 16.12).  `flights` holds
    the access of each access port, by the port's number and target; `resp` is the answer of the host or
    a remote device that a memory-master access waits for. -/
structure Ik where
  synced : Bool := false
  tog : Bool := false
  last : Option (Byte × BitVec 32) := none
  consume : Bool := false
  err : Bool := false
  code : BitVec 3 := 0
  level : BitVec 2 := 0
  openCtx : BitVec 256 := 0
  duration : BitVec 32 := 0
  unlocked : Word := 0
  nonce : BitVec 256 := 0
  nw : BitVec 3 := 0
  pos : BitVec 4 := 0
  sq : BitVec 6 := 0
  port : BitVec 4 := 0
  mspace : BitVec 3 := 0
  minc : Bool := true
  mctx : Byte := 0
  msq : BitVec 6 := 0
  mpos : BitVec 4 := 0
  maddr : BitVec 48 := 0
  mlatch : BitVec 32 := 0
  mhold : BitVec 32 := 0
  ten : Bool := false
  stopfull : Bool := false
  haltev : Bool := false
  full : Bool := false
  wrap : Bool := false
  wptr : BitVec 15 := 0
  trace : SMap TracePkt := []
  taddr : BitVec 20 := 0
  cpos : BitVec 4 := 0
  csq : BitVec 6 := 0
  cidx : BitVec 3 := 0
  chalf : Bool := false
  flights : SMap IkFlight := []
  resp : Option Resp := none
  steward : CoreDbg := {}
  deriving DecidableEq, Repr

/-- The nonce of an OPEN phase 1 that waits for its phase 2 (R461, R462). -/
structure OpenNonce where
  slot : BitVec 2
  np : BitVec 256
  deriving DecidableEq, Repr

/-! ### The block -/

/-- The whole block: the board, its memories, the host and fabric ports, the management domain,
    the debug port, the counter of free values (the model's own field, log entry 2), what has left
    the part, and the queue of waiting commands.  `nvWas` has the NV store as it stood before each word that it
    has written since the last tick, newest first: a loss of power may find it there (R497). -/
structure State where
  engines : SMap Engine := []
  squares : SMap Square := []
  ranks : SMap Rank := []
  hub : Hub := {}
  hbm : Mem := []
  tile : Mem := []
  poison : List Nat := []
  flaws : Flaws := {}
  board : Board := {}
  jobs : List Job := []
  nextJob : Nat := 1
  bellOrder : Nat := 0
  ctxs : SMap Ctx := []
  chains : SMap Chain := []
  chst : SMap Byte := []
  cxl : Cxl := {}
  frx : Frx := {}
  reqs : List Req := []
  nextTag : BitVec 32 := 0
  boot : Boot := {}
  pins : Pins := {}
  i3c : I3c := {}
  session : Option Session := none
  np : Option OpenNonce := none
  cmd : CmdSlot := {}
  mg : Mg := {}
  pw : Pw := {}
  nv : Nv
  nvWas : List Nv := []
  ik : Ik := {}
  free : Nat := 1
  out : List Out := []
  pending : List Instr := []
  deriving DecidableEq, Repr

/-- The NV store of a factory-fresh part (R459, R467, R472, R504): no image, no key, unclaimed, and
    a Boot Ledger that holds the genesis entry alone. -/
def Nv.factory : Nv :=
  { head := NvRec.both ⟨0, genesisHead, 0⟩, ledger := [genesisEntry] }

/-- The block as the spec leaves it before power comes: every register at its reset value, nothing
    in memory, a factory-fresh NV store, and no command waiting. -/
def State.reset : State := { nv := Nv.factory }

end Sys2Proof.Machine
end

