-- ==== Sys2Proof/Machine/Ops.lean ====
section
/-! DEFINITION. The named operations over the sparse maps, the memories, the registers and the
tables of the block. -/

namespace Sys2Proof.Machine

/-! ### Sparse maps -/

/-- The value at key `k`; `d` where the key is not listed. -/
def SMap.get {α : Type} (d : α) : SMap α → Nat → α
  | [], _ => d
  | (i, x) :: m, k => if i = k then x else SMap.get d m k

/-- The map with `x` at key `k`, keys kept rising. -/
def SMap.put {α : Type} : SMap α → Nat → α → SMap α
  | [], k, x => [(k, x)]
  | (i, y) :: m, k, x =>
    if k < i then (k, x) :: (i, y) :: m
    else if i = k then (k, x) :: m
    else (i, y) :: SMap.put m k x

/-- The map without key `k`. -/
def SMap.del {α : Type} (m : SMap α) (k : Nat) : SMap α := m.filter fun p => decide (p.1 ≠ k)

/-- The map with `x` at key `k` in canonical form: writing the default removes the entry. -/
def SMap.set {α : Type} [DecidableEq α] (d : α) (m : SMap α) (k : Nat) (x : α) : SMap α :=
  if x = d then m.del k else m.put k x

/-- Is the key listed? -/
def SMap.has {α : Type} (m : SMap α) (k : Nat) : Bool := m.any fun p => p.1 == k

/-- Every listed key is above `b`, keys rise, and no entry holds the default. -/
def SMap.wfFrom {α : Type} [DecidableEq α] (d : α) : Nat → SMap α → Bool
  | _, [] => true
  | b, (i, x) :: m => decide (b ≤ i) && decide (x ≠ d) && SMap.wfFrom d (i + 1) m

/-- The canonical form of a sparse map. -/
def SMap.wf {α : Type} [DecidableEq α] (d : α) (m : SMap α) : Bool := SMap.wfFrom d 0 m

/-! ### Memories -/

/-- One byte of a memory; a byte nothing has written reads 0 (R105, R129). -/
def Mem.get (m : Mem) (a : Nat) : Byte := SMap.get (0 : Byte) m a

/-- A memory with one byte written. -/
def Mem.set (m : Mem) (a : Nat) (b : Byte) : Mem := SMap.set (0 : Byte) m a b

/-- The canonical form of a memory. -/
def Mem.wf (m : Mem) : Bool := SMap.wf (0 : Byte) m

/-- `n` bytes from address `a`. -/
def Mem.bytes (m : Mem) (a n : Nat) : List Byte := (List.range n).map fun i => m.get (a + i)

/-- A memory with the bytes of a list written from address `a`. -/
def Mem.write (m : Mem) (a : Nat) : List Byte → Mem
  | [] => m
  | b :: bs => Mem.write (m.set a b) (a + 1) bs

/-- A memory with the enabled bytes of a list written from address `a`. -/
def Mem.writeMask (m : Mem) (a : Nat) : List (Option Byte) → Mem
  | [] => m
  | none :: bs => Mem.writeMask m (a + 1) bs
  | some b :: bs => Mem.writeMask (m.set a b) (a + 1) bs

/-- A memory with the bytes from `a` up to `b` returned to 0. -/
def Mem.clear (m : Mem) (a b : Nat) : Mem := m.filter fun p => decide (p.1 < a ∨ b ≤ p.1)

/-- Insert into a sorted list of numbers without repeats. -/
def insertNat (k : Nat) : List Nat → List Nat
  | [] => [k]
  | i :: l => if k < i then k :: i :: l else if i = k then i :: l else i :: insertNat k l

/-! ### Bit fields -/

/-- Bits `lo` to `lo + n - 1` of a word, as a number. -/
def field (w : Word) (lo n : Nat) : Nat := (w.extractLsb' lo n).toNat

/-- A word with bits `lo` to `lo + n - 1` holding `v`. -/
def place (lo n v : Nat) : Word := BitVec.ofNat 64 ((v % 2 ^ n) <<< lo)

/-- A one-bit field. -/
def flag (lo : Nat) (b : Bool) : Word := if b then place lo 1 1 else 0

/-- The sum of `n` and 1, stopped at the greatest value of the width. -/
def satInc {w : Nat} (n : BitVec w) : BitVec w := if n = BitVec.allOnes w then n else n + 1

/-- The sum of `n` and `k`, stopped at the greatest value of the width. -/
def satAdd {w : Nat} (n : BitVec w) (k : Nat) : BitVec w :=
  if n.toNat + k < 2 ^ w then BitVec.ofNat w (n.toNat + k) else BitVec.allOnes w

/-- The 48 bits of an engine address that an access uses (R214). -/
def ea48 (a : Word) : Word := a &&& 0xFFFFFFFFFFFF#64

/-! ### Parts of the state -/

namespace State

/-- A physical engine. -/
def eng (s : State) (e : Nat) : Engine := SMap.get {} s.engines e

/-- The state with one engine replaced. -/
def setEng (s : State) (e : Nat) (x : Engine) : State := { s with engines := s.engines.put e x }

/-- The state with one engine changed. -/
def modEng (s : State) (e : Nat) (f : Engine → Engine) : State := s.setEng e (f (s.eng e))

/-- A square. -/
def sqr (s : State) (i : Nat) : Square := SMap.get {} s.squares i

/-- The state with one square replaced. -/
def setSq (s : State) (i : Nat) (x : Square) : State := { s with squares := s.squares.put i x }

/-- The state with one square changed. -/
def modSq (s : State) (i : Nat) (f : Square → Square) : State := s.setSq i (f (s.sqr i))

/-- A rank controller, by rank less 1. -/
def rank (s : State) (k : Nat) : Rank := SMap.get {} s.ranks k

/-- The state with one rank controller changed. -/
def modRank (s : State) (k : Nat) (f : Rank → Rank) : State :=
  { s with ranks := s.ranks.put k (f (s.rank k)) }

/-- A context. -/
def ctx (s : State) (c : Byte) : Ctx := SMap.get {} s.ctxs c.toNat

/-- The state with one context changed. -/
def modCtx (s : State) (c : Byte) (f : Ctx → Ctx) : State :=
  { s with ctxs := s.ctxs.put c.toNat (f (s.ctx c)) }

/-- A copy of the map command registers, by logical engine number; 512 is the host map port. -/
def mapCopy (s : State) (n : Nat) : MapCopy := SMap.get {} s.hub.copies n

/-- The state with one copy of the map command registers changed. -/
def modCopy (s : State) (n : Nat) (f : MapCopy → MapCopy) : State :=
  { s with hub := { s.hub with copies := s.hub.copies.put n (f (s.mapCopy n)) } }

/-- The state with something more having left the part. -/
def emit (s : State) (o : Out) : State := { s with out := o :: s.out }

end State

/-! ### Logical and physical engines -/

/-- The physical position that carries logical engine `n` of a square; 15 when unavailable (R13). -/
def posOf (q : Square) (n : Nat) : Nat := (q.map.extractLsb' (4 * n) 4).toNat

/-- The logical engines of a square that are available (R13). -/
def availLogical (q : Square) : List Nat := (List.range 8).filter fun n => decide (posOf q n < 9)

/-- The logical engine, 0 to 7, that a physical position carries (R9 to R14). -/
def logicalOf (q : Square) (p : Nat) : Option Nat :=
  (List.range 8).find? fun n => posOf q n == p

/-- The logical engine number of a physical engine: square index times 8 plus logical engine. -/
def lengOf (s : State) (e : Nat) : Option Nat :=
  (logicalOf (s.sqr (e / 9)) (e % 9)).map fun n => e / 9 * 8 + n

/-- The physical engine that carries a logical engine number. -/
def engOf (s : State) (n : Nat) : Option Nat :=
  let p := posOf (s.sqr (n / 8)) (n % 8)
  if p < 9 then some (n / 8 * 9 + p) else none

/-- The available physical engines of a square, in order of logical number. -/
def availEngs (s : State) (sq : Nat) : List Nat :=
  (availLogical (s.sqr sq)).map fun n => sq * 9 + posOf (s.sqr sq) n

/-- A paired square that is the partner (R409: the primary has the lower index). -/
def isPartner (s : State) (sq : Nat) : Bool :=
  (s.sqr sq).paired && decide ((s.sqr sq).partner.toNat < sq)

/-- The primary of a square: its partner's index for a partner square, else the square. -/
def primaryOf (s : State) (sq : Nat) : Nat :=
  if isPartner s sq then (s.sqr sq).partner.toNat else sq

/-- The twin of an engine of a paired square: the engine of the same logical number in the other
    square (R410). -/
def twinOf (s : State) (e : Nat) : Option Nat :=
  let q := s.sqr (e / 9)
  if q.paired then
    match logicalOf q (e % 9) with
    | some n =>
      let o := q.partner.toNat
      if posOf (s.sqr o) n < 9 then some (o * 9 + posOf (s.sqr o) n) else none
    | none => none
  else none

/-! ### Partitions -/

/-- The partition section that names a partition. -/
def partOf (s : State) (p : Nat) : Option Partition :=
  s.board.parts.find? fun x => x.num.toNat == p

/-- The partition of a square (R55). -/
def sqPart (s : State) (sq : Nat) : Option Partition :=
  if (s.sqr sq).assigned then partOf s (s.sqr sq).part.toNat else none

/-- The partition of a context (R56). -/
def ctxPart (s : State) (c : Byte) : Option Partition :=
  s.board.parts.find? fun x => x.ctxmask.getLsbD c.toNat

/-- Does a partition hold a context? -/
def Partition.hasCtx (p : Partition) (c : Byte) : Bool := p.ctxmask.getLsbD c.toNat

/-- Does a partition hold a square? -/
def Partition.hasSq (p : Partition) (i : Nat) : Bool := p.sqmask.getLsbD i

/-- Is a page index in the job-space range of a partition (R84)? -/
def Partition.hasPage (p : Partition) (i : Nat) : Bool :=
  decide (p.pgFirst ≤ i ∧ i < p.pgFirst + p.pgCount)

/-- Is a physical page in the HBM share of a partition (R84)? -/
def Partition.hasFrame (p : Partition) (i : Nat) : Bool :=
  decide (p.hbFirst ≤ i ∧ i < p.hbFirst + p.hbCount)

/-- The home rank of a partition, less 1: the lowest rank that holds one of its squares (R58). -/
def Partition.home (p : Partition) : Nat :=
  (((List.range 64).find? fun i => p.sqmask.getLsbD i).getD 0) / 8

/-- The home rank controller of a job, less 1 (R58): that of its context's partition as the structure stands. -/
def jobHome (s : State) (j : Job) : Nat := ((ctxPart s j.ctx).map Partition.home).getD j.home

/-! ### Records of the NV store -/

/-- The value of a two-copy record for a count: the valid copy with the higher value (R494). -/
def NvRec.count {w : Nat} (r : NvRec (BitVec w)) : Option (BitVec w) :=
  match r.a, r.b with
  | some (_, x), some (_, y) => some (if y.toNat < x.toNat then x else y)
  | some (_, x), none => some x
  | none, some (_, y) => some y
  | none, none => none

/-- The value of any other two-copy record: the valid copy with the higher write count (R494). -/
def NvRec.value {α : Type} (r : NvRec α) : Option α :=
  match r.a, r.b with
  | some (i, x), some (j, y) => some (if i < j then y else x)
  | some (_, x), none => some x
  | none, some (_, y) => some y
  | none, none => none

/-- The greatest write count of a record's valid copies. -/
def NvRec.writes {α : Type} (r : NvRec α) : Nat :=
  max ((r.a.map Prod.fst).getD 0) ((r.b.map Prod.fst).getD 0)

/-- A record written: one copy in full and then the other (R494). -/
def NvRec.put {α : Type} (r : NvRec α) (x : α) : NvRec α :=
  ⟨some (r.writes + 1, x), some (r.writes + 1, x)⟩

/-- Does a latent error spoil a record (R499)? -/
def Nv.bad (n : Nv) (f : NvFlaw) : Bool := n.flaws.any fun p => p.1 == f

/-- A record written afresh, without its latent error. -/
def Nv.renewed (n : Nv) (f : NvFlaw) : Nv :=
  { n with flaws := n.flaws.filter fun p => p.1 ≠ f, soft := n.soft.filter fun x => x ≠ f }

/-- A two-copy record as it is read: a copy that an error spoils fails its own SHA-512 (R494, R499).  The records
    are numbered in the order of their fields. -/
def Nv.held {α : Type} (n : Nv) (k : Nat) (r : NvRec α) : NvRec α :=
  { a := if n.bad (.counter k false) then none else r.a, b := if n.bad (.counter k true) then none else r.b }

/-- The key of a slot: one that an error spoils reads as EMPTY (R499). -/
def Nv.keyAt (n : Nv) (i : Nat) : List Byte := if n.bad (.key i) then [] else n.keys.toList.getD i []

/-- A firmware slot: one that an error spoils is not complete (R499). -/
def Nv.fwAt (n : Nv) (slotB : Bool) : ImgSlot :=
  let x := n.fw.toList.getD (if slotB then 1 else 0) {}
  if n.bad (.firmware slotB) then { x with complete := false } else x

/-- A structure slot: one that an error spoils is not complete (R499). -/
def Nv.stAt (n : Nv) (slotB : Bool) : ImgSlot :=
  let x := n.st.toList.getD (if slotB then 1 else 0) {}
  if n.bad (.structure_ slotB) then { x with complete := false } else x

/-- A retained ledger entry as it is read: 128 bytes of 0xFF where an error spoils its slot (R499). -/
def Nv.shown (n : Nv) (e : List Byte) : List Byte :=
  if n.bad (.ledger (fieldAt e 0 8 % 65536)) then List.replicate 128 0xFF else e

/-- The firmware anti-rollback counter as the ROM uses it (R494). -/
def Nv.fwCounter (n : Nv) : BitVec 32 := (n.held 0 n.fwArb).count.getD (BitVec.allOnes 32)

/-- The structure anti-rollback counter as the ROM uses it (R494). -/
def Nv.stCounter (n : Nv) : BitVec 32 := (n.held 1 n.stArb).count.getD (BitVec.allOnes 32)

/-- The claim state (Table 12.5a where neither copy is valid). -/
def Nv.isClaimed (n : Nv) : Bool := (n.held 4 n.claimed).value.getD true

/-- The owner policy (Table 12.5a where neither copy is valid): bit 0 SERVICE_EN, bit 1
    FULL_FORBID, bit 2 MEASURE_RT. -/
def Nv.ownerPolicy (n : Nv) : Word := (n.held 5 n.owner).value.getD 6

/-- The lockout state (Table 12.5a where neither copy is valid). -/
def Nv.lockouts (n : Nv) : Vector Lockout 4 :=
  (n.held 3 n.lockout).value.getD (Vector.replicate 4 ⟨13, 3600000000000⟩)

/-- TYPE of a ledger entry. -/
def entryType (e : List Byte) : Nat := fieldAt e 0x0C 2

/-- The head record after an entry that follows a head. -/
def headAfter (h : BitVec 512) (e : List Byte) : HeadRec :=
  ⟨fieldAt e 0 8, ledgerHead h e, BitVec.ofNat 32 (fieldAt e 8 4)⟩

/-- Entries chained onto a head record, oldest first, as long as SEQ has no gap. -/
def chainOn (h : HeadRec) : List (List Byte) → HeadRec
  | [] => h
  | e :: es => if fieldAt e 0 8 = h.seq + 1 then chainOn (headAfter h.head e) es else h

/-- The head record that the ROM rebuilds from retained entries, oldest first (Table 12.5a): from H_(−1)
    where the genesis entry is retained, else from the oldest checkpoint. -/
def rebuildHead : List (List Byte) → HeadRec
  | [] => ⟨0, ledgerRoot, 0⟩
  | e :: es =>
    if fieldAt e 0 8 = 0 then chainOn (headAfter ledgerRoot e) es
    else if entryType e = 0x51 then chainOn (headAfter (hashWord (bytesAt e 0x20 64)) e) es
    else rebuildHead es

/-- The ledger head record (Table 12.5a: rebuilt where neither copy is valid). -/
def Nv.headRec (n : Nv) : HeadRec :=
  (n.held 6 n.head).value.getD (rebuildHead (n.ledger.reverse.map n.shown))

/-- The last archived SEQ, if any entry is archived (R513; Table 12.5a: that of the latest retained ARCHIVE
    entry where neither copy is valid). -/
def Nv.lastArchived (n : Nv) : Nat :=
  (n.held 7 n.archived).value.getD
    ((((n.ledger.map n.shown).find? fun e => entryType e == 0x50).map fun e => fieldAt e 0x60 8).getD 0)

/-- The boot count (Table 12.5a where neither copy is valid). -/
def Nv.boots (n : Nv) : BitVec 32 := (n.held 2 n.bootCount).count.getD (n.headRec.boot + 1)

/-- SEQ that the next ledger entry takes. -/
def Nv.nextSeq (n : Nv) : Nat := n.headRec.seq + 1

/-- Does the steward's watchdog stand still (R642)? -/
def stewardWdFrozen (s : State) : Bool := s.ik.steward.halted && s.ik.steward.frz.getLsbD 0

/-- The loop state (Table 14.5): the first row whose condition holds, with the thermal and the power bounds that the
    latest period of the loop has found. -/
def loopState (s : State) : BitVec 3 :=
  if s.pins.thermtrip then 5
  else if s.pins.pwrbrk then 4
  else if s.pw.throt then 3
  else if s.pw.capped then 2
  else if s.boot.ready then 1
  else 0

/-! ### Alerts and the health log -/

/-- The state with alert bits set in MG_ALERTST (Table 11.14).  A change raises an in-band
    interrupt with byte 0xA2 (R456). -/
def alert (bits : BitVec 6) (s : State) : State :=
  let a := s.mg.alert ||| bits
  let s1 := { s with mg := { s.mg with alert := a } }
  if a = s.mg.alert then s1
  else if s.i3c.ibien then s1.emit (.ibi 0xA2)
  else { s1 with i3c := { s1.i3c with ibiPend := s1.i3c.ibiPend ++ [0xA2] } }

/-- A word of the NV store written: until the next tick a loss of power may find the store as it was before
    (R497). -/
def nvSet (n : Nv) (s : State) : State := { s with nv := n, nvWas := s.nv :: s.nvWas }

/-- The steward's entry in the health log (R500): the newest of at most 32,768, and HEALTH set. -/
def health (code wher : BitVec 16) (data : List Byte) (s : State) : State :=
  let h : HealthEntry :=
    ⟨s.nv.healthSeq, s.mg.timebase, s.nv.boots, code, wher, padTo 40 data⟩
  alert 4 (nvSet { s.nv.renewed (.health (s.nv.healthSeq % 32768)) with
    health := (h :: s.nv.health).take 32768, healthSeq := s.nv.healthSeq + 1 } s)

/-! ### Records of the NV store written (R494, R499) -/

/-- Record `k` of the counters region written, one copy in full and then the other (R494).  A copy with its
    SHA-512 is longer than a word, so that one which a loss of power finds half written is not valid (R497).
    `put` is the store with a record from the moment that the new value is in force; `before` is the store until
    then. -/
def nvRecordFrom {α : Type} (k : Nat) (before put : NvRec α → Nv) (r : NvRec α) (x : α) (s : State) : State :=
  let c := some ((s.nv.held k r).writes + 1, x)
  let one (n : Nv) : Nv := n.renewed (.counter k false)
  let two (n : Nv) : Nv := (one n).renewed (.counter k true)
  nvSet (two (put ⟨c, c⟩)) (nvSet (two (put ⟨c, none⟩)) (nvSet (one (put ⟨c, r.b⟩))
    (nvSet (one (before ⟨none, r.b⟩)) s)))

/-- Record `k` written, where `put` is the store with the record it is given: the entry of a change stays open
    until the value is in force (R506). -/
def nvRecord {α : Type} (k : Nat) (put : NvRec α → Nv) (r : NvRec α) (x : α) (s : State) : State :=
  nvRecordFrom k (fun r => { put r with opened := s.nv.opened }) put r x s

/-- Latent errors that a read of the NV store meets: each is entered in the health log, the first time it is met
    (R499). -/
def nvMeet (fs : List NvFlaw) (s : State) : State :=
  fs.foldl (fun s f =>
    if s.nv.flaws.contains (f, false) then
      health 9 0xFFFF [] { s with nv := { s.nv with
        flaws := s.nv.flaws.map fun p => if p.1 = f then (f, true) else p } }
    else s) s

/-! ### Sector placement (R75 to R79, Table 2.1) -/

/-- A sector's place in the stacks: the stack, the pseudo-channel within it, the bank, and the position
    within the bank (R77). -/
structure Spot where
  stack : Nat
  chan : Nat
  bank : Nat
  pos : Nat
  deriving DecidableEq, Repr

/-- The row of a place (R78): B[18:5]. -/
def Spot.row (x : Spot) : Nat := x.pos / 32

/-- The sector within the row of a place (R78): B[4:0]. -/
def Spot.col (x : Spot) : Nat := x.pos % 32

/-- The row of a place, numbered over all stacks, pseudo-channels and banks. -/
def Spot.rowNumber (x : Spot) : Nat := ((x.stack * 64 + x.chan) * 32 + x.bank) * 16384 + x.row

/-- The skewed channel of `w` bits: 0 NONE, 1 FOLD, 2 ROTATE (Table 2.1). -/
def skewChannel (skew : BitVec 2) (w chan page : Nat) : Nat :=
  match skew.toNat with
  | 0 => chan
  | 1 => chan ^^^ page % 2 ^ w ^^^ page / 2 ^ w % 2 ^ w ^^^ page / 2 ^ (2 * w) % 2 ^ w
  | _ => (chan + page % 2 ^ w) % 2 ^ w

/-- The skewed bank of a position within a pseudo-channel (Table 2.1). -/
def skewBank (skew : BitVec 2) (l : Nat) : Nat :=
  match skew.toNat with
  | 0 => l % 32
  | 1 => l % 32 ^^^ l / 2 ^ 5 % 32 ^^^ l / 2 ^ 10 % 32 ^^^ l / 2 ^ 15 % 32
  | _ => (l % 32 + l / 2 ^ 5 % 32) % 32

/-- The place of the sector at a physical address under an interleave mode and two skews (R77). -/
def spotIn (ilvLocal : Bool) (chskew bkskew : BitVec 2) (pa : Nat) : Spot :=
  let page := pa / 2 ^ 18
  let idx := pa / 64 % 4096
  if ilvLocal then
    let l := page / 8 * 64 + idx / 64
    { stack := page % 8, chan := skewChannel chskew 6 (idx % 64) (page / 8), bank := skewBank bkskew l,
      pos := l / 32 }
  else
    let l := page * 8 + idx / 512
    let chan := skewChannel chskew 9 (idx % 512) page
    { stack := chan / 64, chan := chan % 64, bank := skewBank bkskew l, pos := l / 32 }

/-- The place of a sector by the settings in force (R76, R77). -/
def spotOf (h : Hub) (pa : Nat) : Spot := spotIn h.ilvLocal h.chskew h.bkskew pa

/-- The stack of a sector of HBM (Table 2.1), by the interleave in force. -/
def stackOf (h : Hub) (pa : Nat) : Nat := (spotOf h pa).stack

/-- Is the sector in a stack that has become unreachable (R43)? -/
def unreachable (h : Hub) (pa : Nat) : Bool := h.unreachable.getLsbD (stackOf h pa / 2)

/-! ### Errors in memory (R118 to R126) -/

/-- Does a sector's flaw decode as uncorrectable: two erroneous bytes, or content of another location
    (R119)? -/
def SecFlaw.bad (sec : Nat) : SecFlaw → Bool
  | .byte _ => false
  | .bytes i j => i ≠ j
  | .moved home => home ≠ sec

/-- Does a byte's flaw decode as uncorrectable: two wrong bits, or a byte of an address of the other
    parity (R120)? -/
def ByteFlaw.bad : ByteFlaw → Bool
  | .bit _ => false
  | .bits i j => i ≠ j
  | .moved => true

/-- The sectors of HBM that decode as uncorrectable. -/
def Flaws.hbmUe (f : Flaws) : List Nat := (f.hbm.filter fun p => p.2.bad p.1).map Prod.fst

/-- The sectors of HBM that hold a correctable error. -/
def Flaws.hbmCe (f : Flaws) : List Nat := (f.hbm.filter fun p => !p.2.bad p.1).map Prod.fst

/-- The sectors of HBM with an error under the outer or the on-die code. -/
def flawedSectors (f : Flaws) : List Nat := (f.hbm.map Prod.fst ++ f.inner).eraseDups

/-- The key of a flawed byte of a tile store: the physical engine times 2^18 plus the offset. -/
def ChipFlaw.tileKey (x : ChipFlaw) : Nat := x.eng * 2 ^ 18 + x.off

/-- The bytes of the tile stores that decode as uncorrectable. -/
def Flaws.tileUe (f : Flaws) : List Nat :=
  (f.chip.filter fun x => x.array == 0 && x.flaw.bad).map ChipFlaw.tileKey

/-- The bytes of the tile stores that hold a correctable error. -/
def Flaws.tileCe (f : Flaws) : List Nat :=
  (f.chip.filter fun x => x.array == 0 && !x.flaw.bad).map ChipFlaw.tileKey

/-- Is a flawed byte among `n` bytes of a line of an array from an offset? -/
def ChipFlaw.within (array eng line off n : Nat) (x : ChipFlaw) : Bool :=
  x.array == array && x.eng == eng && x.line == line && decide (off ≤ x.off ∧ x.off < off + n)

/-- MEM_UE_LOG after a detection: kept while VALID (R126). -/
def ueLogged (h : Hub) (w : Word) : Word :=
  if h.ueLog.getLsbD 63 then h.ueLog else flag 63 true ||| w

/-- A detection of an uncorrectable error in an HBM sector (R123, R126). -/
def detectHbm (master : Nat) (sec : Nat) (s : State) : State :=
  let h := { s.hub with ueHbm := satInc s.hub.ueHbm,
                        ueLog := ueLogged s.hub (place 58 4 master ||| place 0 39 (sec * 64)) }
  health 2 0xFFFF (leBytes 8 h.ueLog.toNat)
    { s with hub := h, poison := insertNat sec s.poison,
             flaws := { s.flaws with hbm := s.flaws.hbm.del sec } }

/-- A detection of an uncorrectable error in an on-chip array (R125, R126).  MASTER is 10, the code that
    Table 2.14 has for an on-chip array, whoever read it (log entry 62). -/
def detectChip (array sq pos off : Nat) (s : State) : State :=
  let w := flag 62 true ||| place 58 4 10 ||| place 55 3 array ||| place 49 6 sq |||
    place 45 4 pos ||| place 0 24 off
  let h := { s.hub with ueChip := satInc s.hub.ueChip, ueLog := ueLogged s.hub w }
  let wher := if array < 4 then BitVec.ofNat 16 (sq * 16 + pos) else 0xFFFF
  health 2 wher (leBytes 8 h.ueLog.toNat) { s with hub := h }

/-- The on-die code corrects an access to the sector, and the controller counts it (Table 2.6). -/
def noteInner (sec : Nat) (s : State) : State :=
  if sec ∈ s.flaws.inner then { s with hub := { s.hub with inner := s.hub.inner + 1 } } else s

/-- A correctable error of a sector is corrected, counted and written back (R121). -/
def correctHbm (sec : Nat) (s : State) : State :=
  { s with hub := { s.hub with ceHbm := satInc s.hub.ceHbm },
           flaws := { s.flaws with hbm := s.flaws.hbm.del sec } }

/-- A read of one HBM sector by a master: does it decode as uncorrectable, and what does the read
    leave (R121 to R123)? -/
def probeHbm (master : Nat) (pa : Nat) (s : State) : Bool × State :=
  let sec := pa / 64
  if unreachable s.hub pa then (true, s)
  else
    let s1 := noteInner sec s
    if sec ∈ s1.poison then (true, s1)
    else if sec ∈ s1.flaws.hbmUe then (true, detectHbm master sec s1)
    else if sec ∈ s1.flaws.hbmCe then (false, correctHbm sec s1)
    else (false, s1)

/-- A read of `n` bytes of a line of an on-chip array: is one of them uncorrectable (R120, R121, R125)?
    Each byte is coded alone: those that are correctable are corrected, counted and written back, and a
    detection names the offset that `adr` gives the first byte that is not. -/
def probeChip (array eng line off n : Nat) (adr : Nat → Nat) (s : State) : Bool × State :=
  let hit := s.flaws.chip.filter (ChipFlaw.within array eng line off n)
  let s1 := { s with
    hub := { s.hub with ceChip := satAdd s.hub.ceChip (hit.filter fun x => !x.flaw.bad).length },
    flaws := { s.flaws with
      chip := s.flaws.chip.filter fun x => x.flaw.bad || !x.within array eng line off n } }
  match hit.find? fun x => x.flaw.bad with
  | some x => (true, detectChip array (eng / 9) (eng % 9) (adr x.off) s1)
  | none => (false, s1)

/-- The bytes of a line of an on-chip array that `hit` names are written, and with them their check
    bits (R120). -/
def recode (array eng line : Nat) (hit : Nat → Bool) (f : Flaws) : Flaws :=
  { f with chip := f.chip.filter fun x =>
      !(x.array == array && x.eng == eng && x.line == line && hit x.off) }

/-- The tile stores of the engines from `lo` up to `hi` filled with zero, and their check bits with them
    (R105). -/
def clearTiles (lo hi : Nat) (s : State) : State :=
  { s with
    tile := s.tile.clear (lo * 2 ^ 18) (hi * 2 ^ 18)
    flaws := { s.flaws with chip := s.flaws.chip.filter fun x =>
      !(x.array == 0 && decide (lo ≤ x.eng ∧ x.eng < hi)) } }

/-- A read of bytes of a tile store: is one of them uncorrectable (R120, R125)?  Keys of tile-store
    bytes are the physical engine times 2^18 plus the offset. -/
def probeTile (key n : Nat) (s : State) : Bool × State :=
  probeChip 0 (key / 2 ^ 18) 0 (key % 2 ^ 18) n id s

/-- A read of a map copy's entry: array 4 is the live copy, 5 the shadow copy. -/
def probeMap (array page : Nat) (s : State) : Bool × State :=
  probeChip array 0 page 0 8 (page * 8 + ·) s

/-- What the reads of undone work have left stays: their detections and corrections, and the poison of HBM
    sectors (R123, R124, R126).  A byte of an on-chip array that the undone work would have overwritten still
    fails as it did. -/
def keepErrors (s1 s0 : State) : State :=
  let h := s1.hub
  let ibis := (s1.out.take (s1.out.length - s0.out.length)).filter fun o =>
    match o with
    | .ibi _ => true
    | _ => false
  { s0 with
    hub := { s0.hub with ceChip := h.ceChip, ceHbm := h.ceHbm, ueChip := h.ueChip, ueHbm := h.ueHbm,
                         ueLog := h.ueLog, inner := h.inner }
    poison := s1.poison
    flaws := { s0.flaws with hbm := s1.flaws.hbm,
                             chip := s0.flaws.chip.filter fun x => x.flaw.bad || s1.flaws.chip.contains x }
    nv := s1.nv, nvWas := s1.nvWas, mg := s1.mg, i3c := s1.i3c, free := s1.free
    out := ibis ++ s0.out }

/-! ### Reservations (R114) -/

/-- The number of a sector for a reservation: sectors of HBM first, sectors of tile stores after
    them. -/
def hbmSector (pa : Nat) : Nat := pa / 64

/-- The number of a tile-store sector for a reservation. -/
def tileSector (key : Nat) : Nat := 2 ^ 33 + key / 64

/-- Every engine but `me` loses a reservation of the sector (R114). -/
def dropResv (me : Option Nat) (sec : Nat) (s : State) : State :=
  { s with engines := s.engines.map fun p =>
      if p.2.resv = some sec ∧ some p.1 ≠ me then (p.1, { p.2 with resv := none }) else p }

/-! ### Writes to memory -/

/-- A write of enabled bytes inside one HBM sector, with its merge read already found good: the
    bytes, the sector coded afresh, the poison and the errors that a full write clears, and the
    reservations of others (R74, R111, R121, R123). -/
def writeHbm (me : Option Nat) (pa : Nat) (bs : List (Option Byte)) (s : State) : State :=
  let sec := pa / 64
  let full := decide (bs.length = 64) && bs.all Option.isSome
  let s1 := { s with hbm := s.hbm.writeMask pa bs
                     flaws := { s.flaws with inner := s.flaws.inner.filter (· ≠ sec) } }
  let s2 := if full then
      { s1 with poison := s1.poison.filter (· ≠ sec),
                flaws := { s1.flaws with hbm := s1.flaws.hbm.del sec } }
    else s1
  dropResv me sec s2

/-- Does a write of these bytes to this HBM sector meet an uncorrectable merge read (Table 2.7)?
    A write of the whole sector needs no merge (R74); a sector out of reach takes no write. -/
def probeWrite (master : Nat) (pa : Nat) (bs : List (Option Byte)) (s : State) : Bool × State :=
  if decide (bs.length = 64) && bs.all Option.isSome then (unreachable s.hub pa, s)
  else probeHbm master pa s

/-- A write of enabled bytes to a tile store; it re-codes each byte alone (R120, R125). -/
def writeTile (me : Option Nat) (key : Nat) (bs : List (Option Byte)) (s : State) : State :=
  let off := key % 2 ^ 18
  let hit (k : Nat) : Bool := decide (off ≤ k) && (bs.getD (k - off) none).isSome
  dropResv me (tileSector key)
    { s with tile := s.tile.writeMask key bs, flaws := recode 0 (key / 2 ^ 18) 0 hit s.flaws }

/-- The ECLK in which a master lost arbitration for an access to the tile store of a key (R102, R131): 0 the
    tender, 1 the debug master, 2 the steward port.  How many they are is timing, and a free value (log entry
    66). -/
def loseTile (master : Fin 3) (key : Nat) (s : State) : State :=
  { s with free := s.free + 1 }.modEng (key / 2 ^ 18) fun x => { x with
    tsconf := x.tsconf.set master (satAdd x.tsconf[master] (Config.freeNat s.free)) }

/-! ### The monad of an engine's work -/

/-- Why an instruction does not complete: it raises an event, or it waits and will be issued
    again. -/
inductive Stop
  | ev (e : Ev)
  | wait
  deriving DecidableEq, Repr

/-- Work on the state that can raise an event or wait. -/
abbrev EM := EStateM Stop State

/-- Raise an event. -/
def raise {α : Type} (x : Ev) : EM α := throw (.ev x)

/-- The instruction waits; nothing of it commits. -/
def hold {α : Type} : EM α := throw .wait

/-- Change the state. -/
def upd (f : State → State) : EM Unit := modify f

/-- Run a function that answers a value and a state. -/
def liftP {α : Type} (f : State → α × State) : EM α := modifyGet f

/-- The state of an engine. -/
def engM (e : Nat) : EM Engine := do return (← get).eng e

/-- Change an engine. -/
def updE (e : Nat) (f : Engine → Engine) : EM Unit := upd fun s => s.modEng e f

/-- A fresh free value of the spec's open points. -/
def fresh : EM Nat := modifyGet fun s => (s.free, { s with free := s.free + 1 })

/-! ### General registers (R133 to R135) -/

/-- A general register as an instruction reads it: g0 is 0, g31 is the stack pointer of the
    current ring. -/
def Engine.reg (x : Engine) (r : Reg) : Word :=
  if r = 0 then 0
  else if r = 31 then (x.stk[x.trap.ring.toNat]).setWidth 64
  else x.g[r.toNat]

/-- A general register written: g0 discards, g31 writes bits 47:0 of the ring's stack pointer. -/
def Engine.setReg (x : Engine) (r : Reg) (v : Word) : Engine :=
  if r = 0 then x
  else if r = 31 then { x with stk := x.stk.set x.trap.ring.toNat (v.setWidth 48) }
  else { x with g := x.g.set r.toNat v }

/-- The ring whose rights an access of an engine has: ring 0 for a debug access or a fed instruction
    (R637, R639), else the current ring. -/
def Engine.rights (x : Engine) : BitVec 2 := if x.dbg.feed then 0 else x.trap.ring

/-- The register after `r`, of a pair (R188). -/
def nextReg (r : Reg) : Reg := r + 1

/-- Is `r` the low register of a pair (R188)? -/
def pairOk (r : Reg) : Bool := !r.getLsbD 0 && decide (r.toNat ≤ 28)

/-- A register pair written (R188). -/
def Engine.setPair (x : Engine) (r : Reg) (lo hi : Word) : Engine :=
  (x.setReg r lo).setReg (nextReg r) hi

end Sys2Proof.Machine
end

