-- ==== Sys2Proof/Machine/Fabric.lean ====
section
/-! DEFINITION. What leaves through the CXL port and the Frarix links: routing, packets, and the
accesses to host and remote memory (R524, R540 to R549). -/

namespace Sys2Proof.Machine

/-! ### Routing (R540 to R543) -/

/-- The routing entry of a node. -/
def routeOf (s : State) (node : BitVec 16) : BitVec 16 := SMap.get 0 s.board.routes node.toNat

/-- The links of a route's mask that are up. -/
def upLinks (s : State) (ent : BitVec 16) : List Nat :=
  (List.range 8).filter fun i =>
    ent.getLsbD i && ((s.frx.links.toList.getD i {}).st == 2)

/-- The free credit of a link in a class and lane (R538). -/
def creditOf (s : State) (i cls : Nat) (lane : Bool) : Nat :=
  ((s.frx.links.toList.getD i {}).credit.toList.getD (2 * cls + (if lane then 1 else 0)) 0).toNat

/-- The link with the most free credit, the lower number on a tie (R542). -/
def bestLink (s : State) (cls : Nat) (lane : Bool) : List Nat → Option Nat
  | [] => none
  | i :: is =>
    match bestLink s cls lane is with
    | none => some i
    | some j => if creditOf s i cls lane < creditOf s j cls lane then some j else some i

/-- A packet's ROUTE byte (Table 13.8): class, lane and hop count. -/
def routeByte (cls : Nat) (lane : Bool) (hops : Nat) : Byte :=
  BitVec.ofNat 8 (cls % 4 + (if lane then 4 else 0) + hops % 32 * 8)

/-- The credit units of a packet, of 16 bytes each (R536, R544). -/
def packetUnits (p : FrxPacket) : Nat := (16 + (p.payload.length + 7) / 8 * 8 + 15) / 16

/-! ### The sending side of a link (R536 to R538) -/

/-- A Frarix link. -/
def frxLink (s : State) (i : Nat) : FrxLink := s.frx.links.toList.getD i {}

/-- The state with a link changed. -/
def modLink (i : Nat) (f : FrxLink → FrxLink) (s : State) : State :=
  { s with frx := { s.frx with links := s.frx.links.setIfInBounds i (f (frxLink s i)) } }

/-- The bytes of a packet: its header (Table 13.8) and its payload with its padding. -/
def frxBytes (p : FrxPacket) : List Byte :=
  leBytes 2 p.dst.toNat ++ leBytes 2 p.src.toNat ++ [p.typ, p.route] ++ leBytes 2 p.len.toNat ++
    leBytes 4 p.tag.toNat ++ [p.code] ++ leBytes 3 p.addrH.toNat ++
    padTo ((p.payload.length + 7) / 8 * 8) p.payload

/-- The credit that a packet uses: the number of its class and lane (R538). -/
def creditKey (route : Byte) : Nat := route.toNat % 4 * 2 + route.toNat / 4 % 2

/-- Is a packet a strip or a notice, which a tunnel sends in order (R542, R554)? -/
def inTunnel (p : FrxPacket) : Bool := p.typ == 7 || p.typ == 8

/-- A packet is packed behind what waits for a flit, and uses its credit. -/
def packOn (p : FrxPacket) (l : FrxLink) : FrxLink :=
  let k := creditKey p.route
  let bs := frxBytes p
  let at_ := l.sent + bs.length
  { l with
    credit := l.credit.setIfInBounds k (l.credit.toList.getD k 0 - BitVec.ofNat 16 (packetUnits p)),
    tx := l.tx ++ bs, sent := at_, flight := if inTunnel p then l.flight ++ [(p, at_)] else l.flight }

/-- The packets that wait are packed in their order; one without credit holds back its own class and lane alone
    (R538).  `held` are the numbers of those held back. -/
def packWaiting : List FrxPacket → List Nat → FrxLink → FrxLink
  | [], _, l => l
  | p :: ps, held, l =>
    let k := creditKey p.route
    if held.contains k || decide ((l.credit.toList.getD k 0).toNat < packetUnits p) then
      let r := packWaiting ps (k :: held) l
      { r with waiting := p :: r.waiting }
    else packWaiting ps held (packOn p l)

/-- What may be packed is. -/
def FrxLink.pump (l : FrxLink) : FrxLink := packWaiting l.waiting [] { l with waiting := [] }

/-- A packet leaves on a link and uses credit of its class and lane, for which it may have to wait (R538). -/
def sendOn (i : Nat) (p : FrxPacket) (s : State) : State :=
  modLink i (fun l => { l with waiting := l.waiting ++ [p] }.pump) (s.emit (.frx i p))

/-- Bytes 0 to 247 of a flit, low byte first (R536). -/
def flitBits (f : Flit) : BitVec 1984 :=
  f.data ++ f.creditCount ++ (BitVec.ofBool f.creditLane) ++ f.creditClass ++ f.ftype ++ f.ackseq ++ f.seq

/-- The class and lane whose credit a flit returns: the first that the link owes any. -/
def owedKey (l : FrxLink) : Nat := ((List.range 8).find? fun k => l.owed.toList.getD k 0 != 0).getD 0

/-- A flit of a link with 242 bytes of packet data, which also returns credit and acknowledges (R536). -/
def flitOf (ftype : Byte) (bs : List Byte) (l : FrxLink) : Flit :=
  let k := owedKey l
  let f : Flit := { seq := l.txSeq, ackseq := l.rxSeq - 1, ftype := ftype, creditClass := BitVec.ofNat 2 (k / 2),
                    creditLane := k % 2 == 1,
                    creditCount := BitVec.ofNat 13 (min (l.owed.toList.getD k 0).toNat 8191),
                    data := BitVec.ofNat 1936 (leNat bs), crc := 0 }
  { f with crc := Config.flitCrc (flitBits f) }

/-- A link after a flit: the credit is returned, and a data flit stays in the replay buffer (R537). -/
def afterFlit (f : Flit) (l : FrxLink) : FrxLink :=
  let k := owedKey l
  let l1 := { l with owed := l.owed.setIfInBounds k (l.owed.toList.getD k 0 - f.creditCount.setWidth 16),
                     ackDue := false }
  if f.ftype = 1 then { l1 with tx := l.tx.drop 242, txSeq := l.txSeq + 1, replay := l.replay ++ [f] } else l1

/-- A link sends a flit. -/
def sendFlit (i : Nat) (ftype : Byte) (bs : List Byte) (s : State) : State :=
  let f := flitOf ftype bs (frxLink s i)
  modLink i (afterFlit f) (s.emit (.flit i f))

/-- The flits that a link sends at a tick: packets end to end, as far as the replay buffer has room for 256 flits.
    A last flit that they do not fill ends in zeros, and with no packet left an idle flit returns credit or
    acknowledges (R536, R537; log entry 52). -/
def sendFlits (i : Nat) : Nat → State → State
  | 0, s => s
  | fuel + 1, s =>
    let l := frxLink s i
    if l.st ≠ 2 then s
    else if !l.tx.isEmpty && decide (l.replay.length < 256) then
      let fill := (242 - min 242 l.tx.length)
      let s1 := modLink i (fun l => { l with tx := l.tx ++ List.replicate fill 0, sent := l.sent + fill }) s
      sendFlits i fuel (sendFlit i 1 (l.tx.take 242) s1)
    else if l.ackDue || l.owed.toList.any (· != 0) then sendFlits i fuel (sendFlit i 0 [] s)
    else s

/-- The links at a tick. -/
def tickLinks (s : State) : State := (List.range 8).foldl (fun s i => sendFlits i 272 s) s

/-- Is a strip of an own tunnel on its way on a link: it waits for credit, or no acknowledgement has come for it
    (R554)? -/
def tunnelBusy (s : State) (t : Nat) : Bool :=
  let mine (p : FrxPacket) : Bool :=
    p.typ == 7 && p.src == s.frx.node && (p.tag.extractLsb' 16 6).toNat == t
  s.frx.links.toList.any fun l => l.waiting.any mine || l.flight.any (fun x => mine x.1) || l.back.any mine

/-- Send a packet of this part (R540 to R543): status 0 when sent, 1 NOROUTE, 6 LINKDOWN.  A packet
    for the part's own node is delivered locally, on link number 8 of the log of what left. -/
def frxSend (cls : Nat) (p : FrxPacket) (s : State) : Nat × State :=
  if p.dst = s.frx.node then (0, s.emit (.frx 8 { p with route := routeByte cls false 0 }))
  else
    let ent := routeOf s p.dst
    if !ent.getLsbD 15 then (1, s)
    else
      let lane := ent.extractLsb' 10 2 == 1
      match bestLink s cls lane (upLinks s ent) with
      | none => (6, s)
      | some i => (0, sendOn i { p with route := routeByte cls lane 0 } s)

/-- Pass on a packet for another node that arrived on a link (R542, R543): the hop count rises, a
    count of 31 takes no further link; a strip or a notice does not adapt, and takes the lowest link up of its
    route (log entry 52).  The status is 0 when sent, 1, 2 or 6 when discarded. -/
def frxForward (p : FrxPacket) (s : State) : Nat × State :=
  let hops := p.route.toNat / 8
  let cls := p.route.toNat % 4
  let ent := routeOf s p.dst
  if hops = 31 then (2, s)
  else if !ent.getLsbD 15 then (1, s)
  else
    let lane := match (ent.extractLsb' 10 2).toNat with
      | 0 => false
      | 1 => true
      | _ => p.route.getLsbD 2
    let ups := upLinks s ent
    match if p.typ = 7 ∨ p.typ = 8 then ups.head? else bestLink s cls lane ups with
    | none => (6, s)
    | some i => (0, sendOn i { p with route := routeByte cls lane (hops + 1) } s)

/-! ### Packets (R544, R545) -/

/-- The request payload of R545: the low address bits, the byte-enable mask and the data. -/
def requestPayload (pa : Nat) (mask : BitVec 64) (data : List Byte) : List Byte :=
  leBytes 2 (pa % 65536 / 64 * 64) ++ List.replicate 6 0 ++ leBytes 8 mask.toNat ++ data

/-- A packet of this part with a payload. -/
def packet (s : State) (dst : BitVec 16) (typ code : Byte) (tag : BitVec 32) (addr : Nat)
    (payload : List Byte) : FrxPacket :=
  { dst := dst, src := s.frx.node, typ := typ, route := 0, len := BitVec.ofNat 16 payload.length,
    tag := tag, code := code, addrH := BitVec.ofNat 24 (addr / 65536 % 2 ^ 23),
    payload := payload }

/-- The job that a requester sends for, 0 for none. -/
def jobFor (s : State) : Requester → Nat
  | .engine e => (s.eng e).job
  | _ => 0

/-- Is an access of a requester translated by an entry of an epoch before the last castling (R98, R99)?  A stream
    and a tender channel keep their current page, an access of the scalar stream what it has resolved. -/
def oldAccess (s : State) (who : Requester) (va : Word) (acc : BitVec 3) : Bool :=
  let here (r : PageRef) : Bool := r.old && r.page == va.toNat / 2 ^ 18
  match who with
  | .engine e =>
    let x := s.eng e
    if acc = 5 ∨ acc = 6 then (x.vec.q.take 1).any fun g => g.pages.any here else x.mid && x.way.old
  | .tender sq n => ((s.sqr sq).tnd.toList.getD n {}).page.any here
  | _ => false

/-- Has a SHOOT named the entry that an access of the scalar stream goes on with (R92)? -/
def shotAccess (s : State) : Requester → BitVec 3 → Bool
  | .engine e, acc => decide (acc ≠ 5 ∧ acc ≠ 6) && (s.eng e).mid && (s.eng e).way.shot
  | _, _ => false

/-- A request of this part on its way: its tag is recorded with who waits for it, and it is sent.
    The status of a request that cannot be sent is the answer it gets at once (R543). -/
def frxRequest (who : Requester) (write atomic : Bool) (va : Word) (acc : BitVec 3)
    (node : BitVec 16) (typ code : Byte) (pa : Nat) (mask : BitVec 64) (data : List Byte)
    (s : State) : Nat × State :=
  let tag := s.nextTag
  let (st, s1) := frxSend 0 (packet s node typ code tag pa (requestPayload pa mask data)) s
  if st = 0 then
    (0, { s1 with nextTag := tag + 1,
                  reqs := { tag := tag, who := who, write := write, host := false, va := va, acc := acc,
                            mask := mask, atomic := atomic, job := jobFor s who,
                            old := oldAccess s who va acc, shot := shotAccess s who acc } :: s1.reqs })
  else (st, s1)

/-- Can a host access be sent (R520, R521)? -/
def hostOpen (s : State) : Bool := s.cxl.up && s.cxl.cxl && !s.cxl.perst

/-- A host access on its way (R524). -/
def hostRequest (who : Requester) (write : Bool) (va : Word) (acc : BitVec 3) (o : BitVec 32 → Out)
    (s : State) : State :=
  let tag := s.nextTag
  { s.emit (o tag) with
    nextTag := tag + 1,
    reqs := { tag := tag, who := who, write := write, host := true, va := va, acc := acc, job := jobFor s who,
              old := oldAccess s who va acc, shot := shotAccess s who acc } :: s.reqs }

/-- A deferred write error of an engine: the first is recorded, a later one is counted (R549). -/
def deferError (e : Nat) (host : Bool) (va : Word) (acc : BitVec 3) (s : State) : State :=
  match (s.eng e).defer with
  | none => s.modEng e fun x => { x with defer := some (va, acc) }
  | some _ =>
    if host then { s with cxl := { s.cxl with defer := satInc s.cxl.defer } }
    else { s with frx := { s.frx with drop := satInc s.frx.drop } }

/-- The engines that send the writes of an engine: it, and for a partner its primary, which performs the writes
    of both (R412). -/
def writersOf (s : State) (e : Nat) : List Nat :=
  if isPartner s (e / 9) then e :: (twinOf s e).toList else [e]

/-- Has an engine a write that has neither completed nor been acknowledged? -/
def writesOut (s : State) (e : Nat) : Bool :=
  s.reqs.any fun r => r.write && (writersOf s e).any fun k => decide (r.who = .engine k)

/-- Has a scalar store of an engine still to complete at the host or a remote device? -/
def storesOut (s : State) (e : Nat) : Bool :=
  s.reqs.any fun r => r.write && r.acc == 3 && (writersOf s e).any fun k => decide (r.who = .engine k)

/-- A write of an engine has ended with an error status: it is deferred (R549), and on a primary its partner, for
    which it was performed too, records it where it has recorded none (R412; log entry 65). -/
def deferBoth (e : Nat) (host : Bool) (va : Word) (acc : BitVec 3) (s : State) : State :=
  let s1 := deferError e host va acc s
  match if isPartner s (e / 9) then none else twinOf s e with
  | some t => if (s.eng t).defer.isNone && va.toNat < 2 ^ 39 then deferError t host va acc s1 else s1
  | none => s1

end Sys2Proof.Machine
end

