-- ==== Sys2Proof/Machine/Access.lean ====
section
/-! DEFINITION. Addresses, translation and the memory accesses of an engine: the engine address map
(R141), the translation map (R80 to R86), the caches (R106 to R108) and reads and writes of bytes. -/

namespace Sys2Proof.Machine

/-- The kind of an access, as EC_CAUSE.ACC reports it (Table 5.11). -/
inductive Acc
  | fetch
  | load
  | store
  | atomic
  | sread
  | swrite
  | table
  deriving DecidableEq, Repr

/-- EC_CAUSE.ACC of an access. -/
def Acc.code : Acc → BitVec 3
  | .fetch => 1
  | .load => 2
  | .store => 3
  | .atomic => 4
  | .sread => 5
  | .swrite => 6
  | .table => 7

/-- The permissions an access needs of an entry's PERM bits for a ring (R82).  The second argument
    says that an access of a table or a frame writes, or that an atomic access only reads (LDL) or
    only writes (STC). -/
inductive Need
  | r
  | w
  | rw
  | x
  deriving DecidableEq, Repr

/-- Does a map entry grant a need to a ring (R82)? -/
def permOk (ent : Word) (ring : BitVec 2) (n : Need) : Bool :=
  let b := 3 + 3 * ring.toNat
  match n with
  | .r => ent.getLsbD b
  | .w => ent.getLsbD (b + 1)
  | .rw => ent.getLsbD b && ent.getLsbD (b + 1)
  | .x => ent.getLsbD (b + 2)

/-! ### Map entries (Table 2.2) -/

/-- V of an entry. -/
def entV (ent : Word) : Bool := ent.getLsbD 0
/-- TGT of an entry. -/
def entTgt (ent : Word) : Nat := field ent 1 2
/-- NS of an entry. -/
def entNs (ent : Word) : Bool := ent.getLsbD 15
/-- CTX of an entry. -/
def entCtx (ent : Word) : Byte := ent.extractLsb' 16 8
/-- NODE of an entry. -/
def entNode (ent : Word) : BitVec 16 := ent.extractLsb' 24 16
/-- PPAGE of an entry. -/
def entPage (ent : Word) : Nat := field ent 40 21

/-- The first failed check of R85, 1 to 5, for a requester of a partition; `none` when all pass. -/
def checkEntry (part : Option Partition) (ctx : Byte) (ring : BitVec 2) (n : Need) (page : Nat)
    (ent : Word) : Option (BitVec 3) :=
  if (match part with | some p => p.hasPage page | none => false) = false then some 1
  else if !entV ent then some 2
  else if entCtx ent ≠ ctx ∧ entCtx ent ≠ 0xFF then some 3
  else if entTgt ent = 3 then some 4
  else if !permOk ent ring n then some 5
  else none

/-- The event of a failed check of R85 (Table 5.3). -/
def xlateEv (k : Acc) (chk : BitVec 3) (va : Word) : Ev :=
  { code := if chk = 5 then 0x08 else 0x07, acc := k.code, check := chk, faddr := va }

/-- A bus error at an address. -/
def busEv (k : Acc) (va : Word) : Ev := { code := 0x06, acc := k.code, faddr := va }

/-- An uncorrectable error at an address: MCHK for the scalar stream, SHALT for a stream. -/
def ueEv (k : Acc) (va : Word) : Ev :=
  match k with
  | .sread | .swrite => { code := 0x0B, acc := k.code, faddr := va }
  | _ => { code := 0x0A, acc := k.code, faddr := va }

/-- The permission fault of a ring rule (R52, R103, R130, R145). -/
def ringEv (k : Acc) (va : Word) : Ev := { code := 0x08, acc := k.code, faddr := va }

/-- The live entry of a page. -/
def liveEntry (s : State) (page : Nat) : Word := SMap.get 0 s.hub.live page

/-- The shadow entry of a page. -/
def shadowEntry (s : State) (page : Nat) : Word := SMap.get 0 s.hub.shadow page

/-- Remove one entry, chosen by a free value, from a full cache. -/
def evict {α : Type} (m : SMap α) (pick : Nat) (which : Nat → Bool) (cap : Nat) : SMap α :=
  let keys := (m.filter fun p => which p.1).map Prod.fst
  if keys.length < cap then m else m.del (keys.getD (pick % keys.length) 0)

/-- A hit of `n` bytes of a line in a cache of an engine (R120, R125): array 1 is the instruction cache, 2
    the data cache, 3 the translation cache.  Where in the array the line lies the spec leaves open: the
    offset that a detection logs is a free value (log entry 62). -/
def probeCache (array e line off n : Nat) (s : State) : Bool × State :=
  match probeChip array e line off n (fun _ => Config.freeNat s.free) s with
  | (true, s1) => (true, { s1 with free := s1.free + 1 })
  | (false, s1) => (false, s1)

/-- A line of an array is written whole, with fresh check bits (R120). -/
def recodeLine (array e line : Nat) (s : State) : State :=
  { s with flaws := recode array e line (fun _ => true) s.flaws }

/-- Put a translation into an engine's translation cache of 64 entries (R86). -/
def tlbFill (e page : Nat) (ent : Word) : EM Unit := do
  upd (recodeLine 3 e page)
  let x ← engM e
  if x.caches.tlb.has page || x.caches.tlb.length < 64 then
    updE e fun x => { x with caches := { x.caches with tlb := x.caches.tlb.put page ent } }
  else
    let f ← fresh
    updE e fun x => { x with caches := { x.caches with
      tlb := (evict x.caches.tlb (Config.freeNat f) (fun _ => true) 64).put page ent } }

/-- Translate a job-space address of an engine (R80, R85, R86): the translation cache first, then
    the live copy of the map.  `k` is the access an event reports. -/
def translate (e : Nat) (ring : BitVec 2) (k : Acc) (n : Need) (va : Word) : EM Word := do
  let s ← get
  let x := s.eng e
  let page := va.toNat / 2 ^ 18
  match x.caches.tlb.find? fun p => p.1 == page with
  | some (_, ent) =>
    if ← liftP (probeCache 3 e page 0 8) then raise (ueEv k va)
    if permOk ent ring n then return ent else raise (xlateEv k 5 va)
  | none =>
    let ent := liveEntry s page
    match checkEntry (sqPart s (e / 9)) x.ctx ring n page ent with
    | some 1 => raise (xlateEv k 1 va)
    | r =>
      if ← liftP (probeMap 4 page) then raise (ueEv k va)
      match r with
      | some c => raise (xlateEv k c va)
      | none =>
        tlbFill e page ent
        return ent

/-! ### Where an access goes -/

/-- The region of an engine address (Table 3.3). -/
inductive Region
  | job
  | own (off : Nat)
  | sibling (pos off : Nat)
  | ecb (off : Nat)
  | square (off : Nat)
  | device (off : Nat)
  | none
  deriving DecidableEq, Repr

/-- The region of an address (R141). -/
def regionOf (va : Word) : Region :=
  let a := va.toNat
  if a < 0x8000000000 then .job
  else if 0xFFFF00000000 ≤ a ∧ a < 0xFFFF00040000 then .own (a - 0xFFFF00000000)
  else if 0xFFFF10000000 ≤ a ∧ a < 0xFFFF10001000 then .ecb (a - 0xFFFF10000000)
  else if 0xFFFF20000000 ≤ a ∧ a < 0xFFFF20240000 then
    .sibling ((a - 0xFFFF20000000) / 2 ^ 18) ((a - 0xFFFF20000000) % 2 ^ 18)
  else if 0xFFFF30000000 ≤ a ∧ a < 0xFFFF30001000 then .square (a - 0xFFFF30000000)
  else if 0xFFFF40000000 ≤ a ∧ a < 0xFFFF41000000 then .device (a - 0xFFFF40000000)
  else .none

/-! ### Register windows (R52, R130, R145) -/

/-- Does the register at an offset of the control block let a ring read it (Table 3.4)?  A "—" in
    the Read column reads 0 from every ring; so does an offset the table does not list (R24). -/
def ecbReadRing (off : Nat) : Nat :=
  if 0x040 ≤ off ∧ off < 0x060 then 0
  else if 0x080 ≤ off ∧ off < 0x100 then 0
  else 3

/-- Is the register at an offset one that no ring may write (Table 3.4)? -/
def ecbReadOnly (off : Nat) : Bool :=
  off == 0x000 || off == 0x010 || off == 0x018

/-- The highest ring that may write the register at an offset (Table 3.4). -/
def ecbWriteRing (off : Nat) : Nat :=
  if off = 0x008 ∨ (0x040 ≤ off ∧ off < 0x060) ∨ (0x080 ≤ off ∧ off < 0x100) ∨
      off = 0x300 ∨ off = 0x308 ∨ off = 0x310 ∨ off = 0x810 then 0
  else 3

/-- Is the register at an offset of the square window a tender register (R52)? -/
def isTenderReg (off : Nat) : Bool := decide (0x100 ≤ off ∧ off < 0x200) && off % 0x40 ≤ 0x20

/-- A register window that an engine's scalar access names. -/
inductive Window
  | ecb (off : Nat)
  | square (off : Nat)
  | device (off : Nat)
  deriving DecidableEq, Repr

/-- The register window of an address, if it lies in one. -/
def windowOf (va : Word) : Option Window :=
  match regionOf va with
  | .ecb off => some (.ecb off)
  | .square off => some (.square off)
  | .device off => some (.device off)
  | _ => none

/-- May a ring make this access to the register at an offset (R52, R130, R145)?  A misaligned access goes by
    the register of its first byte, where the spec names none (log entry 65). -/
def windowRing (w : Window) (write : Bool) (ring : BitVec 2) : Bool :=
  match w with
  | .ecb off =>
    let o := off / 8 * 8
    if write then !ecbReadOnly o && decide (ring.toNat ≤ ecbWriteRing o)
    else decide (ring.toNat ≤ ecbReadRing o)
  | .square off => !isTenderReg (off / 8 * 8) || ring == 0
  | .device _ => ring == 0

/-- The fault of an access that is no scalar load or store to an address outside memory, in the order of
    R52: PERM where a register window does not allow the ring, whatever the kind of access, else BUS (R130,
    R145, R276; log entry 65). -/
def windowEv (k : Acc) (ring : BitVec 2) (need : Need) (va : Word) : Ev :=
  match windowOf va with
  | none => busEv k va
  | some w =>
    let reads := need != .w
    let writes := need == .w || need == .rw
    if (reads && !windowRing w false ring) || (writes && !windowRing w true ring) then ringEv k va
    else busEv k va

/-- Do bytes of a tile store touch the sanctuary (R103)? -/
def inSanctuary (off n : Nat) : Bool := decide (0x3FF00 < off + n)

/-- The place a translated job-space address names (R83). -/
def placeOf (s : State) (ent va : Word) : Place :=
  let off := va.toNat % 2 ^ 18
  match entTgt ent with
  | 0 => .hbm (entPage ent * 2 ^ 18 + off)
  | 1 => .host ((s.hub.hostbase.toNat + entPage ent * 2 ^ 18 + off) % 2 ^ 64)
  | _ => .remote (entNode ent) (entPage ent * 2 ^ 18 + off)

/-- Resolve `n` bytes at an address, all in one sector, for a memory access of an engine in a ring:
    region, translation, sanctuary and permission.  The window of a position without a logical engine has no
    storage behind it (R144), and register windows take no such access. -/
def resolve (e : Nat) (ring : BitVec 2) (k : Acc) (need : Need) (va : Word) (n : Nat) :
    EM Target := do
  match regionOf va with
  | .job =>
    let ent ← translate e ring k need va
    return ⟨placeOf (← get) ent va, !entNs ent⟩
  | .own off =>
    if inSanctuary off n && ring ≠ 0 then raise (ringEv k va)
    return ⟨.tile (e * 2 ^ 18 + off), false⟩
  | .sibling p off =>
    if (logicalOf ((← get).sqr (e / 9)) p).isNone then raise (busEv k va)
    if inSanctuary off n && ring ≠ 0 then raise (ringEv k va)
    return ⟨.tile ((e / 9 * 9 + p) * 2 ^ 18 + off), false⟩
  | _ => raise (windowEv k ring need va)

/-! ### Reading bytes -/

/-- The key of the cache line of a place (R106). -/
def lineKey : Place → Nat
  | .hbm pa => pa / 64
  | .host a => 2 ^ 40 + a / 64
  | .remote n pa => 2 ^ 100 + n.toNat * 2 ^ 40 + pa / 64
  | .tile k => 2 ^ 140 + k / 64

/-- The address of a place within its memory. -/
def Place.addr : Place → Nat
  | .hbm pa => pa
  | .host a => a
  | .remote _ pa => pa
  | .tile k => k

/-- The MASTER code of MEM_UE_LOG for an access (Table 2.14). -/
def Acc.master : Acc → Nat
  | .fetch => 0
  | .sread | .swrite => 2
  | _ => 1

/-- What a status of a host or remote read means for the requester (Table 13.9, R526). -/
def respEv (k : Acc) (va : Word) (st : Byte) : Ev := if st = 4 then ueEv k va else busEv k va

/-- The key of a response that an engine waits for: the sector of the engine address and the bytes that the
    request names, for a remote device answers those alone (R545). -/
def respKey (va : Word) (mask : BitVec 64) : Nat := va.toNat / 64 * 2 ^ 64 + mask.toNat

/-- The line of a host or remote place (R524, R545, R548): the response that has come, or a request
    and a wait for it.  Streams and the scalar stream keep their responses apart. -/
def farLine (e : Nat) (k : Acc) (va : Word) (p : Place) (bytes : BitVec 64) : EM (BitVec 512) := do
  let s ← get
  let mask := match p with | .host _ => BitVec.allOnes 64 | _ => bytes
  let key := respKey va mask
  let x := s.eng e
  match (if k = .sread ∨ k = .swrite then x.vec.resp else x.resp).find? fun q => q.1 == key with
  | some (_, r) => if r.status = 0 then return r.data else raise (respEv k va r.status)
  | none =>
    if s.reqs.any fun r => decide (r.who = .engine e) && !r.write && r.acc == k.code &&
        respKey r.va r.mask == key then hold
    match p with
    | .host a =>
      if !hostOpen s then raise (busEv k va)
      upd (hostRequest (.engine e) false va k.code fun t => .hostRead t (BitVec.ofNat 64 (a / 64 * 64)))
      hold
    | .remote node pa =>
      let st ← liftP (frxRequest (.engine e) false false va k.code node 1 0 (pa / 64 * 64) mask [])
      if st = 0 then hold else raise (busEv k va)
    | _ => hold

/-- The 64 bytes of a line of local HBM, or the event of an uncorrectable error in it. -/
def hbmLine (k : Acc) (va : Word) (pa : Nat) : EM (BitVec 512) := do
  let bad ← liftP (probeHbm k.master pa)
  if bad then raise (ueEv k va)
  return BitVec.ofNat 512 (leNat ((← get).hbm.bytes (pa / 64 * 64) 64))

/-- `n` bytes of a line from a byte offset. -/
def lineBytes (w : BitVec 512) (off n : Nat) : List Byte :=
  (List.range n).map fun i => w.extractLsb' (8 * (off + i)) 8

/-- A line with bytes replaced from a byte offset. -/
def lineWrite (w : BitVec 512) (off : Nat) : List Byte → BitVec 512
  | [] => w
  | b :: bs =>
    lineWrite ((w &&& ~~~((0xFF : BitVec 512) <<< (8 * off))) ||| ((b.setWidth 512) <<< (8 * off)))
      (off + 1) bs

/-- Put a line into a cache of 256 sets of 4 ways. -/
def lineFill (m : SMap (BitVec 512)) (key pick : Nat) (w : BitVec 512) : SMap (BitVec 512) :=
  (evict m pick (fun j => j % 256 == key % 256) 4).put key w

/-- Bytes of a cached job-space target through the data cache or the instruction cache.  A failing read
    allocates no line (R124); the bytes a hit delivers are checked (R125). -/
def cachedBytes (e : Nat) (k : Acc) (va : Word) (p : Place) (n : Nat) : EM (List Byte) := do
  let x ← engM e
  let ins := decide (k = .fetch)
  let array := if ins then 1 else 2
  let key := lineKey p
  let off := p.addr % 64
  match (if ins then x.caches.ic else x.caches.dc).find? fun q => q.1 == key with
  | some (_, w) =>
    if ← liftP (probeCache array e key off n) then raise (ueEv k va)
    return lineBytes w off n
  | none =>
    let w ← match p with
      | .hbm pa => hbmLine k va pa
      | p => farLine e k va p (BitVec.allOnes 64)
    let f ← fresh
    upd (recodeLine array e key)
    updE e fun x => { x with caches :=
      if ins then { x.caches with ic := lineFill x.caches.ic key (Config.freeNat f) w }
      else { x.caches with dc := lineFill x.caches.dc key (Config.freeNat f) w } }
    return lineBytes w off n

/-- The byte-enable mask of `n` bytes from a byte offset of a sector. -/
def maskOf (off n : Nat) : BitVec 64 := BitVec.ofNat 64 ((2 ^ n - 1) <<< off)

/-- `n` bytes of a resolved target, read at its memory. -/
def directBytes (e : Nat) (k : Acc) (va : Word) (p : Place) (n : Nat) : EM (List Byte) := do
  match p with
  | .hbm pa => return lineBytes (← hbmLine k va pa) (pa % 64) n
  | .tile key =>
    let bad ← liftP (probeTile key n)
    if bad then raise (ueEv k va)
    return (← get).tile.bytes key n
  | p => return lineBytes (← farLine e k va p (maskOf (p.addr % 64) n)) (p.addr % 64) n

/-- `n` bytes of a resolved target for a scalar load or a fetch. -/
def readTarget (e : Nat) (k : Acc) (va : Word) (t : Target) (n : Nat) : EM (List Byte) :=
  if t.cached then cachedBytes e k va t.place n else directBytes e k va t.place n

/-! ### Writing bytes -/

/-- The enabled bytes of a write. -/
def enabled (bs : List Byte) : List (Option Byte) := bs.map some

/-- Does a write to a target meet an uncorrectable merge read?  Then the event is raised and no
    byte is written (Table 2.7, R218). -/
def probeTarget (k : Acc) (va : Word) (p : Place) (bs : List (Option Byte)) : EM Unit := do
  match p with
  | .hbm pa =>
    let bad ← liftP (probeWrite k.master pa bs)
    if bad then raise (ueEv k va)
  | .host _ => if !hostOpen (← get) then raise (busEv k va)
  | _ => return ()

/-- The byte-enable mask and the data of enabled bytes from an offset of a sector. -/
def sectorOf (off : Nat) (bs : List (Option Byte)) : BitVec 64 × List Byte :=
  let full := List.replicate off none ++ bs ++ List.replicate (64 - off - bs.length) none
  (BitVec.ofNat 64 (full.foldr (fun b n => 2 * n + (if b.isSome then 1 else 0)) 0),
    full.map fun b => b.getD 0)

/-- Write enabled bytes of an engine at a place whose merge read is good: to memory, or on their way
    to the host or a remote device (R549).  `resv` is the engine whose own reservation a write
    leaves alone: R114 names a write "from any other master", and the engine's write stream counts as the
    engine itself (log entry 65). -/
def writePlace (e : Nat) (k : Acc) (va : Word) (p : Place) (bs : List (Option Byte)) (s : State) :
    State :=
  match p with
  | .hbm pa => writeHbm (some e) pa bs s
  | .tile key => writeTile (some e) key bs s
  | .host a =>
    let (mask, data) := sectorOf (a % 64) bs
    hostRequest (.engine e) true va k.code
      (fun t => .hostWrite t (BitVec.ofNat 64 (a / 64 * 64)) mask (BitVec.ofNat 512 (leNat data))) s
  | .remote node pa =>
    let (mask, data) := sectorOf (pa % 64) bs
    let (st, s1) := frxRequest (.engine e) true false va k.code node 2 0 (pa / 64 * 64) mask data s
    if st = 0 then s1 else deferError e false va k.code s1

/-- A line of the engine's own data cache that a scalar store hits is updated (R108). -/
def updateLine (e : Nat) (p : Place) (bs : List Byte) (s : State) : State :=
  let key := lineKey p
  match (s.eng e).caches.dc.find? fun q => q.1 == key with
  | none => s
  | some (_, w) =>
    let off := p.addr % 64
    let hit (i : Nat) : Bool := decide (off ≤ i ∧ i < off + bs.length)
    { s with flaws := recode 2 e key hit s.flaws }.modEng e fun x => { x with caches := { x.caches with
      dc := x.caches.dc.put key (lineWrite w off bs) } }

/-- A line of the engine's own data cache is invalidated (R108). -/
def dropLine (e : Nat) (p : Place) (s : State) : State :=
  s.modEng e fun x => { x with caches := { x.caches with dc := x.caches.dc.del (lineKey p) } }

/-! ### Split and whole accesses (R214 to R219) -/

/-- The parts of an access of `n` bytes: one, or two where it crosses a sector boundary (R216). -/
def parts (va : Word) (n : Nat) : List (Word × Nat) :=
  let r := 64 - va.toNat % 64
  if n ≤ r then [(va, n)] else [(va, r), (ea48 (va + BitVec.ofNat 64 r), n - r)]

/-- Is an address in the job space or a tile store, where a misaligned access may be split (R215)? -/
def splitRegion (va : Word) : Bool :=
  match regionOf va with
  | .job => true
  | .own _ => true
  | .sibling _ _ => true
  | _ => false

/-- An event of the high part of a split access says so (R266). -/
def markHigh {α : Type} (high : Bool) (m : EM α) : EM α :=
  tryCatch m fun st =>
    match st with
    | .ev x => throw (.ev { x with high := high })
    | .wait => throw .wait

/-- Does an access leave the sibling window of one position for the next?  Each window is a region of its own
    (R217, R436). -/
def leavesWindow (lo hi : Word) : Bool :=
  match regionOf lo, regionOf hi with
  | .sibling p _, .sibling q _ => p != q
  | _, _ => false

/-- Resolve the parts of a scalar access in order, low part first (R217). -/
def resolveParts (e : Nat) (ring : BitVec 2) (k : Acc) (need : Need) :
    Bool → List (Word × Nat) → EM (List (Word × Nat × Target))
  | _, [] => return []
  | high, (va, n) :: ps => do
    let t ← markHigh high (resolve e ring k need va n)
    match ps.find? fun q => leavesWindow va q.1 with
    | some q => raise { busEv k q.1 with high := true }
    | none => pure ()
    let ts ← resolveParts e ring k need true ps
    return (va, n, t) :: ts

/-- What an access of an engine at an address has resolved: what it resolved before while it is under way, and
    else what it resolves now. -/
def resolveOnce (e : Nat) (va : Word) (m : EM (List (Word × Nat × Target))) :
    EM (List (Word × Nat × Target)) := do
  let x ← engM e
  if x.dbg.feed then m
  else if x.mid && (x.way.parts.head?.any fun p => p.1 == va) then return x.way.parts
  else
    let ts ← m
    updE e fun x => { x with way := { parts := ts } }
    return ts

/-- A part of a split access that waits: no event comes between the parts (R219, R255). -/
def waitWhole {α : Type} (e : Nat) (split : Bool) (m : EM α) : EM α :=
  tryCatch m fun st => do
    if split && decide (st = .wait) then updE e fun x => { x with mid := true }
    throw st

/-- The key under which the bytes of a part of a split access are kept, apart from those of responses. -/
def partKey (va : Word) : Nat := 2 ^ 200 + va.toNat

/-- The bytes of a part that other parts follow: read once, and kept while those wait (R219). -/
def keptPart (e : Nat) (va : Word) (n : Nat) (m : EM (List Byte)) : EM (List Byte) := do
  match (← engM e).resp.find? fun q => q.1 == partKey va with
  | some (_, r) => return lineBytes r.data 0 n
  | none =>
    let bs ← m
    updE e fun x => { x with resp := x.resp.put (partKey va) ⟨0, lineWrite 0 0 bs⟩ }
    return bs

/-- The bytes of resolved parts, low part first. -/
def readParts (e : Nat) (k : Acc) : Bool → List (Word × Nat × Target) → EM (List Byte)
  | _, [] => return []
  | high, (va, n, t) :: ts => do
    let read := waitWhole e (high || !ts.isEmpty) (markHigh high (readTarget e k va t n))
    let bs ← if ts.isEmpty then read else keptPart e va n read
    return bs ++ (← readParts e k true ts)

/-- Every merge read of the parts of a store, before any byte is written (R218). -/
def probeParts (k : Acc) : Bool → List (Word × Nat × Target) → List Byte → EM Unit
  | _, [], _ => return ()
  | high, (va, n, t) :: ts, bs => do
    markHigh high (probeTarget k va t.place (enabled (bs.take n)))
    probeParts k true ts (bs.drop n)

/-- The write buffer of R440 holds eight posted stores to the host and to remote devices: a store whose parts
    find no room in it waits. -/
def bufferRoom (e : Nat) (ts : List (Word × Nat × Target)) : EM Unit := do
  let far := (ts.filter fun t => match t.2.2.place with
    | .host _ | .remote _ _ => true
    | _ => false).length
  let out := ((← get).reqs.filter fun r =>
    decide (r.who = .engine e) && r.write && r.acc == Acc.store.code).length
  if far ≠ 0 && decide (8 < out + far) then hold

/-- Write the parts of a store, low part first. -/
def writeParts (e : Nat) (k : Acc) : List (Word × Nat × Target) → List Byte → State → State
  | [], _, s => s
  | (va, n, t) :: ts, bs, s =>
    writeParts e k ts (bs.drop n) (writePlace e k va t.place (enabled (bs.take n)) s)

/-- The lines of the engine's own data cache that the parts of a store hit are updated (R108). -/
def updateParts (e : Nat) : List (Word × Nat × Target) → List Byte → State → State
  | [], _, s => s
  | (_, n, t) :: ts, bs, s =>
    updateParts e ts (bs.drop n) (if t.cached then updateLine e t.place (bs.take n) s else s)

/-! ### Frames and tables (R237, R246, R249) -/

/-- The bytes of a frame or table that lies wholly in the own tile store outside the sanctuary or in
    one job-space page with TGT = 0 and the needed permission: its place, or the event.  Any other region is BUS,
    the device registers too (R249 before R130; log entry 79). -/
def tablePlace (e : Nat) (ring : BitVec 2) (need : Need) (va : Word) (n : Nat) : EM Place := do
  match regionOf va with
  | .own off =>
    if inSanctuary off n then raise (busEv .table va)
    return .tile (e * 2 ^ 18 + off)
  | .job =>
    if va.toNat % 2 ^ 18 + n > 2 ^ 18 then raise (busEv .table va)
    let ent ← translate e ring .table need va
    if entTgt ent ≠ 0 then raise (busEv .table va)
    return placeOf (← get) ent va
  | _ => raise (busEv .table va)

/-- The bytes of a table or frame, sector by sector; `fuel` bounds the sectors. -/
def tableBytes (va : Word) : Nat → Place → Nat → EM (List Byte)
  | 0, _, _ => return []
  | fuel + 1, p, n => do
    if n = 0 then return []
    let m := min n (64 - p.addr % 64)
    match p with
    | .hbm pa =>
      let w ← hbmLine .table va pa
      return lineBytes w (pa % 64) m ++ (← tableBytes va fuel (.hbm (pa + m)) (n - m))
    | .tile key =>
      let bad ← liftP (probeTile key m)
      if bad then raise (ueEv .table va)
      return (← get).tile.bytes key m ++ (← tableBytes va fuel (.tile (key + m)) (n - m))
    | _ => raise (busEv .table va)

/-- Read `n` bytes of a table or frame. -/
def readTable (e : Nat) (ring : BitVec 2) (va : Word) (n : Nat) : EM (List Byte) := do
  let p ← tablePlace e ring .r va n
  tableBytes va 2 p n

/-- The pieces of a write of bytes at a place, cut at sector boundaries; `fuel` bounds them. -/
def pieces : Nat → Nat → List Byte → List (Nat × List Byte)
  | 0, _, _ => []
  | fuel + 1, a, bs =>
    if bs = [] then []
    else
      let m := 64 - a % 64
      (a, bs.take m) :: pieces fuel (a + m) (bs.drop m)

/-- Write a frame at a place: every merge read first, then every byte (R246 step 3). -/
def writeFrame (e : Nat) (va : Word) (p : Place) (bs : List Byte) : EM Unit := do
  match p with
  | .hbm pa =>
    (pieces 3 pa bs).forM fun q => probeTarget .table va (.hbm q.1) (enabled q.2)
    (pieces 3 pa bs).forM fun q => do
      upd (writeHbm (some e) q.1 (enabled q.2))
      upd (updateLine e (.hbm q.1) q.2)
  | .tile key => (pieces 3 key bs).forM fun q => upd (writeTile (some e) q.1 (enabled q.2))
  | _ => raise (busEv .table va)

end Sys2Proof.Machine
end

