-- ==== Sys2Proof/Machine/Queue.lean ====
section
/-! DEFINITION. Chain queues and output buffers of one engine (R383 to R388), the writes of a stream to the
host and to remote devices (R524, R545), and stopping a stream where it stands (R306). -/

namespace Sys2Proof.Machine

/-! ### Bits -/

/-- The bits of bytes, in element order: bit 0 of the first byte first (R275, R384). -/
def bitsOfBytes (bs : List Byte) : List Bool := bs.flatMap fun b => (List.range 8).map b.getLsbD

/-- The bits of a value of `n` bits, lowest first. -/
def bitsOfNat (n v : Nat) : List Bool := (List.range n).map v.testBit

/-- The number that bits stand for, lowest first. -/
def natOfBits : List Bool → Nat
  | [] => 0
  | b :: bs => (if b then 1 else 0) + 2 * natOfBits bs

/-- Bits packed into `n` bytes; missing bits are 0. -/
def bytesOfBits : Nat → List Bool → List Byte
  | 0, _ => []
  | n + 1, bs => BitVec.ofNat 8 (natOfBits (bs.take 8)) :: bytesOfBits n (bs.drop 8)

/-! ### Sources (R386 to R389) -/

/-- What a consumer finds when it takes an element of a queue: nothing yet, a byte that its check
    bits cannot correct, or the bits and the queue after them. -/
inductive Peek
  | wait
  | bad
  | got (bits : List Bool) (q : ChainQueue)

/-- May a consumer take the first byte of the packet at the head (R387)?  `thresh` is CQ_THRESH. -/
def packetReady (thresh : Nat) (strips : List Strip) : Bool :=
  strips.any (fun s => s.eop) || decide (thresh ≤ strips.length)

/-- The bits of a strip that a consumer has not taken. -/
def freshBits (h : Strip) (used : Nat) : List Bool :=
  (bitsOfBytes (h.data.take h.nbytes.toNat)).drop used

/-- Does the consumer of `n` bits from bit `used` of a strip meet a byte that cannot be corrected (R389)? -/
def Strip.failing (h : Strip) (used n : Nat) : Bool :=
  h.flaws.any fun p => p.2.bad && decide (used < 8 * p.1 + 8 ∧ 8 * p.1 < used + n)

/-- The bytes that the consumer of `n` bits from bit `used` of a strip takes corrected, each counted with its
    first bit (R389).  The copy in the queue is not rewritten. -/
def Strip.fixes (h : Strip) (used n : Nat) : Nat :=
  (h.flaws.filter fun p => !p.2.bad && decide (used ≤ 8 * p.1 ∧ 8 * p.1 < used + n)).length

/-- The next `n` bits of a queue, across strips and packets (R386); a strip leaves once all of it is
    used, and a strip without data when it is reached (R388). -/
def takeBits (thresh : Nat) : List Strip → Nat → Bool → Nat → List Bool → Peek
  | [], _, _, _, _ => .wait
  | h :: hs, used, inPacket, n, got =>
    if !inPacket && !packetReady thresh (h :: hs) then .wait
    else
      let left := freshBits h used
      if left.isEmpty then takeBits thresh hs 0 (!h.eop) n got
      else if h.failing used (min n left.length) then .bad
      else if n < left.length then
        .got (got ++ left.take n) { strips := h :: hs, used := used + n, inPacket := true }
      else if n = left.length then
        .got (got ++ left) { strips := hs, used := 0, inPacket := !h.eop }
      else takeBits thresh hs 0 (!h.eop) (n - left.length) (got ++ left)

/-- The next element of `n` bits of a queue. -/
def ChainQueue.peek (q : ChainQueue) (thresh n : Nat) : Peek :=
  takeBits thresh q.strips q.used q.inPacket n []

/-- The strips of a queue from where a consumer stands: a strip without data that it has reached has left
    (R388). -/
def reached (thresh : Nat) : List Strip → Nat → Bool → ChainQueue
  | [], _, inPacket => { strips := [], used := 0, inPacket := inPacket }
  | h :: hs, used, inPacket =>
    if (inPacket || packetReady thresh (h :: hs)) && (freshBits h used).isEmpty then reached thresh hs 0 (!h.eop)
    else { strips := h :: hs, used := used, inPacket := inPacket }

/-- A queue whose consumer waits for its next element. -/
def ChainQueue.reach (q : ChainQueue) (thresh : Nat) : ChainQueue :=
  { reached thresh q.strips q.used q.inPacket with pseq := q.pseq }

/-- The bytes that a consumer took corrected from a queue as it went from one state of it to a later one: each
    is corrected in the data, and counted (R389).  Of a strip that has left it took the NBYTES bytes, no more. -/
def ChainQueue.fixesTo (q r : ChainQueue) : Nat :=
  let gone := q.strips.length - r.strips.length
  let left := (q.strips.take gone).mapIdx fun i h =>
    let from_ := if i = 0 then q.used else 0
    h.fixes from_ (8 * h.nbytes.toNat - from_)
  let from_ := if gone = 0 then q.used else 0
  left.sum + ((r.strips.head?).map fun h => h.fixes from_ (r.used - from_)).getD 0

/-! ### Destinations (R384, R385) -/

/-- A strip of an output with bytes of its buffer. -/
def CqOutput.strip (o : CqOutput) (bs : List Byte) (eop : Bool) : Strip :=
  { data := bs ++ List.replicate (256 - bs.length) 0, nbytes := BitVec.ofNat 9 bs.length, eop := eop,
    pseq := o.pseq }

/-- Bits of an element put into an output; a buffer of 256 bytes is sent, with EOP when the packet
    ends with it. -/
def CqOutput.push (o : CqOutput) (bits : List Bool) (last : Bool) : CqOutput :=
  let buf := o.buf ++ bits
  if last then
    { o with buf := [], opened := false, pseq := o.pseq + 1,
             waiting := some (o.strip (bytesOfBits ((buf.length + 7) / 8) buf) true) }
  else if 2048 ≤ buf.length then
    { o with buf := [], opened := true, waiting := some (o.strip (bytesOfBits 256 buf) false) }
  else { o with buf := buf, opened := true }

/-- An output whose group stops or is held sends its whole bytes (R384). -/
def CqOutput.flush (o : CqOutput) : CqOutput :=
  let n := o.buf.length / 8
  if o.waiting.isSome || n == 0 then o
  else { o with buf := o.buf.drop (8 * n), waiting := some (o.strip (bytesOfBits n o.buf) false) }

/-- An output whose packet is given up: nothing of it is left, and the next one has the next number. -/
def CqOutput.giveUp (o : CqOutput) : CqOutput :=
  if o.opened then { o with buf := [], opened := false, pseq := o.pseq + 1 } else o

/-! ### Writes of streams to the host and to remote devices (R524, R545, R549) -/

/-- The head group of an engine changed. -/
def modHead (f : VGroup → VGroup) (x : Engine) : Engine :=
  { x with vec := { x.vec with q := match x.vec.q with
    | g :: gs => f g :: gs
    | [] => [] } }

/-- The request that has just been sent, marked as the write it carries is (R92, R99). -/
def markSent (w : FarWrite) (s0 s : State) : State :=
  { s with reqs := s.reqs.map fun r =>
      if r.tag = s0.nextTag ∧ s.nextTag ≠ s0.nextTag then
        { r with old := r.old || w.old, shot := r.shot || w.shot } else r }

/-- The writes of a stream to one sector of the host or of a remote device leave as one request: a full-line
    write when all 64 bytes are enabled, else one with their mask (R524, R545).  One that finds no way any more
    ends as a deferred error (R549). -/
def sendFar (e : Nat) (w : FarWrite) (s : State) : State :=
  match w.place with
  | .host a =>
    if hostOpen s then
      markSent w s (hostRequest (.engine e) true w.va Acc.swrite.code
        (fun t => .hostWrite t (BitVec.ofNat 64 (a / 64 * 64)) w.mask w.data) s)
    else deferBoth e true w.va Acc.swrite.code s
  | .remote node pa =>
    let (st, s1) := frxRequest (.engine e) true false w.va Acc.swrite.code node 2 0 (pa / 64 * 64) w.mask
      (leBytes 64 w.data.toNat) s
    if st = 0 then markSent w s s1 else deferBoth e false w.va Acc.swrite.code s1
  | _ => s

/-- Every such write of the head group leaves. -/
def flushFar (e : Nat) (s : State) : State :=
  match (s.eng e).vec.q with
  | [] => s
  | g :: _ => g.far.foldl (fun s p => sendFar e p.2 s) (s.modEng e (modHead fun g => { g with far := [] }))

/-- Bytes of one element in a sector of a host or remote place, taken up by the write of their sector. -/
def FarWrite.take (w : FarWrite) (off : Nat) (bs : List Byte) (old : Bool) : FarWrite :=
  { w with mask := w.mask ||| maskOf off bs.length, data := lineWrite w.data off bs, old := w.old || old }

/-- Bytes of an element of the stream at position `pos` of the head group go to a host or remote place.  A UNIT
    stream (`join`) gathers the bytes of a sector, and sends them when it leaves the sector or has written it
    all; every other stream sends each element.  A fed instruction sends nothing before its end (R637). -/
def gatherFar (e pos : Nat) (join : Bool) (va : Word) (p : Place) (bs : List Byte) (s : State) : State :=
  match (s.eng e).vec.q with
  | [] => s
  | g :: _ =>
    let feed := (s.eng e).dbg.feed
    let key := if feed then 16 * lineKey p + pos else pos
    let old := g.pages.any fun r => r.old && r.page == va.toNat / 2 ^ 18
    let new : FarWrite := { place := p, va := va, mask := 0, data := 0 }
    let put (w : FarWrite) (s : State) : State :=
      let w := w.take (p.addr % 64) bs old
      let whole := !join || w.mask == BitVec.allOnes 64
      if whole && !feed then sendFar e w (s.modEng e (modHead fun g => { g with far := g.far.del key }))
      else s.modEng e (modHead fun g => { g with far := g.far.put key w })
    match g.far.find? fun q => q.1 == key with
    | some (_, w) => if lineKey w.place = lineKey p then put w s else put new (sendFar e w s)
    | none => put new s

/-! ### Stopping in place (R306) -/

/-- The head group of an engine with its pages dropped: it translates afresh when it goes on (R98). -/
def dropHeadPages (q : List VGroup) : List VGroup :=
  match q with
  | g :: gs => { g with pages := [] } :: gs
  | [] => []

/-- The head group of an engine as it is held: what it has read and not used is read again when it goes on
    (R305). -/
def restHead (q : List VGroup) : List VGroup :=
  match q with
  | g :: gs => { g with lines := [], members := g.members.map fun m => { m with base := none } } :: gs
  | [] => []

/-- The group of an engine stops where it stands: VPROG shows the stop point and its outputs send
    what they hold.  What its element has read stays read (R301). -/
def stopGroup (e : Nat) (s : State) : State :=
  let x := s.eng e
  match x.vec.q with
  | [] => s
  | g :: _ =>
    if x.trap.vheld || x.vec.stopped then s
    else flushFar e (s.setEng e { x with
      vec := { x.vec with stopped := true, vprog := BitVec.ofNat 24 g.prog,
                          q := dropHeadPages x.vec.q }
      outs := x.outs.map CqOutput.flush })

/-- May the head group of an engine stop now (R306): at a strip boundary, or where it waits on an empty
    source queue or a full output? -/
def canStop (x : Engine) : Bool :=
  match x.vec.q with
  | [] => true
  | g :: _ => x.vec.starved || g.prog % g.strip == 0 || decide (g.vl ≤ g.prog)

end Sys2Proof.Machine
end

