-- ==== Sys2Proof/Machine/ChainOps.lean ====
section
/-! DEFINITION. Chains across engines: the wiring in force, freeze, resumption and abort (R392 to
R406, R554 to R556). -/

namespace Sys2Proof.Machine

/-! ### Wiring in force -/

/-- The endpoint code of an output of a logical engine (Table 9.2): the listed wire, or the rule of
    R428 under the opening; 0 when unwired. -/
def wireCode (b : Board) (leng out : Nat) : BitVec 16 :=
  if b.opening then
    BitVec.ofNat 16 (0x8000 + (leng % 8 + out + 1) % 8 * 64 + out * 16)
  else
    match b.wires.find? fun w => w.leng == leng && w.out == out with
    | some w => w.code
    | none => 0

/-- The neighbour square of an endpoint code's DIR (R6, Table 9.2): the same square, north, south,
    east or west; rank `sq / 8`, file `sq % 8`. -/
def dirSquare (sq dir : Nat) : Option Nat :=
  match dir with
  | 0 => some sq
  | 1 => if sq / 8 < 7 then some (sq + 8) else none
  | 2 => if 0 < sq / 8 then some (sq - 8) else none
  | 3 => if sq % 8 < 7 then some (sq + 1) else none
  | 4 => if 0 < sq % 8 then some (sq - 1) else none
  | _ => none

/-- Where an output leads. -/
inductive WireEnd
  | queue (leng q thresh : Nat)
  | tunnel (t : Nat)
  deriving DecidableEq, Repr

/-- Decode an endpoint code of an output of a logical engine (Table 9.2). -/
def decodeWire (leng : Nat) (code : BitVec 16) : Option WireEnd :=
  if !code.getLsbD 15 then none
  else
    let dir := (code.extractLsb' 12 3).toNat
    if dir = 5 then some (.tunnel (code.extractLsb' 3 6).toNat)
    else (dirSquare (leng / 8) dir).map fun sq =>
      .queue (sq * 8 + (code.extractLsb' 6 3).toNat) (code.extractLsb' 4 2).toNat
        ((code.extractLsb' 9 3).toNat + 1)

/-- The logical engine whose wires a logical engine has: on a partner square, its primary twin's
    (R411: the wires within the primary square are mirrored). -/
def mirrorOf (s : State) (leng : Nat) : Nat :=
  primaryOf s (leng / 8) * 8 + leng % 8

/-- Where output `n` of a logical engine leads.  On a partner square a wire within the square leads
    within it, and a pair exit leads nowhere: the primary performs it (R411, R412). -/
def wireOf (s : State) (leng n : Nat) : Option WireEnd :=
  let m := mirrorOf s leng
  match decodeWire m (wireCode s.board m n) with
  | some (.queue d q t) =>
    if m = leng then some (.queue d q t)
    else if d / 8 = m / 8 then some (.queue (leng / 8 * 8 + d % 8) q t)
    else none
  | some (.tunnel t) => if m = leng then some (.tunnel t) else none
  | none => none

/-- Does an output of a logical engine leave a paired square (R411)? -/
def pairExit (s : State) (leng n : Nat) : Bool :=
  (s.sqr (leng / 8)).paired &&
    match decodeWire (mirrorOf s leng) (wireCode s.board (mirrorOf s leng) n) with
    | some (.queue d _ _) => decide (d / 8 ≠ mirrorOf s leng / 8)
    | some (.tunnel _) => true
    | none => false

/-- The threshold of queue `q` of a logical engine: CQ_THRESH of the wire or the inbound tunnel that
    feeds it; `none` when nothing does (R387, R392). -/
def threshOf (s : State) (leng q : Nat) : Option Nat :=
  let m := mirrorOf s leng
  if s.board.opening then some 1
  else
    match s.board.wires.find? fun w =>
        match decodeWire w.leng w.code with
        | some (.queue d i _) => d == m && i == q
        | _ => false with
    | some w => some ((w.code.extractLsb' 9 3).toNat + 1)
    | none =>
      (s.board.tunnels.find? fun t => t.inbound &&
        (t.dest.extractLsb' 0 6).toNat * 8 + (t.dest.extractLsb' 6 3).toNat == m &&
        (t.dest.extractLsb' 9 2).toNat == q).map fun t => (t.dest.extractLsb' 11 3).toNat + 1

/-- The logical engine and the output that feed a queue of a logical engine, by its wires. -/
def feederOf (s : State) (l q : Nat) : Option (Nat × Nat) :=
  let m := mirrorOf s l
  let own := if s.board.opening then some (m / 8 * 8 + (m % 8 + 15 - q) % 8, q)
    else (s.board.wires.find? fun w =>
      match decodeWire w.leng w.code with
      | some (.queue d i _) => d == m && i == q
      | _ => false).map fun w => (w.leng, w.out)
  own.map fun f => if f.1 / 8 = m / 8 then (l / 8 * 8 + f.1 % 8, f.2) else f

/-- A tunnel of the applied structure, by number. -/
def tunnelOf (s : State) (t : Nat) : Option Tunnel := s.board.tunnels.find? fun x => x.num == t

/-- The chain of a logical engine (R395, R396, R428). -/
def chainOf (s : State) (leng : Nat) : Option Nat :=
  if s.board.opening then some (leng / 8)
  else
    let c := SMap.get (0xFF : Byte) s.board.chids leng
    if c = 0xFF then none else some c.toNat

/-- The inbound tunnel that feeds a queue of a logical engine. -/
def inboundOf (s : State) (l q : Nat) : Option Tunnel :=
  let m := mirrorOf s l
  s.board.tunnels.find? fun t => t.inbound &&
    (t.dest.extractLsb' 0 6).toNat * 8 + (t.dest.extractLsb' 6 3).toNat == m &&
    (t.dest.extractLsb' 9 2).toNat == q

/-- The logical engine of an inbound tunnel's queue, and the queue. -/
def inboundEnd (x : Tunnel) : Nat × Nat :=
  ((x.dest.extractLsb' 0 6).toNat * 8 + (x.dest.extractLsb' 6 3).toNat,
    (x.dest.extractLsb' 9 2).toNat)

/-- The members of a chain, lowest logical engine number first. -/
def membersOf (s : State) (c : Nat) : List Nat :=
  if s.board.opening then (List.range 8).map fun n => c * 8 + n
  else (List.range 512).filter fun n => chainOf s n == some c

/-- The home rank controller of a chain, less 1 (R397). -/
def chainHome (s : State) (c : Nat) : Nat := ((membersOf s c).headD 0) / 64

/-- The tunnels of a chain: outbound tunnels its members' wires feed, inbound tunnels that feed
    its members' queues. -/
def chainTunnels (s : State) (c : Nat) : List Nat :=
  (s.board.tunnels.filter fun t =>
    if t.inbound then
      chainOf s ((t.dest.extractLsb' 0 6).toNat * 8 + (t.dest.extractLsb' 6 3).toNat) == some c
    else s.board.wires.any fun w =>
      (match decodeWire w.leng w.code with | some (.tunnel i) => i == t.num | _ => false) &&
        chainOf s w.leng == some c).map Tunnel.num

/-! ### Chain state -/

/-- The state of a chain. -/
def chainSt (s : State) (c : Nat) : Chain := SMap.get {} s.chains c

/-- The state with one chain changed. -/
def modChain (c : Nat) (f : Chain → Chain) (s : State) : State :=
  { s with chains := s.chains.put c (f (chainSt s c)) }

/-- The SQ_CHST byte of a logical engine (Table 9.15): CAUSE, HELD, STATE. -/
def chstOf (s : State) (n : Nat) : Byte :=
  match chainOf s n with
  | none => 0
  | some _ => SMap.get (1 : Byte) s.chst n

/-- STATE, HELD and CAUSE packed as in Table 9.15. -/
def chstByte (st : Nat) (held : Bool) (cause : BitVec 4) : Byte :=
  BitVec.ofNat 8 (st + (if held then 8 else 0) + 16 * cause.toNat)

/-- The SQ_CHST byte of a logical engine written. -/
def setChst (n : Nat) (b : Byte) (s : State) : State := { s with chst := s.chst.put n b }

/-- STATE of a logical engine changed; HELD kept when `keep`, CAUSE always kept. -/
def setChState (n st : Nat) (keep : Bool) (s : State) : State :=
  let b := SMap.get (1 : Byte) s.chst n
  setChst n (chstByte st (keep && b.getLsbD 3) (b.extractLsb' 4 4)) s

/-- Is the chain of an engine frozen (R400)? -/
def chainFrozen (s : State) (e : Nat) : Bool :=
  match (lengOf s e).bind (chainOf s) with
  | some c => (chainSt s c).frozen
  | none => false

/-- Is the chain of a logical engine frozen, or has a member that is ABORTED (R400, R406)? -/
def chainStopped (s : State) (n : Nat) : Bool :=
  match chainOf s n with
  | none => false
  | some c => (chainSt s c).frozen || !(chainSt s c).aborted.isEmpty

/-- The link an outbound packet of a tunnel takes (R542): its chosen link while that is up, else the
    lowest link of its route that is up; 8 for the part's own node. -/
def tunnelLink (s : State) (x : Tunnel) : Option Nat :=
  if x.node = s.frx.node then some 8
  else
    let ent := routeOf s x.node
    let ups := if ent.getLsbD 15 then upLinks s ent else []
    match s.frx.tunLink.find? fun p => p.1 == x.num with
    | some (_, i) => if ups.contains i then some i else ups.head?
    | none => ups.head?

/-- A packet of a tunnel leaves on the tunnel's link, if it has one that is up (R542). -/
def tunnelSend (x : Tunnel) (cls : Nat) (p : FrxPacket) (s : State) : Bool × State :=
  match tunnelLink s x with
  | none => (false, s)
  | some i =>
    let lane := (routeOf s x.node).extractLsb' 10 2 == 1
    let q := { p with route := routeByte cls lane 0 }
    let s1 := if i = 8 then s.emit (.frx 8 q) else sendOn i q s
    (true, { s1 with frx := { s1.frx with tunLink := s1.frx.tunLink.put x.num i } })

/-- A notice leaves through a tunnel.  One that finds no link up is discarded and counted (R543). -/
def noticeSend (x : Tunnel) (p : FrxPacket) (s : State) : State :=
  match tunnelSend x 3 p s with
  | (true, s1) => s1
  | (false, s1) => { s1 with frx := { s1.frx with drop := satInc s1.frx.drop } }

/-- Has a tunnel to wait with a notice: for the acknowledgement of its strips, or for a notice before (R554)? -/
def noticeWaits (s : State) (t : Nat) : Bool := tunnelBusy s t || s.frx.notices.any fun n => n.1 == t

/-- A notice through a tunnel (R554, R556): kind 1 FREEZE, 2 READY, 3 ABORT. -/
def sendNotice (c kind t : Nat) (s : State) : State :=
  match tunnelOf s t with
  | none => s
  | some x =>
    let p := packet s x.node 8 0 (BitVec.ofNat 32 (c + kind * 256 + t * 65536)) 0 []
    if noticeWaits s t then { s with frx := { s.frx with notices := s.frx.notices ++ [(t, p)] } }
    else noticeSend x p s

/-- The notices that have waited leave, each once the strips before it on its tunnel are acknowledged (R554). -/
def flushNotices (s : State) : State :=
  s.frx.notices.foldl (fun s n =>
    if noticeWaits s n.1 then { s with frx := { s.frx with notices := s.frx.notices ++ [n] } }
    else match tunnelOf s n.1 with
      | some x => noticeSend x n.2 s
      | none => s) { s with frx := { s.frx with notices := [] } }

/-- The chain of a tunnel: that of the queue it feeds, or of the wire that feeds it. -/
def tunnelChain (s : State) (x : Tunnel) : Option Nat :=
  if x.inbound then chainOf s (inboundEnd x).1
  else
    (s.board.wires.find? fun w =>
      match decodeWire w.leng w.code with
      | some (.tunnel t) => t == x.num
      | _ => false).bind fun w => chainOf s w.leng

/-- An ABORT through every tunnel of the part: a device reset aborts every chain (R403). -/
def abortNotices (s : State) : State :=
  s.board.tunnels.foldl (fun s x => match tunnelChain s x with
    | some c => sendNotice c 3 x.num s
    | none => s) s

/-- A notice through every tunnel of a chain. -/
def sendNotices (c kind : Nat) (s : State) : State :=
  (chainTunnels s c).foldl (fun s t => sendNotice c kind t s) s

/-- Does an engine run a job (R390)?  One that has executed JEND still does until its job ends. -/
def inJob (x : Engine) : Bool := x.run == .running || x.run == .ended

/-- The engine of a logical number that runs a job. -/
def runningEng (s : State) (n : Nat) : Option Nat :=
  match engOf s n with
  | some e => if (s.eng e).run = .running then some e else none
  | none => none

/-- The engine of a logical number whose job has not ended: it runs, or has stopped at JEND (R405, R407). -/
def jobEng (s : State) (n : Nat) : Option Nat := (engOf s n).filter fun e => inJob (s.eng e)

/-- The context of a chain: that of its final member's job, else that of the lowest member with a job (R405;
    log entry 68). -/
def chainCtx (s : State) (c : Nat) : Option Byte :=
  let ms := membersOf s c
  ((s.board.finals.filter (ms.contains ·) ++ ms).findSome? (jobEng s)).map fun e => (s.eng e).ctx

/-- READY on the tunnels that may have it (R555): when every local member is marked, on each tunnel
    once READY has come on every other tunnel of the chain. -/
def sendReady (c : Nat) (s : State) : State :=
  let ch := chainSt s c
  let ts := chainTunnels s c
  if ch.frozen && (membersOf s c).all (fun n => n ∈ ch.marked) then
    ts.foldl (fun s t =>
      let ch := chainSt s c
      if t ∉ ch.readyOut && ts.all (fun u => u = t ∨ u ∈ ch.readyIn) then
        sendNotice c 2 t (modChain c (fun ch => { ch with readyOut := t :: ch.readyOut }) s)
      else s) s
  else s

/-- A frozen chain resumes when every local member is marked and READY has come on every tunnel of
    it (R402, R555). -/
def tryResume (c : Nat) (s0 : State) : State :=
  let s := sendReady c s0
  let ch := chainSt s c
  if ch.frozen && (membersOf s c).all (fun n => n ∈ ch.marked) &&
      (chainTunnels s c).all (fun t => t ∈ ch.readyIn) then
    (membersOf s c).foldl (fun s n => if n ∈ ch.aborted then s else setChState n 1 false s)
      (modChain c (fun ch => { aborted := ch.aborted }) s)
  else s

/-- Mark a member ready (R401).  One that is ABORTED still reports that (R406). -/
def markMember (c n : Nat) (s : State) : State :=
  let s1 := modChain c (fun ch => { ch with marked := insertNat n ch.marked }) s
  if n ∈ (chainSt s c).aborted then s1 else setChState n 3 true s1

/-- The group of an engine stops, at a point where R306 lets it.  A member of a frozen chain that no held
    event keeps back is marked by that (R401). -/
def groupStops (e : Nat) (s : State) : State :=
  let s1 := stopGroup e s
  match lengOf s e with
  | none => s1
  | some n =>
    match chainOf s n with
    | none => s1
    | some c =>
      let ch := chainSt s1 c
      if ch.frozen && decide (n ∉ ch.held ∧ n ∉ ch.marked) then tryResume c (markMember c n s1) else s1

/-- A member of a chain as the chain freezes (R400, R401): with no group to stop, or one that has stopped or is
    still held since an earlier freeze, it is marked at once, else when its group has stopped. -/
def freezeMember (c : Nat) (cause : BitVec 4) (s : State) (n : Nat) : State :=
  let s1 := if n ∈ (chainSt s c).aborted then s else setChst n (chstByte 2 false cause) s
  match jobEng s n with
  | none => markMember c n s1
  | some e =>
    let x := s.eng e
    if x.vec.q.isEmpty || x.vec.stopped || x.trap.vheld then markMember c n s1
    else if canStop x then markMember c n (stopGroup e s1)
    else s1

/-- Freeze a chain (R399 to R401): every member stops, those that no held event keeps back are marked as
    they stop, and FREEZE goes through every tunnel.  A chain already frozen only records the new held
    member.  One that is ABORTED still reports that (R406). -/
def freezeChain (c : Nat) (cause : BitVec 4) (holder : Option Nat) (s : State) : State :=
  let ch := chainSt s c
  let s1 :=
    if ch.frozen then s
    else
      let s := modChain c (fun _ => { frozen := true, cause := cause, aborted := ch.aborted }) s
      sendNotices c 1 ((membersOf s c).foldl (freezeMember c cause) s)
  let s2 := match holder with
    | none => s1
    | some n =>
      setChst n (chstByte (if n ∈ ch.aborted then 4 else 2) true (chainSt s1 c).cause)
        (modChain c (fun ch => { ch with marked := ch.marked.filter (· ≠ n),
                                         held := insertNat n ch.held }) s1)
  tryResume c s2

/-! ### Loss of strips (R391, R404) -/

/-- The strips and output buffers of an engine that a flush discards. -/
def lostStrips (x : Engine) : Nat :=
  (x.cq.toList.map fun q => q.strips.length).sum +
    (x.outs.toList.map fun o => o.wire.length + (if o.waiting.isSome then 1 else 0) +
      (if o.buf.isEmpty then 0 else 1)).sum

/-- The strips on the wire to a queue of an engine have no queue to land in: they are discarded with it, and
    counted for the sending square (R603). -/
def flushWire (l : Nat) (s : State) (q : Nat) : State :=
  match (feederOf s l q).bind fun f => (engOf s f.1).map fun src => (src, f.2) with
  | none => s
  | some (src, o) =>
    let out := (s.eng src).outs.toList.getD o {}
    let s1 := s.modEng src fun x => { x with outs := x.outs.setIfInBounds o { out with wire := [] } }
    s1.modSq (src / 9) fun q => { q with cqlost := satAdd q.cqlost out.wire.length }

/-- Strip credits return to the outbound tunnel that feeds an inbound one, as strips leave its queue (R552).  How
    they reach another part is not stated: the log of what left has them (log entry 76). -/
def returnStrips (x : Tunnel) (n : Nat) (s : State) : State :=
  if n = 0 then s
  else if x.node = s.frx.node then
    let t := x.rtun.toNat
    { s with frx := { s.frx with used := s.frx.used.put t (SMap.get 0 s.frx.used t - n) } }
  else s.emit (.stripCredit x.node x.rtun n)

/-- Strips have left queue `q` of a logical engine, whose partner's copies hold no credit. -/
def leaveQueue (e q n : Nat) (s : State) : State :=
  match (lengOf s e).bind fun l => inboundOf s l q with
  | some x => if isPartner s (e / 9) then s else returnStrips x n s
  | none => s

/-- Discard the queues and output buffers of an engine, with the strips on the wires to its queues, and count
    them in SQ_CQLOST. -/
def flushEngine (e : Nat) (s0 : State) : State :=
  let s := match lengOf s0 e with
    | some l => (List.range 4).foldl (flushWire l) s0
    | none => s0
  let x := s.eng e
  let s2 := (List.range 4).foldl (fun s q => leaveQueue e q (x.cq.toList.getD q {}).strips.length s) s
  let s1 := s2.setEng e { x with cq := Vector.replicate 4 {}, outs := Vector.replicate 4 {} }
  s1.modSq (e / 9) fun q => { q with cqlost := satAdd q.cqlost (lostStrips x) }

/-- Discard the strips that wait at the inbound tunnels of a chain, and count them for the square of
    each tunnel's queue. -/
def flushTunnels (c : Nat) (s : State) : State :=
  (chainTunnels s c).foldl (fun s t =>
    match tunnelOf s t with
    | none => s
    | some x =>
      let n := (SMap.get [] s.frx.inWait t).length
      let s0 := returnStrips x n s
      let s1 := { s0 with frx := { s0.frx with inWait := s0.frx.inWait.del t } }
      s1.modSq (x.dest.extractLsb' 0 6).toNat fun q => { q with cqlost := satAdd q.cqlost n }) s

/-! ### Abort (R403 to R406) -/

/-- F of R404: the elements the final write port has committed for the group current on the final
    member; 0 without a final marker, when the final member is reset, or when it runs no group. -/
def finalCount (s : State) (c : Nat) (reset : List Nat) : Nat :=
  match s.board.finals.find? fun n => chainOf s n == some c with
  | none => 0
  | some n =>
    match engOf s n with
    | none => 0
    | some e =>
      if e ∈ reset then 0
      else match (s.eng e).vec.q with
        | g :: _ => g.prog
        | [] => 0

/-- A member takes CHABORT (R405): as a held event when a group is in its VSU, else at its next
    boundary.  VPROG becomes F.  A held event that still waits for its boundary is replaced: R256 and R405 give
    no order for the two (log entry 68). -/
def takeAbort (f e n : Nat) (c : Nat) (s0 : State) : State :=
  let s := flushFar e s0
  let x := s.eng e
  let ev : Ev := { code := 0x12 }
  let v : VEvent := match x.vec.q with
    | g :: _ => ⟨ev, (g.members.headD { word := 0, pc := 0 }).pc, g.mode, g.ring, true⟩
    | [] => ⟨ev, 0, x.mode, x.trap.ring, false⟩
  let s1 := s.setEng e { x with
    vec := { x.vec with held := some v, vprog := BitVec.ofNat 24 f, stopped := false,
                        resp := [], twin := none, q := restHead (dropHeadPages x.vec.q) }
    trap := { x.trap with vheld := x.trap.vheld || v.vvalid } }
  setChState n 4 false (modChain c (fun ch => { ch with aborted := insertNat n ch.aborted }) s1)

/-- Abort a chain (R403 to R406).  `reset` names the engines being reset, `spared` those that take nothing: the
    ones that cause the abort.  `ctx` is the chain's context where the cause gives it.  An ABORT notice goes
    through every tunnel of the chain, the one that an ABORT came from among them (log entry 68). -/
def abortChain (c : Nat) (reset spared : List Nat) (ctx : Option Byte) (s : State) : State :=
  let f := finalCount s c reset
  let ms := membersOf s c
  let own := ctx.or (chainCtx s c)
  let s1 := ms.foldl (fun s n =>
    match engOf s n with | some e => flushEngine e s | none => s) s
  let s2 := modChain c (fun ch => { aborted := ch.aborted }) (flushTunnels c s1)
  let s3 := ms.foldl (fun s n =>
    match jobEng s n with
    | some e =>
      if e ∈ spared ∨ own ≠ some (s.eng e).ctx then
        if n ∈ (chainSt s c).aborted then s else setChState n 1 false s
      else takeAbort f e n c s
    | none => setChState n 1 false s) s2
  sendNotices c 3 s3

/-- A member leaves ABORTED (R406). -/
def leaveAborted (c n : Nat) (s : State) : State :=
  setChState n 1 false (modChain c (fun ch => { ch with aborted := ch.aborted.filter (· ≠ n) }) s)

/-- Hold an engine's vector work with an event (R259): VHELD, VPROG at the element, and the freeze
    of the engine's chain with its cause (Table 9.15). -/
def holdVector (e : Nat) (ev : Ev) (prog : Nat) (cause : BitVec 4) (s0 : State) : State :=
  let s := flushFar e s0
  let x := s.eng e
  match x.vec.q with
  | [] => s
  | g :: gs =>
    let v : VEvent := ⟨ev, (g.members.headD { word := 0, pc := 0 }).pc, g.mode, g.ring, true⟩
    let s1 := s.setEng e { x with
      vec := { x.vec with held := some v, vprog := BitVec.ofNat 24 prog, stopped := false,
                          resp := [], twin := none,
                          q := restHead ({ g with prog := prog, pages := [] } :: gs) }
      outs := x.outs.map CqOutput.flush
      trap := { x.trap with vheld := true } }
    match lengOf s e with
    | none => s1
    | some n =>
      match chainOf s n with
      | none => s1
      | some c => freezeChain c cause (some n) s1

end Sys2Proof.Machine
end

