-- ==== Sys2Proof/Machine/JobOps.lean ====
section
/-! DEFINITION. Jobs as the engines, the squares and the resets see them: how a job ends, and the
reset of an engine (R64 to R70, R240, R253, R589 to R592). -/

namespace Sys2Proof.Machine

/-- A job by its identity. -/
def jobOf (s : State) (id : Nat) : Option Job := s.jobs.find? fun j => j.id == id

/-- The state with one job changed. -/
def modJob (id : Nat) (f : Job → Job) (s : State) : State :=
  { s with jobs := s.jobs.map fun j => if j.id = id then f j else j }

/-- The physical engines that hold a part of a job. -/
def jobEngines (s : State) (id : Nat) : List Nat :=
  (s.engines.filter fun p => p.2.job = id ∧ p.2.run ≠ .idle).map Prod.fst

/-- The squares that run a job. -/
def jobSquares (s : State) (id : Nat) : List Nat :=
  (s.squares.filter fun p => p.2.job = id).map Prod.fst

/-- An engine stops at a boundary and its vector work is discarded (R68): no further write of the
    job commits. -/
def haltWork (e : Nat) (s0 : State) : State :=
  let s := flushFar e s0
  let x := s.eng e
  flushEngine e (s.setEng e { x with
    run := if x.run = .running ∨ x.run = .stopping then .stopped else x.run
    vec := { x.vec with q := [], gpend := [], held := none, imprecise := [], stopped := false,
                        starved := false, resp := [], twin := none }
    trap := { x.trap with vheld := false }
    resv := none, resp := [], mid := false, way := {}, twin := none })

/-- An engine whose job ends, or that is reset, is no longer ABORTED (R406). -/
def endAborted (e : Nat) (s : State) : State :=
  match lengOf s e with
  | none => s
  | some n =>
    match chainOf s n with
    | none => s
    | some c => if n ∈ (chainSt s c).aborted then leaveAborted c n s else s

/-- The chains that have a member among these engines. -/
def chainsOf (s : State) (es : List Nat) : List Nat :=
  (es.filterMap fun e => (lengOf s e).bind (chainOf s)).eraseDups

/-- Does an engine whose job ends still stand within a strip that has begun, or has it an atomic access on its
    way (R68, R117)?  One on a square that has FAILED goes no further (R42). -/
def stopsLate (s : State) (e : Nat) : Bool :=
  let x := s.eng e
  x.run == .running && (s.sqr (e / 9)).st != .failed && (x.mid || (!x.trap.vheld && !canStop x))

/-- An engine of a job that ends: at a boundary it stops, within a strip or an atomic access at the next one, and
    nothing behind that runs (R68). -/
def stopWork (e : Nat) (s : State) : State :=
  if stopsLate s e then
    s.modEng e fun x => { x with
      run := .stopping
      vec := { x.vec with q := x.vec.q.take 1, gpend := [], held := none, imprecise := [] } }
  else haltWork e s

/-- End a job before its engines did (R68): the first event to stop an engine of the job decides STATUS
    (R533).  The chains its engines belong to are aborted (R403) and its engines stop.  `reset` names the
    engines that a reset ends the job for (R404). -/
def endJobBy (reset : List Nat) (id : Nat) (status detail : Byte) (faultEng : BitVec 16) (cause : Byte)
    (s : State) : State :=
  match jobOf s id with
  | none => s
  | some j =>
    if j.stage = .ended then s
    else
      let es := jobEngines s id
      let s1 := modJob id (fun j => { j with stage := .ended, status := status, detail := detail,
                                             faultEng := faultEng, cause := cause,
                                             endTime := s.mg.timebase }) s
      let s2 := (chainsOf s es).foldl (fun s c => abortChain c reset es (some j.ctx) s) s1
      es.foldl (fun s e => endAborted e (if e ∈ reset then haltWork e s else stopWork e s)) s2

/-- End a job before its engines did (R68), for no reset. -/
def endJob (id : Nat) (status detail : Byte) (faultEng : BitVec 16) (cause : Byte) (s : State) : State :=
  endJobBy [] id status detail faultEng cause s

/-- The logical engine number an event reports, 0xFFFF when the position carries none. -/
def faultNum (s : State) (e : Nat) : BitVec 16 :=
  match lengOf s e with
  | some n => BitVec.ofNat 16 (primaryOf s (n / 8) * 8 + n % 8)
  | none => 0xFFFF

/-- Is the tender of a square frozen by debug or paused by a quiesce (R49, R642)? -/
def tenderPaused (s : State) (sq : Nat) : Bool :=
  decide ((s.sqr sq).st = .quiescing ∨ (s.sqr sq).st = .quiesced) ||
    (List.range 9).any fun p =>
      let d := (s.eng (sq * 9 + p)).dbg
      d.halted && d.frz.getLsbD 2

/-- A busy channel pauses at a committed unit (R49); that ends its use of the page it holds (R98). -/
def pauseTender (t : Tender) : Tender := if t.busy then { t with paused := true, page := none } else t

/-- The channels of a square go on once neither a quiesce nor a debug freeze holds them (R49). -/
def resumeTenders (sq : Nat) (s : State) : State :=
  if tenderPaused s sq then s
  else s.modSq sq fun q => { q with tnd := q.tnd.map fun t => { t with paused := false } }

/-- An error response to the debug master is counted (R604, R646). -/
def loseAccess (s : State) : State := { s with mg := { s.mg with xlost := satInc s.mg.xlost } }

/-- The reset of a core takes a debug access in flight to it: the access ends with an error response (R603,
    R604, R646).  `k` names the access port and its target, as `portKey` does. -/
def loseFlight (k : Nat) (s : State) : State :=
  match s.ik.flights.find? fun p => p.1 == k && !p.2.done with
  | none => s
  | some _ => loseAccess { s with ik := { s.ik with err := true, code := 3, flights := s.ik.flights.del k } }

/-- The reset of the architected state of one engine and its VSU (R589): every register at its reset
    value.  A halt ends (R641), with it the freeze of the tender, and what was on its way for the engine or for a
    debug access to it is discarded (R603, R605). -/
def clearEngine (e : Nat) (s0 : State) : State :=
  let s := loseFlight (9 + 16 * (e % 9) + 256 * (e / 9)) s0
  let x := s.eng e
  let d := x.dbg
  let s1 := endAborted e (flushEngine e s)
  let s2 := s1.setEng e { dbg := { d with halted := false, haltReq := false, step := false,
                                          rst := d.rst || d.halted, bites := 0 } }
  let s3 := { s2 with reqs := s2.reqs.map fun (r : Req) =>
    if r.who = .engine e then { r with who := .gone } else r }
  resumeTenders (e / 9) s3

/-- The engines an engine reset covers: the engine and its twin in a pair (R590). -/
def resetScope (s : State) (e : Nat) : List Nat :=
  match twinOf s e with
  | some t => [e, t]
  | none => [e]

/-- Reset engines, and end jobs for it: the chains they belong to are aborted, each once, and the state of the
    engines is lost (R591, R403). -/
def resetWithJobs (jobs es : List Nat) (status detail : Byte) (fault : BitVec 16) (s : State) : State :=
  let ending := jobs.filter fun j => match jobOf s j with
    | some j => decide (j.stage ≠ .ended)
    | none => false
  let done := ending.flatMap fun j => chainsOf s (jobEngines s j)
  let s1 := ending.foldl (fun s j => endJobBy es j status detail fault 0 s) s
  let s2 := ((chainsOf s es).filter fun c => !done.contains c).foldl
    (fun s c => abortChain c es es none s) s1
  es.foldl (fun s e => clearEngine e s) s2

/-- Reset engines: the jobs they run end with them (R591). -/
def resetEngines (es : List Nat) (status detail : Byte) (fault : BitVec 16) (s : State) : State :=
  let jobs := ((es.filter fun e => (s.eng e).run != .idle).map fun e => (s.eng e).job).eraseDups
  resetWithJobs jobs es status detail fault s

/-- An engine reset for a triple fault or a watchdog (R241, R253): the health log, the job with
    STATUS 3 (R591), and the engine. -/
def engineReset (e : Nat) (triple : Bool) (s : State) : State :=
  let s1 := if triple then
      health 3 (BitVec.ofNat 16 (e / 9 * 16 + e % 9)) [] s else s
  resetEngines (resetScope s1 e) 3 0 (faultNum s1 e) s1

/-- A fail-stop (R240): the engine stops at the instruction with EC_CAUSE and EC_FADDR set, and its
    job ends with STATUS 2 and the cause code. -/
def failStop (e : Nat) (cause faddr : Word) (s : State) : State :=
  let s1 := s.modEng e fun x =>
    { x with run := .stopped, trap := { x.trap with cause := cause, faddr := faddr } }
  endJob (s.eng e).job 2 0 (faultNum s e) (cause.setWidth 8) s1

end Sys2Proof.Machine
end

