-- ==== Sys2Proof/Machine/Trap.lean ====
section
/-! DEFINITION. Taking an exception and returning from one (R239 to R266): sync registers, frames,
exception entry, double and triple faults, GRET's frame, and the events of a boundary. -/

namespace Sys2Proof.Machine

/-! ### Sync registers (R146) -/

/-- Is a control-block offset a sync register (Table 3.4)?  FCTL is one for its DN field only. -/
def isSync (off : Nat) : Bool :=
  off == 0x008 || off == 0x0A0 || off == 0x0A8 || off == 0x180 || off == 0x218 || off == 0x240 ||
    off == 0x250 || (decide (0x100 ≤ off ∧ off < 0x180) && off % 0x20 != 0x18)

/-- EC_MODE takes a new value.  Setting VSU_HOLD wakes a gated VSU at once (R182). -/
def setMode (x : Engine) (m : BitVec 5) : Engine :=
  let v := x.vsu
  let v1 := if !m.getLsbD 4 then v
    else
      let v := { v with idle := 0 }
      match v.st with
      | .gated => { v with st := .waking, wakes := satInc v.wakes }
      | .gating => { v with wakeReq := true, wakes := if v.wakeReq then v.wakes else satInc v.wakes }
      | _ => v
  { x with mode := m, vsu := v1 }

/-- Is the VSU waking, or to wake once gating has finished (R181, R182)? -/
def VsuRegs.inWake (v : VsuRegs) : Bool := decide (v.st = .waking) || v.wakeReq

/-- The writable bits of a loop address register (Table 3.12). -/
def loopAddr (v : Word) : Word := v &&& 0xFFFFFFFFFFFC#64

/-- A sync register takes a value: the writable fields of its table. -/
def applySync (x : Engine) (off : Nat) (v : Word) : Engine :=
  if off = 0x008 then setMode x (v.setWidth 5)
  else if off = 0x0A0 then { x with trap := { x.trap with vecbase := v &&& 0x8000FFFFFFFFFE00#64 } }
  else if off = 0x0A8 then { x with trap := { x.trap with gatebase := v &&& 0x8FFFFFFFFFFFFFF8#64 } }
  else if off = 0x180 then { x with loops := { x.loops with st := (v &&& 0xFF0F).setWidth 16 } }
  else if off = 0x218 then { x with vec := { x.vec with gs := v.setWidth 2 } }
  else if off = 0x240 then { x with fctl := (x.fctl &&& ~~~0x10#64) ||| (v &&& 0x10) }
  else if off = 0x250 then { x with dctl := v &&& 0x171F }
  else
    let n := (off - 0x100) / 0x20 % 4
    match off % 0x20 with
    | 0x00 => { x with loops := { x.loops with lps := x.loops.lps.setIfInBounds n (loopAddr v) } }
    | 0x08 => { x with loops := { x.loops with lpe := x.loops.lpe.setIfInBounds n (loopAddr v) } }
    | 0x10 => { x with loops := { x.loops with lpc := x.loops.lpc.setIfInBounds n (v.setWidth 32) } }
    | _ => x

/-- Every pending sync-register write takes effect (R146). -/
def applyAllSync (x : Engine) : Engine :=
  { x.sync.foldl (fun x p => applySync x p.1 p.2) x with sync := [] }

/-! ### Loop state (R168 to R174, R184) -/

/-- How many levels count as active: those from 0 up to the lowest inactive one (R184).  When LOOP fills a gap
    below a level that is still marked, that level counts as active again: the spec is silent (log entry
    65). -/
def activeLevels (st : BitVec 16) : Nat :=
  if !st.getLsbD 0 then 0 else if !st.getLsbD 1 then 1 else if !st.getLsbD 2 then 2
  else if !st.getLsbD 3 then 3 else 4

/-- EC_LOOPST with a store still pending applied (R174). -/
def pendingLoopSt (x : Engine) : BitVec 16 :=
  match x.sync.find? fun p => p.1 == 0x180 with
  | some (_, v) => (v &&& 0xFF0F).setWidth 16
  | none => x.loops.st

/-- The innermost active loop level (R170, R184). -/
def innermost (l : LoopRegs) : Option (Fin 4) :=
  match activeLevels l.st with
  | 0 => none
  | 1 => some 0
  | 2 => some 1
  | 3 => some 2
  | _ => some 3

/-- The ring that started a loop level (Table 3.13). -/
def loopRing (st : BitVec 16) (n : Fin 4) : BitVec 2 := st.extractLsb' (8 + 2 * n.val) 2

/-- Is an address the end of the innermost active level? -/
def atLoopEnd (l : LoopRegs) (pc : Word) : Bool :=
  match innermost l with
  | some n => l.lpe[n] == pc
  | none => false

/-- The loop registers after the instruction at `pc` commits in a ring, and where the stream goes on
    when that is a loop's start (R170). -/
def loopTest (l : LoopRegs) (ring : BitVec 2) (pc : Word) : LoopRegs × Option Word :=
  match innermost l with
  | none => (l, none)
  | some n =>
    if l.lpe[n] = pc ∧ loopRing l.st n = ring then
      if 2 ≤ (l.lpc[n]).toNat then ({ l with lpc := l.lpc.set n (l.lpc[n] - 1) }, some l.lps[n])
      else ({ l with lpc := l.lpc.set n 0, st := l.st &&& ~~~((1 : BitVec 16) <<< n.val) }, none)
    else (l, none)

/-- The engine after the instruction at `pc` has committed and the stream goes on behind it: from a delay slot
    where its branch leads, else at the next address or a loop's start. -/
def stepOver (x : Engine) (pc : Word) : Engine :=
  match x.slot with
  | some sl => { x with slot := none, pc := if sl.taken then sl.tgt else ea48 (sl.bpc + 8) }
  | none =>
    let (l, back) := loopTest x.loops x.trap.ring pc
    { x with loops := l, pc := back.getD (ea48 (pc + 4)) }

/-! ### Status, cause and frames (Tables 5.5, 5.10, 5.11) -/

/-- EC_STATUS as a word. -/
def statusWord (t : TrapRegs) : Word :=
  flag 9 t.vheld ||| flag 8 t.dbl ||| flag 4 t.ie ||| place 0 2 t.ring.toNat

/-- EC_CAUSE of an event, with the mode and ring in force for it. -/
def causeWord (v : Ev) (mode : BitVec 5) (ring : BitVec 2) : Word :=
  place 37 2 ring.toNat ||| place 32 5 mode.toNat ||| place 24 4 v.sd.toNat |||
    place 16 8 v.detail.toNat ||| flag 15 v.high ||| place 12 3 v.check.toNat |||
    place 8 3 v.acc.toNat ||| place 0 8 v.code.toNat

/-- A frame (Table 5.5). -/
structure Frame64 where
  pc : Word
  status : Word
  cause : Word
  faddr : Word
  vprog : Word
  vpc : Word
  flags : Word
  btgt : Word
  deriving DecidableEq, Repr

/-- The 64 bytes of a frame. -/
def Frame64.bytes (f : Frame64) : List Byte :=
  [f.pc, f.status, f.cause, f.faddr, f.vprog, f.vpc, f.flags, f.btgt].flatMap fun w =>
    leBytes 8 w.toNat

/-- A frame read back from 64 bytes. -/
def Frame64.ofBytes (bs : List Byte) : Frame64 :=
  let w (i : Nat) : Word := BitVec.ofNat 64 (fieldAt bs (8 * i) 8)
  ⟨w 0, w 1, w 2, w 3, w 4, w 5, w 6, w 7⟩

/-- The frame of an event, built from the state before it (R244, R263): the frame PC, the held
    vector instruction when it is a held event, and the slot it interrupted. -/
def frameOf (x : Engine) (pc : Word) (vpc : Option Word) (slot : Option Slot) : Frame64 :=
  { pc := match slot with | some sl => sl.bpc | none => pc
    status := statusWord x.trap
    cause := x.trap.cause
    faddr := x.trap.faddr
    vprog := x.vec.vprog.setWidth 64
    vpc := vpc.getD 0
    flags := (pendingLoopSt x).setWidth 64 ||| flag 16 slot.isSome |||
      flag 17 (match slot with | some sl => sl.taken | none => false) ||| flag 18 vpc.isSome
    btgt := match slot with | some sl => sl.tgt | none => 0 }

/-! ### Exception entry (R246) -/

/-- The class of a cause in EC_TRAPEN (Table 5.2). -/
def trapClass (code : Byte) : Option Nat :=
  match code.toNat with
  | 0x04 => some 0
  | 0x01 => some 1
  | 0x06 => some 2
  | 0x07 | 0x08 | 0x09 => some 3
  | 0x0A | 0x0B => some 4
  | 0x0C => some 5
  | 0x11 => some 6
  | 0x12 => some 7
  | 0x13 => some 8
  | 0x14 => some 9
  | _ => none

/-- Is the ring of an entry forced to 0 (R246 step 2)? -/
def ringZero (code : Byte) : Bool := code == 0x00 || code == 0x14 || code == 0x20 || code == 0x21

/-- The effects of step 4 of R246 that do not depend on the stack: the loop levels, the reservation
    and the pending sync-register writes. -/
def entryEffects (x : Engine) : Engine :=
  let y := applyAllSync x
  { y with loops := { y.loops with st := y.loops.st &&& 0xFFF0 }, resv := none, slot := none,
           fresh := false, mid := false, way := {}, barred := false, wfi := false }

/-- Vector entry `code`: the handler's PC and ring, or the failing table address (R245, R246). -/
def readVector (e : Nat) (code : Byte) (s : State) : (Option (Word × BitVec 2) × Word) × State :=
  let a := ea48 ((s.eng e).trap.vecbase &&& 0xFFFFFFFFFE00#64) + BitVec.ofNat 64 (8 * code.toNat)
  match (readTable e 0 (ea48 a) 8).run s with
  | .ok bs s' =>
    let w := BitVec.ofNat 64 (leNat bs)
    if w.getLsbD 63 then ((some (w &&& 0xFFFFFFFFFFFC#64, w.setWidth 2), ea48 a), s')
    else ((none, ea48 a), s')
  | .error _ s' => ((none, ea48 a), s')

/-- Push a frame for ring `t` (R246 step 3): the new stack pointer, or the failing address. -/
def pushFrame (e : Nat) (t : BitVec 2) (f : Frame64) (s : State) : (Bool × BitVec 48) × State :=
  let a := (s.eng e).stk[t.toNat] - 64
  if a &&& 15 ≠ 0 then ((false, a), s)
  else
    let va : Word := a.setWidth 64
    let m : EM Unit := do
      let p ← tablePlace e t .w va 64
      writeFrame e va p f.bytes
    match m.run s with
    | .ok _ s' => ((true, a), s')
    | .error _ s' => ((false, a), s')

/-- A double fault (R252, R253): the frame, EC_CAUSE and EC_FADDR of the original event go to the
    sanctuary, and vector entry 0 is taken; a second one, or no vector entry 0, resets the
    engine. -/
def doubleFault (e : Nat) (f : Frame64) (orig : Byte) (mode : BitVec 5) (ring : BitVec 2)
    (oc of_ : Word) (fail : Word) (s : State) : State :=
  if (s.eng e).trap.dbl then engineReset e true s
  else
    let key := e * 2 ^ 18 + 0x3FF00
    let s0 := writeTile (some e) key (enabled (f.bytes ++ leBytes 8 oc.toNat ++ leBytes 8 of_.toNat)) s
    match readVector e 0 s0 with
    | ((none, _), s1) => engineReset e true s1
    | ((some (pc, _), _), s1) =>
      let ev : Ev := { code := 0, acc := 7, detail := orig, faddr := fail }
      s1.modEng e fun x =>
        let y := entryEffects x
        { y with pc := pc,
                 trap := { y.trap with dbl := true, ring := 0, ie := false,
                                       cause := causeWord ev mode ring, faddr := fail } }

/-- Exception and interrupt entry (R246) for an event with its frame. -/
def enterException (e : Nat) (v : Ev) (mode : BitVec 5) (ring : BitVec 2) (f : Frame64)
    (s : State) : State :=
  let cause := causeWord v mode ring
  match readVector e v.code s with
  | ((none, a), s1) => doubleFault e f v.code mode ring cause v.faddr a s1
  | ((some (pc, r), _), s1) =>
    let cur := (s1.eng e).trap.ring
    let t : BitVec 2 := if ringZero v.code then 0 else if r < cur then r else cur
    match pushFrame e t f s1 with
    | ((false, a), s2) => doubleFault e f v.code mode ring cause v.faddr (a.setWidth 64) s2
    | ((true, a), s2) =>
      s2.modEng e fun x =>
        let y := entryEffects x
        { y with pc := pc,
                 stk := y.stk.set t.toNat a,
                 trap := { y.trap with ring := t, ie := if t = 0 then false else y.trap.ie,
                                       cause := cause, faddr := v.faddr } }

/-- An event takes its exception, or the alternative behaviour of its class (R239 to R241). -/
def takeEvent (e : Nat) (v : Ev) (mode : BitVec 5) (ring : BitVec 2) (f : Frame64) (s : State) :
    State :=
  let t := (s.eng e).trap
  let off := match trapClass v.code with
    | some k => !t.trapen.getLsbD k
    | none => false
  if off && v.code == 0x14 then engineReset e false s
  else if off || !t.vecbase.getLsbD 63 then failStop e (causeWord v mode ring) v.faddr s
  else enterException e v mode ring f s

/-- A fault of the instruction at the boundary: the frame PC is the instruction, or the branch when
    it stands in a delay slot (Table 5.3, R263). -/
def takeFault (e : Nat) (v : Ev) (s : State) : State :=
  let x := s.eng e
  takeEvent e v x.mode x.trap.ring (frameOf x x.pc none x.slot) s

/-! ### Trace and halts -/

/-- A packet enters the trace buffer at WPTR (R650). -/
def enterTrace (k : Ik) (p : TracePkt) : Ik :=
  if k.full then k
  else
    let last := k.wptr = 0x7FFF
    { k with trace := k.trace.put k.wptr.toNat p,
             wptr := if last && k.stopfull then k.wptr else k.wptr + 1,
             full := last && k.stopfull,
             wrap := k.wrap || (last && !k.stopfull) }

/-- As many as `n` packets of a square leave its queue for the trace buffer, the oldest first (R649). -/
def drainTrace (n sq : Nat) (s : State) : State :=
  match (s.sqr sq).traceQ with
  | [] => s
  | p :: ps =>
    let q := p :: ps
    ({ s with ik := (q.take n).foldl enterTrace s.ik }).modSq sq fun x => { x with traceQ := q.drop n }

/-- A packet takes its place in the queue of its square, or finds four there and is dropped; the next that is
    accepted carries LOST (R649).  How many have left before it is timing, and a free value (log entry 29). -/
def squarePacket (sq : Nat) (p : TracePkt) (s : State) : State :=
  let s1 := drainTrace (Config.freeNat s.free) sq { s with free := s.free + 1 }
  s1.modSq sq fun q =>
    if 4 ≤ q.traceQ.length then { q with traceLost := true }
    else { q with traceQ := q.traceQ ++ [{ p with lost := q.traceLost }], traceLost := false }

/-- A halt or resume packet when HALTEV is 1 (R650). -/
def haltPacket (e : Nat) (kind chan : Byte) (s : State) : State :=
  let x := s.eng e
  if s.ik.haltev then
    squarePacket (e / 9)
      { time := s.mg.timebase, src := BitVec.ofNat 16 (e / 9 * 16 + e % 9), kind := kind,
        chan := chan, ctx := x.ctx, lost := false, ring := x.trap.ring, data := x.pc } s
  else s

/-- A WFI that has waited completes (R229). -/
def wfiCommit (x : Engine) : Engine :=
  { stepOver { x with count := (x.count.set 0 (x.count[0] + 1)).set 1 (x.count[1] + 1) } x.pc with
    resp := [], twin := none, fresh := false, mid := false, way := {}, barred := false, wfi := false }

/-- May an event other than a fault be taken here (R255, R291)?  None comes between the parts of a split access,
    nor between an atomic or compared write that has been sent and its instruction. -/
def boundaryOpen (x : Engine) : Bool :=
  x.slot.isNone && !x.fresh && !x.mid && !x.vsu.inWake && x.vec.gpend.isEmpty

/-- May an engine halt where it stands (R632): at a boundary, or because its stream has stopped for good? -/
def mayHalt (x : Engine) : Bool := (x.run != .running && x.run != .stopping) || boundaryOpen x

/-- One engine halts (R632 to R635): a WFI that waits completes (R229), its VSU stops in place where R306 lets
    it, and its reservation is cleared. -/
def haltOne (reason : BitVec 3) (e : Nat) (s0 : State) : State :=
  let s1 := if (s0.eng e).wfi then s0.modEng e wfiCommit else s0
  let s2 := if canStop (s1.eng e) then groupStops e s1 else s1
  haltPacket e 2 (reason.setWidth 8) (s2.modEng e fun x => { x with
    resv := none,
    dbg := { x.dbg with halted := true, haltReq := false, step := false, reason := reason } })

/-- An engine halts at a boundary, and its twin at the same time or at its own next boundary (R632, R640).  After
    a step each has its own (R636, R640).  R640 names a halt request alone: for a BRK the twin halts too, with the
    same REASON (log entry 65). -/
def haltEngine (e : Nat) (reason : BitVec 3) (s : State) : State :=
  let s1 := haltOne reason e s
  match if reason = 3 then none else twinOf s e with
  | none => s1
  | some t =>
    if (s1.eng t).dbg.halted then s1
    else if mayHalt (s1.eng t) then haltOne reason t s1
    else s1.modEng t fun x => { x with dbg := { x.dbg with haltReq := true } }

/-! ### Events of a boundary (Table 5.7) -/

/-- A boundary event that is ready on an engine. -/
inductive Boundary
  | halt
  | watchdog
  | vector (v : VEvent)
  | varith (v : VEvent)
  | interrupt (code : Byte)
  deriving DecidableEq, Repr

/-- Is an interrupt enabled and pending (R254), TND before SOFT? -/
def readyInterrupt (t : TrapRegs) : Option Byte :=
  let p := t.ipend &&& t.ien
  if t.ie && !t.dbl then
    if p.getLsbD 0 then some 0x20 else if p.getLsbD 1 then some 0x21 else none
  else none

/-- The event taken at a boundary before the instruction there, in the order of Table 5.7; a halt
    comes before every other (R632). -/
def boundaryEvent (x : Engine) : Option Boundary :=
  if !boundaryOpen x then none
  else if x.dbg.haltReq then some .halt
  else if x.wd.ready then some .watchdog
  else match x.vec.held with
    | some v => some (.vector v)
    | none => match x.vec.imprecise with
      | v :: _ => some (.varith v)
      | [] => (readyInterrupt x.trap).map .interrupt

/-- The instruction at the boundary is left for an event: what it waits for is discarded when it comes, and
    a write it has posted for its twin is withdrawn. -/
def leaveInst (e : Nat) (s : State) : State :=
  let s1 := s.modEng e fun x => { x with resp := [], twin := none, way := {} }
  { s1 with reqs := s1.reqs.map fun r =>
      if r.who = .engine e ∧ !r.write ∧ r.acc ≠ Acc.sread.code ∧ r.acc ≠ Acc.swrite.code then { r with who := .gone }
      else r }

/-- Take a boundary event of an engine. -/
def takeBoundary (e : Nat) (b : Boundary) (s0 : State) : State :=
  let s := leaveInst e s0
  let x := s.eng e
  match b with
  | .halt => haltEngine e 1 s
  | .watchdog =>
    let s1 := s.modEng e fun x => { x with wd := { x.wd with ready := false } }
    if x.wd.second then engineReset e false s1
    else takeEvent e { code := 0x14 } x.mode x.trap.ring (frameOf x x.pc none none) s1
  | .vector v =>
    let s1 := s.modEng e fun x => { x with vec := { x.vec with held := none } }
    takeEvent e v.ev v.mode v.ring
      (frameOf x x.pc (if v.vvalid then some v.vpc else none) none) s1
  | .varith v =>
    let s1 := s.modEng e fun x => { x with vec := { x.vec with imprecise := x.vec.imprecise.drop 1 } }
    takeEvent e v.ev v.mode v.ring (frameOf x x.pc none none) s1
  | .interrupt code =>
    takeEvent e { code := code } x.mode x.trap.ring (frameOf x x.pc none none) s

end Sys2Proof.Machine
end

