-- ==== Sys2Proof/Machine/MapOps.lean ====
section
/-! DEFINITION. The translation map's commands, rebuild and castling (R84 to R99). -/

namespace Sys2Proof.Machine

/-- The number of a copy of the map command registers whose commands are checked: the logical engine number,
    or 512 for the host map port; `none` for a position that carries no logical engine (R87, R527), and for
    the steward, whose commands skip the checks (R88).  An engine of a partner square shares the copy of its twin
    (log entry 78). -/
def copyNum (s : State) : MapPort → Option Nat
  | .engine e => (lengOf s e.val).map fun n => primaryOf s (n / 8) * 8 + n % 8
  | .host => some 512
  | .steward => none

/-- The copy of a port: the steward, which sees the same registers (R130), has number 513 (log entry 67). -/
def portCopy (s : State) (p : MapPort) : Option Nat :=
  match p with
  | .steward => some 513
  | p => copyNum s p

/-- The partition under whose rights a copy's commands run. -/
def copyPart (s : State) (p : MapPort) : Option Partition :=
  match p with
  | .engine e => sqPart s (e.val / 9)
  | .host => partOf s (s.mapCopy 512).part.toNat
  | .steward => none

/-- Is a context one of a partition's, or the shared one (Table 2.3)? -/
def ctxOrShared (p : Partition) (c : Byte) : Bool := p.hasCtx c || c == 0xFF

/-- The condition-2 test of a current entry: V = 0, or its CTX is the writer's. -/
def currentOk (p : Partition) (ent : Word) : Bool := !entV ent || ctxOrShared p (entCtx ent)

/-- Does the partition hold a Frarix tunnel? -/
def hasTunnel (s : State) (p : Partition) : Bool := s.board.tunnels.any fun t => t.part == p.num

/-- The first failed of conditions 2 to 4 of Table 2.3 for a write of an entry over the given
    current entries; 0 when all hold. -/
def writeCode (s : State) (p : Partition) (ent : Word) (cur : List Word) : BitVec 4 :=
  if (entV ent && !ctxOrShared p (entCtx ent)) || !cur.all (currentOk p) then 2
  else if entV ent && entTgt ent == 0 &&
      !(p.hasFrame (entPage ent) && decide (entPage ent ≤ 1572863)) then 3
  else if entV ent && (entTgt ent == 3 || (entTgt ent == 2 && !hasTunnel s p)) then 4
  else 0

/-- The live and shadow entries of a page written (R90): both copies at once, with fresh check
    bits, and COLLIDE when a busy rebuild covers the page (R95). -/
def writeEntry (page : Nat) (ent : Word) (s : State) : State :=
  let h := s.hub
  let rb := h.rb
  let hit := rb.busy &&
    decide (rb.runFirst.toNat ≤ page ∧ page < rb.runFirst.toNat + rb.runCount.toNat)
  recodeLine 5 0 page (recodeLine 4 0 page
    { s with hub := { h with live := SMap.set 0 h.live page ent, shadow := SMap.set 0 h.shadow page ent,
                             rb := { rb with collide := rb.collide || hit } } })

/-- A map command's own read of an entry, array 4 of the live copy and 5 of the shadow copy (R120, R125,
    R126): an uncorrectable error in it is a detection, and what the command reads is then a free value
    (log entry 63). -/
def readEntry (array page : Nat) (s : State) : Word × State :=
  match probeMap array page s with
  | (true, s1) => (Config.freeWord s1.free, { s1 with free := s1.free + 1 })
  | (false, s1) => (if array = 4 then liveEntry s page else shadowEntry s page, s1)

/-- The effect of a command on a copy that has passed its checks (R87, R90 to R92). -/
def mapEffect (n op : Nat) (s : State) : State :=
  let m := s.mapCopy n
  let page := m.idx.toNat
  let s1 := if op = 1 ∨ op = 5 then writeEntry page m.data s else s
  if op = 2 ∨ op = 3 then
    let (ent, s2) := readEntry (op + 2) page s1
    s2.modCopy n fun m => { m with data := ent }
  else if op = 4 ∨ op = 5 then
    let s2 := s1.modCopy n fun m => { m with busy := true }
    { s2 with hub := { s2.hub with shootBusy := true } }
  else s1

/-- CODE of a copy set. -/
def setCode (n : Nat) (c : BitVec 4) (s : State) : State := s.modCopy n fun m => { m with code := c }

/-- A command of MAP_CMD or HMAP_CMD (R87 to R92, R527): the checks of Table 2.3 in its order, then
    the command.  OP 0, 6 and 7 do nothing. -/
def mapCommand (p : MapPort) (op : Nat) (s : State) : State :=
  match copyNum s p with
  | none => s
  | some n =>
    let m := s.mapCopy n
    let page := m.idx.toNat
    if m.busy then setCode n 7 s
    else if op = 0 ∨ 5 < op then s
    else
      match copyPart s p with
      | none => setCode n 1 s
      | some q =>
        if !q.hasPage page then setCode n 1 s
        else
          if op = 1 ∨ op = 5 then
            let (live, s1) := readEntry 4 page s
            let (shadow, s2) := readEntry 5 page s1
            let c := writeCode s2 q m.data [live, shadow]
            if c ≠ 0 then setCode n c s2 else mapEffect n op (setCode n 0 s2)
          else mapEffect n op (setCode n 0 s)

/-- A command that the steward writes to MAP_CMD: it skips the checks (R88). -/
def stewardCommand (op : Nat) (s : State) : State :=
  if (s.mapCopy 513).busy then setCode 513 7 s
  else if op = 0 ∨ 5 < op then s
  else mapEffect 513 op (setCode 513 0 s)

/-- A write under way that the entry of a page translated, when a SHOOT names the page (R92). -/
def shootFar (page : Nat) (w : FarWrite) : FarWrite :=
  { w with shot := w.shot || decide (w.va.toNat / 2 ^ 18 = page) }

/-- A scalar access under way, likewise. -/
def shootWay (page : Nat) (w : Way) : Way :=
  { w with shot := w.shot || w.parts.any fun p => decide (p.1.toNat / 2 ^ 18 = page) }

/-- A group's current pages without one page; what it has under way under the page is noted (R92). -/
def dropGroupPage (page : Nat) (g : VGroup) : VGroup :=
  { g with pages := g.pages.filter fun r => r.page ≠ page
           far := g.far.map fun p => (p.1, shootFar page p.2) }

/-- An engine without any cached copy of a page's entry. -/
def dropEnginePage (page : Nat) (x : Engine) : Engine :=
  { x with caches := { x.caches with tlb := x.caches.tlb.del page },
           vec := { x.vec with q := x.vec.q.map (dropGroupPage page) },
           way := shootWay page x.way }

/-- A current page unless it is the given page. -/
def dropRef (page : Nat) (r : Option PageRef) : Option PageRef :=
  r.filter fun p => p.page ≠ page

/-- A square without any cached copy of a page's entry. -/
def dropSquarePage (page : Nat) (q : Square) : Square :=
  { q with tnd := q.tnd.map fun t =>
      { t with page := dropRef page t.page } }

/-- An outstanding access that the entry of a page translated, when a SHOOT names the page (R92). -/
def shootReq (page : Nat) (r : Req) : Req :=
  { r with shot := r.shot || decide (r.va.toNat / 2 ^ 18 = page) }

/-- Every cached copy of a page's entry, in every engine and tender channel, is gone (R91); the accesses
    under it that are still on their way are noted (R92). -/
def invalidatePage (page : Nat) (s : State) : State :=
  { s with engines := s.engines.map fun p => (p.1, dropEnginePage page p.2),
           squares := s.squares.map fun p => (p.1, dropSquarePage page p.2),
           reqs := s.reqs.map (shootReq page) }

/-- The invalidation of a SHOOT reaches every cache and CMD_BUSY returns to 0 (R87, R91). -/
def shootComplete (p : MapPort) (s : State) : State :=
  match portCopy s p with
  | none => s
  | some n =>
    let m := s.mapCopy n
    if m.busy then
      (invalidatePage m.idx.toNat s).modCopy n fun m => { m with busy := false }
    else s

/-- Has an engine an access under way, not yet sent, that such marks name: a scalar access between its parts, or a
    write of a stream? -/
def underWay (way : Way → Bool) (far : FarWrite → Bool) (s : State) : Bool :=
  s.engines.any fun p => (p.2.mid && way p.2.way) || p.2.vec.q.any fun g => g.far.any fun w => far w.2

/-- SHOOT_BUSY returns to 0 once no SHOOT is on its way to the caches, and no access under an entry that one
    named is outstanding (R92). -/
def shootDrain (s : State) : State :=
  if (s.hub.copies.any fun p => p.2.busy) || s.reqs.any Req.shot || underWay Way.shot FarWrite.shot s then s
  else { s with hub := { s.hub with shootBusy := false } }

/-! ### Castling (R96 to R99) -/

/-- Does the partition hold the map-master role (R84)? -/
def isMaster (s : State) (p : Partition) : Bool := s.board.mapMaster.toNat == p.num.toNat

/-- The map-master partition. -/
def masterPart (s : State) : Option Partition :=
  if s.board.mapMaster = 0xFF then none else partOf s s.board.mapMaster.toNat

/-- The translations of a group at a castle boundary (R98): its current pages stay as old-epoch entries. -/
def castleGroup (g : VGroup) : VGroup :=
  let far := g.far.map fun (p : Nat × FarWrite) => (p.1, { p.2 with old := true })
  { g with pages := g.pages.map fun r => { r with old := true }, far := far }

/-- The translations of an engine at a castle boundary (R98): the translation cache drops its entries, what a
    running stream or an access under way goes on with is of the old epoch. -/
def castleEngine (x : Engine) : Engine :=
  { x with caches := { x.caches with tlb := [] },
           vec := { x.vec with q := x.vec.q.map castleGroup },
           way := { x.way with old := true } }

/-- The translation of a tender channel at a castle boundary (R98): a running channel keeps its current page,
    one that is paused is interrupted and has none. -/
def castleTender (t : Tender) : Tender :=
  if t.busy then { t with page := t.page.map fun r => { r with old := true } } else { t with page := none }

/-- The errors of the map copies after the copies have swapped. -/
def swapFlaw (x : ChipFlaw) : ChipFlaw :=
  { x with array := if x.array = 4 then 5 else if x.array = 5 then 4 else x.array }

/-- The live and shadow copies swap at one boundary (R96, R98); what was translated before it and is still
    on its way belongs to the old epoch (R99). -/
def swapCopies (s : State) : State :=
  let h := s.hub
  { s with
    hub := { h with live := h.shadow, shadow := h.live, epoch := h.epoch + 1, fence := false }
    flaws := { s.flaws with chip := s.flaws.chip.map swapFlaw }
    reqs := s.reqs.map fun r => { r with old := r.old || decide (r.va.toNat < 2 ^ 39) }
    engines := s.engines.map fun p => (p.1, castleEngine p.2)
    squares := s.squares.map fun p => (p.1, { p.2 with tnd := p.2.tnd.map castleTender }) }

/-- The old-epoch translations of one group. -/
def oldInGroup (g : VGroup) : Nat := (g.pages.filter fun r => r.old).length

/-- The old-epoch translations of one channel. -/
def oldInTender (t : Tender) : Nat := (t.page.toList.filter fun r => r.old).length

/-- MAP_STAT.OLDREF (R99): the old-epoch translations still held. -/
def oldRefs (s : State) : Nat :=
  (s.engines.map fun p => (p.2.vec.q.map oldInGroup).sum).sum +
    (s.squares.map fun p => (p.2.tnd.toList.map oldInTender).sum).sum

/-- A castle request (R88, R96).  The steward's request skips the checks. -/
def castleRequest (w : Writer) (s : State) : State :=
  match w with
  | .engine e =>
    match copyNum s (.engine e), sqPart s (e.val / 9) with
    | some n, some p =>
      if !isMaster s p then setCode n 5 s
      else if s.hub.rb.busy || !s.hub.fence then setCode n 6 s
      else setCode n 0 (swapCopies s)
    | some n, none => setCode n 5 s
    | none, _ => s
  | .steward => swapCopies s
  | .host => s
  | .hostDecoder => s
  | .hostConfig => s
  | .hostDoorbell _ => s

/-- CASTLE_FENCE returns to 1 when no old-epoch translation is held and no access under one is outstanding
    (R99). -/
def fenceRestore (s : State) : State :=
  if oldRefs s = 0 ∧ s.reqs.any Req.old = false ∧ underWay Way.old FarWrite.old s = false then
    { s with hub := { s.hub with fence := true } }
  else s

/-! ### Rebuild (R93 to R95) -/

/-- The rebuild registers changed. -/
def modRb (f : Rebuild → Rebuild) (s : State) : State :=
  { s with hub := { s.hub with rb := f s.hub.rb } }

/-- A rebuild starts for a partition: range check, then source check, then entries (R93, R94).  It runs over
    the source and the range as they stand at GO: what a write of MAP_RB_SRC or MAP_RB_RANGE does to a
    running rebuild the spec leaves open, and here it does nothing (log entry 61). -/
def rebuildStart (p : Partition) (s : State) : State :=
  let r := s.hub.rb
  let clear : Rebuild := { r with done := false, err := false, collide := false, code := 0,
                                  refused := 0, next := 0, part := p.num,
                                  runSrc := r.src, runFirst := r.first, runCount := r.count }
  let first := r.first.toNat
  let cnt := r.count.toNat
  let inRange := decide (p.pgFirst ≤ first ∧ first + cnt ≤ p.pgFirst + p.pgCount)
  let inShare := decide (p.hbFirst * 2 ^ 18 ≤ r.src.toNat ∧
    r.src.toNat + 8 * cnt ≤ (p.hbFirst + p.hbCount) * 2 ^ 18)
  if cnt = 0 then modRb (fun _ => { clear with done := true, busy := false }) s
  else if !inRange then modRb (fun _ => { clear with err := true, code := 1, busy := false }) s
  else if !inShare then modRb (fun _ => { clear with err := true, code := 3, busy := false }) s
  else modRb (fun _ => { clear with busy := true }) s

/-- A write of 1 to MAP_RB_CTL.GO (R93). -/
def rebuildGo (w : Writer) (s : State) : State :=
  match w with
  | .engine e =>
    match copyNum s (.engine e), sqPart s (e.val / 9) with
    | some n, some p =>
      if !isMaster s p then setCode n 5 s
      else if s.hub.rb.busy then s
      else rebuildStart p (setCode n 0 s)
    | some n, none => setCode n 5 s
    | none, _ => s
  | .steward =>
    match masterPart s with
    | some p => if s.hub.rb.busy then s else rebuildStart p s
    | none => s
  | .host => s
  | .hostDecoder => s
  | .hostConfig => s
  | .hostDoorbell _ => s

/-- The rebuild's next entry (R94): read from the source, checked as a WRITE by codes 2 to 4 against
    the shadow copy, and written or refused. -/
def rebuildEntry (s : State) : State :=
  let r := s.hub.rb
  if !r.busy then s
  else
    match partOf s r.part.toNat with
    | none => modRb (fun r => { r with busy := false, err := true, code := 5 }) s
    | some p =>
      let pa := r.runSrc.toNat + 8 * r.next
      match probeHbm 8 pa s with
      | (true, s1) => modRb (fun r => { r with busy := false, err := true, code := 15 }) s1
      | (false, s1) =>
        let ent := BitVec.ofNat 64 (leNat (s1.hbm.bytes pa 8))
        let page := r.runFirst.toNat + r.next
        let (cur, s2) := readEntry 5 page s1
        let s3 := if writeCode s2 p ent [cur] ≠ 0 then
            modRb (fun r => { r with refused := r.refused + 1 }) s2
          else recodeLine 5 0 page
            { s2 with hub := { s2.hub with shadow := SMap.set 0 s2.hub.shadow page ent } }
        let last := r.next + 1 = r.runCount.toNat
        modRb (fun r => { r with next := r.next + 1, busy := !last, done := last }) s3

end Sys2Proof.Machine
end

