-- ==== Sys2Proof/Machine/TenderOps.lean ====
section
/-! DEFINITION. The tender channels of a square (R44 to R50, R550). -/

namespace Sys2Proof.Machine

/-- A tender channel. -/
def tnd (s : State) (sq n : Nat) : Tender := (s.sqr sq).tnd.toList.getD n {}

/-- The state with a tender channel changed. -/
def modTnd (sq n : Nat) (f : Tender → Tender) (s : State) : State :=
  s.modSq sq fun q => { q with tnd := q.tnd.setIfInBounds n (f (q.tnd.toList.getD n {})) }

/-- The tender interrupt of a channel (R50): on its logical engine, when that engine is available. -/
def tenderIrq (sq n : Nat) (s : State) : State :=
  let t := tnd s sq n
  let p := posOf (s.sqr sq) t.irqEng.toNat
  if t.irqEn && decide (p < 9) then
    s.modEng (sq * 9 + p) fun x => { x with trap := { x.trap with ipend := x.trap.ipend ||| 1 } }
  else s

/-- A transfer ends with DONE (R45, R46). -/
def tenderDone (sq n : Nat) (s : State) : State :=
  tenderIrq sq n (modTnd sq n (fun t =>
    { t with busy := false, paused := false, done := true, page := none }) s)

/-- What a channel still waits for is discarded when it comes. -/
def dropTenderReqs (sq n : Nat) (s : State) : State :=
  let rs := s.reqs.map fun (r : Req) => if r.who = .tender sq n then { r with who := .gone } else r
  { s with reqs := rs }

/-- A transfer stops with ERR and a code of Table 1.7 (R48). -/
def tenderStop (sq n : Nat) (code : BitVec 4) (s : State) : State :=
  tenderIrq sq n (modTnd sq n (fun t =>
    { t with busy := false, paused := false, err := true, code := code,
             page := none, outstanding := [], resp := none }) (dropTenderReqs sq n s))

/-- Every busy channel of a square that a condition names stops with a code (R42, R69, R591). -/
def stopTenders (sq : Nat) (which : Tender → Bool) (code : BitVec 4) (s : State) : State :=
  (List.range 4).foldl (fun s n =>
    if (tnd s sq n).busy && which (tnd s sq n) then tenderStop sq n code s else s) s

/-- Is a whole range of the tender in one region it may name (R44): the job space, or one sibling
    window of the square that carries a logical engine, outside its sanctuary? -/
def tenderRange (q : Square) (a len : Nat) : Bool :=
  decide (a + len ≤ 0x8000000000) ||
    (decide (0xFFFF20000000 ≤ a ∧ a < 0xFFFF20240000) &&
      decide ((a - 0xFFFF20000000) % 2 ^ 18 + len ≤ 0x3FF00) &&
      (logicalOf q ((a - 0xFFFF20000000) / 2 ^ 18)).isSome)

/-- SQ_TNDn_CTL written with a value (R45): its fields, and with GO the checks of R44 in order.  A
    write while BUSY is ignored and sets IGNWR. -/
def tenderCtl (sq n : Nat) (v : Word) (s : State) : State :=
  if (tnd s sq n).busy then modTnd sq n (fun t => { t with ignwr := true }) s
  else
    let s1 := modTnd sq n (fun t =>
      { t with irqEn := v.getLsbD 24, irqEng := v.extractLsb' 16 3, ctx := v.extractLsb' 8 8 }) s
    if !v.getLsbD 0 || isPartner s sq then s1
    else
      let s2 := modTnd sq n (fun t =>
        { t with done := false, err := false, code := 0, busy := true, paused := false,
                 page := none, outstanding := [], resp := none }) s1
      let t := tnd s2 sq n
      let inPart := match sqPart s2 sq with | some p => p.hasCtx t.ctx | none => false
      if !inPart then tenderStop sq n 6 s2
      else if t.len = 0 then tenderDone sq n s2
      else if !(tenderRange (s2.sqr sq) t.src.toNat t.len.toNat &&
          tenderRange (s2.sqr sq) t.dst.toNat t.len.toNat) then tenderStop sq n 3 s2
      else s2

/-- How a step of a channel can go wrong. -/
inductive TndStop
  | code (c : BitVec 4)
  | skip
  | wait

/-- The place of a tender address (R44, R83): a sibling window, or the translation that the channel holds, or
    that of the live map under its context with ring-0 rights, which it then holds (R86). -/
def tenderPlace (sq n : Nat) (src : Bool) (a : Nat) (s : State) :
    (Except TndStop Place) × State :=
  if 0xFFFF20000000 ≤ a then
    let p := (a - 0xFFFF20000000) / 2 ^ 18
    if (logicalOf (s.sqr sq) p).isSome then
      (.ok (.tile ((sq * 9 + p) * 2 ^ 18 + (a - 0xFFFF20000000) % 2 ^ 18)), s)
    else (.error (.code 3), s)
  else
    let t := tnd s sq n
    let page := a / 2 ^ 18
    let need := if src then Need.r else Need.w
    match t.page.filter fun r => r.page = page with
    | some r =>
      if permOk r.entry 0 need then (.ok (placeOf s r.entry (BitVec.ofNat 64 a)), s)
      else (.error (.code 1), s)
    | none =>
      let ent := liveEntry s page
      match checkEntry (sqPart s sq) t.ctx 0 need page ent with
      | some 1 => (.error (.code 1), s)
      | r =>
        match probeMap 4 page s with
        | (true, s1) => (.error (if src then .code 2 else .skip), s1)
        | (false, s1) =>
          match r with
          | some _ => (.error (.code 1), s1)
          | none =>
            (.ok (placeOf s1 ent (BitVec.ofNat 64 a)), modTnd sq n (fun t => { t with
              page := some { port := 0, page := page, entry := ent } }) s1)

/-- The bytes of a unit at its source (R47, R48). -/
def tenderRead (sq n : Nat) (p : Place) (len : Nat) (s : State) :
    (Except TndStop (List Byte)) × State :=
  let t := tnd s sq n
  let va : Word := t.src.setWidth 64
  let far (send : State → Nat × State) (off : Nat) : (Except TndStop (List Byte)) × State :=
    match t.resp with
    | some r =>
      let s1 := modTnd sq n (fun t => { t with resp := none }) s
      if r.status = 0 then (.ok (lineBytes r.data off len), s1)
      else (.error (.code (if r.status = 4 then 2 else 1)), s1)
    | none =>
      if s.reqs.any fun r => decide (r.who = .tender sq n) && !r.write then (.error .wait, s)
      else
        let (st, s1) := send s
        if st = 0 then (.error .wait, s1) else (.error (.code 1), s1)
  match p with
  | .hbm pa =>
    match probeHbm 3 pa s with
    | (true, s1) => (.error (.code 2), s1)
    | (false, s1) => (.ok (s1.hbm.bytes pa len), s1)
  | .tile key =>
    match probeTile key len (loseTile 0 key s) with
    | (true, s1) => (.error (.code 2), s1)
    | (false, s1) => (.ok (s1.tile.bytes key len), s1)
  | .host a =>
    far (fun s => if hostOpen s then
        (0, hostRequest (.tender sq n) false va 2
          (fun tag => .hostRead tag (BitVec.ofNat 64 (a / 64 * 64))) s)
      else (1, s)) (a % 64)
  | .remote node pa =>
    far (frxRequest (.tender sq n) false false va 2 node 1 0 (pa / 64 * 64) (maskOf (pa % 64) len) [])
      (pa % 64)

/-- The bytes of a unit written at its destination (R48, R550, Table 2.7). -/
def tenderWrite (sq n : Nat) (p : Place) (bs : List Byte) (s : State) :
    (Except TndStop Unit) × State :=
  let t := tnd s sq n
  let unit := (t.src, t.dst, t.len)
  let va : Word := t.dst.setWidth 64
  match p with
  | .hbm pa =>
    match probeWrite 3 pa (enabled bs) s with
    | (true, s1) => (.error .skip, s1)
    | (false, s1) => (.ok (), writeHbm none pa (enabled bs) s1)
  | .tile key => (.ok (), writeTile none key (enabled bs) (loseTile 0 key s))
  | .host a =>
    if 8 ≤ t.outstanding.length then (.error .wait, s)
    else if !hostOpen s then (.error (.code 1), s)
    else
      let (mask, data) := sectorOf (a % 64) (enabled bs)
      (.ok (), modTnd sq n (fun t => { t with outstanding := t.outstanding ++ [(s.nextTag, unit)] })
        (hostRequest (.tender sq n) true va 3
          (fun tag => .hostWrite tag (BitVec.ofNat 64 (a / 64 * 64)) mask
            (BitVec.ofNat 512 (leNat data))) s))
  | .remote node pa =>
    if 8 ≤ t.outstanding.length then (.error .wait, s)
    else
      let (mask, data) := sectorOf (pa % 64) (enabled bs)
      let tag := s.nextTag
      let (st, s1) := frxRequest (.tender sq n) true false va 3 node 2 0 (pa / 64 * 64) mask data s
      if st = 0 then
        (.ok (), modTnd sq n (fun t => { t with outstanding := t.outstanding ++ [(tag, unit)] }) s1)
      else (.error (.code 1), s1)

/-- Does the tender of a square run: its clock does, and its tile stores are awake (R104, Table 15.1)? -/
def tenderRuns (q : Square) : Bool :=
  !q.waking && decide (q.st ≠ .parked ∧ q.st ≠ .failed)

/-- A unit is committed: SRC and DST advance and LEN decreases (R47).  With nothing left and nothing
    outstanding the transfer is done (R550). -/
def tenderAdvance (sq n len : Nat) (s : State) : State :=
  let s1 := modTnd sq n (fun t =>
    { t with src := t.src + BitVec.ofNat 48 len, dst := t.dst + BitVec.ofNat 48 len,
             len := t.len - BitVec.ofNat 32 len }) s
  let t := tnd s1 sq n
  if t.len = 0 && t.outstanding.isEmpty then tenderDone sq n s1 else s1

/-- The bytes of the next unit of a channel (R47). -/
def unitLen (t : Tender) : Nat :=
  min t.len.toNat (min (64 - t.src.toNat % 64) (64 - t.dst.toNat % 64))

/-- What a failed step of a channel does. -/
def tenderFail (sq n len : Nat) (r : TndStop) (s : State) : State :=
  match r with
  | .code c => tenderStop sq n c s
  | .skip => tenderAdvance sq n len s
  | .wait => s

/-- One unit of a busy channel (R47 to R49).  Where the unit's destination faults in translation and its source
    holds an uncorrectable error, R48 gives no order: here the destination's CODE 1 comes first (log entry
    65). -/
def tenderUnit (sq n : Nat) (s : State) : State :=
  let t := tnd s sq n
  if !t.busy || !tenderRuns (s.sqr sq) then s
  else if tenderPaused s sq then modTnd sq n pauseTender s
  else if !((sqPart s sq).any fun p => p.hasCtx t.ctx) then tenderStop sq n 6 s
  else
    let s0 := modTnd sq n (fun t => { t with paused := false }) s
    if t.len = 0 then s0
    else
      let len := unitLen t
      match tenderPlace sq n true t.src.toNat s0 with
      | (.error r, s1) => tenderFail sq n len r s1
      | (.ok p, s1) =>
        match tenderPlace sq n false t.dst.toNat s1 with
        | (.error r, s2) => tenderFail sq n len r s2
        | (.ok d, s2) =>
          match tenderRead sq n p len s2 with
          | (.error r, s3) => tenderFail sq n len r s3
          | (.ok bs, s3) =>
            match tenderWrite sq n d bs s3 with
            | (.error r, s4) => tenderFail sq n len r s4
            | (.ok (), s4) => tenderAdvance sq n len s4

/-- A write of a channel to the host or a remote device has completed (R550): an error stops the
    transfer at the first byte of that unit; a POISON response skips the unit. -/
def tenderAck (sq n : Nat) (tag : BitVec 32) (status : Byte) (s : State) : State :=
  let t := tnd s sq n
  match t.outstanding.find? fun u => u.1 = tag with
  | none => s
  | some (_, src, dst, len) =>
    if status = 0 ∨ status = 4 then
      let s1 := modTnd sq n (fun t =>
        { t with outstanding := t.outstanding.filter fun u => u.1 ≠ tag }) s
      let t1 := tnd s1 sq n
      if t1.busy && t1.len = 0 && t1.outstanding.isEmpty then tenderDone sq n s1 else s1
    else
      tenderStop sq n 1 (modTnd sq n (fun t => { t with src := src, dst := dst, len := len }) s)

end Sys2Proof.Machine
end

