-- ==== Sys2Proof/Machine/Regs.lean ====
section
/-! DEFINITION. The register windows of an engine: the engine control block (Table 3.4), the square
registers (Table 1.8) and the device register region (Tables 1.17, 2.8, 9.12, 13.10), with the rules
of R21 to R24, R52, R130 and R145. -/

namespace Sys2Proof.Machine

/-! ### Watchdogs of engines (R609 to R612) -/

/-- Does an engine's watchdog stand still (R642)? -/
def wdFrozen (x : Engine) : Bool := x.dbg.halted && x.dbg.frz.getLsbD 0

/-- A bite of an engine's watchdog (R609, R611, R643): t returns to 0; while the engine is halted the
    bite is held off and counted, and a frozen watchdog does not bite. -/
def wdBite (early : Bool) (x : Engine) : Engine :=
  let w := { x.wd with t := 0, early := x.wd.early || early, late := x.wd.late || !early }
  if wdFrozen x then x
  else if x.dbg.halted then
    { x with wd := w, dbg := { x.dbg with bites := if x.dbg.bites < 2 then x.dbg.bites + 1 else 2 } }
  else if w.bite1 then { x with wd := { w with ready := true, second := true } }
  else { x with wd := { w with bite1 := true, ready := true, second := false } }

/-- A kick that the landing takes (R609): the window, an early or a late bite. -/
def wdTake (x0 : Engine) : Engine :=
  let x := { x0 with wd := { x0.wd with recent := true } }
  if x.wd.t < x.wd.opn then wdBite true x
  else if x.wd.t < x.wd.close then
    { x with wd := { x.wd with t := 0, bite1 := false, ready := x.wd.ready && x.wd.second } }
  else wdBite false x

/-- A kick with a value: the key, and a watchdog that runs.  One that merges in a ferry transfer counts as one with
    the kick before it (R610). -/
def wdKick (key : Word) (merged : Bool) (x : Engine) : Engine :=
  if key.setWidth 16 ≠ 0x4B1C#16 then { x with wd := { x.wd with badkey := true } }
  else if !x.wd.en || wdFrozen x || merged then x
  else wdTake x

/-- A store to EC_WD_KICK: whether a kick within a tick of another merges with it is timing, and a free value (R598,
    R610; log entry 1). -/
def kickEngine (e : Nat) (key : Word) (s : State) : State :=
  if (s.eng e).wd.recent then
    { s with free := s.free + 1 }.modEng e (wdKick key (Config.freeBool s.free))
  else s.modEng e (wdKick key false)

/-- A store to EC_WD_CTL (R612). -/
def wdCtl (v : Word) (x : Engine) : Engine :=
  if x.wd.en then x
  else
    let w := { x.wd with close := v.extractLsb' 40 24, opn := v.extractLsb' 16 24 }
    if !v.getLsbD 0 then { x with wd := w }
    else if w.opn < w.close then { x with wd := { w with en := true, t := 0 } }
    else { x with wd := { w with cfgerr := true } }

/-! ### The VSU as a wait sees it (R678) -/

/-- Does a wait on the VSU have to go on?  Held work counts as completed. -/
def vsuBusy (x : Engine) : Bool := !x.trap.vheld && !x.vec.q.isEmpty

/-- Does an access to a register of R272 have to wait?  A debug access sees a stopped group's state
    (R633). -/
def vsuWait (x : Engine) : Bool := vsuBusy x && !(x.dbg.feed && x.vec.stopped)

/-! ### The engine control block -/

/-- EC_ID (Table 3.7): a partner engine reports its twin's numbers (R410). -/
def ecId (s : State) (e : Nat) : Word :=
  let sq := e / 9
  let pr := primaryOf s sq
  let n := (logicalOf (s.sqr sq) (e % 9)).getD 0
  let pos := if pr = sq then e % 9 else posOf (s.sqr pr) n
  place 48 16 0xBA71 ||| place 32 16 0x9512 ||| place 24 8 0xB0 ||| place 20 4 pos |||
    place 0 9 (pr * 8 + n)

/-- STATE of EC_VSU (Table 3.10). -/
def VsuPower.code : VsuPower → Nat
  | .on => 0
  | .gating => 1
  | .gated => 2
  | .waking => 3

/-- The value last stored to a sync register, pending or in force (R146). -/
def syncValue (x : Engine) (off : Nat) (now : Word) : Word :=
  match x.sync.find? fun p => p.1 == off with
  | some (_, v) => v
  | none => now

/-- The writable bits of a sync register, as a load of the value last stored shows them. -/
def syncMask (off : Nat) : Word :=
  if off = 0x008 then 0x1F
  else if off = 0x0A0 then 0x8000FFFFFFFFFE00
  else if off = 0x0A8 then 0x8FFFFFFFFFFFFFF8
  else if off = 0x180 then 0xFF0F
  else if off = 0x218 then 3
  else if off = 0x250 then 0x171F
  else if off % 0x20 = 0x10 then 0xFFFFFFFF
  else 0xFFFFFFFFFFFC

/-- EC_WD_STAT (Table 15.5). -/
def wdStat (w : EngWd) : Word :=
  flag 4 w.cfgerr ||| flag 3 w.badkey ||| flag 2 w.late ||| flag 1 w.early ||| flag 0 w.bite1

/-- A load of the register at an offset of the control block (Table 3.4). -/
def ecbRead (s : State) (e off : Nat) : Word :=
  let x := s.eng e
  let t := x.trap
  if off = 0x000 then ecId s e
  else if off = 0x008 then syncValue x off (x.mode.setWidth 64) &&& syncMask off
  else if off = 0x010 then x.cycle
  else if off = 0x018 then
    place 32 32 x.vsu.wakes.toNat ||| place 16 13 x.vsu.idle.toNat ||| place 0 2 x.vsu.st.code
  else if 0x040 ≤ off ∧ off < 0x060 then
    (x.stk.toList.getD ((off - 0x040) / 8) 0).setWidth 64
  else if off = 0x080 then statusWord t
  else if off = 0x088 then t.cause
  else if off = 0x090 then t.faddr
  else if off = 0x098 then t.trapen.setWidth 64
  else if off = 0x0A0 then syncValue x off t.vecbase &&& syncMask off
  else if off = 0x0A8 then syncValue x off t.gatebase &&& syncMask off
  else if off = 0x0B0 then t.ipend.setWidth 64
  else if off = 0x0B8 then t.ien.setWidth 64
  else if off = 0x0C0 then
    place 40 24 x.wd.close.toNat ||| place 16 24 x.wd.opn.toNat ||| flag 0 x.wd.en
  else if off = 0x0D0 then place 0 24 x.wd.t.toNat
  else if off = 0x0D8 then wdStat x.wd
  else if off = 0x0E0 then s.mg.timebase
  else if 0x100 ≤ off ∧ off < 0x180 then
    let n := (off - 0x100) / 0x20
    if off % 0x20 = 0x00 then syncValue x off (x.loops.lps.toList.getD n 0) &&& syncMask off
    else if off % 0x20 = 0x08 then syncValue x off (x.loops.lpe.toList.getD n 0) &&& syncMask off
    else if off % 0x20 = 0x10 then
      syncValue x off ((x.loops.lpc.toList.getD n 0).setWidth 64) &&& syncMask off
    else 0
  else if off = 0x180 then syncValue x off (x.loops.st.setWidth 64) &&& syncMask off
  else if off = 0x200 then x.vec.vl.setWidth 64
  else if off = 0x208 then x.vec.vprog.setWidth 64
  else if off = 0x210 then x.vec.vflags.setWidth 64
  else if off = 0x218 then syncValue x off (x.vec.gs.setWidth 64) &&& syncMask off
  else if 0x220 ≤ off ∧ off < 0x240 then x.vec.erange.toList.getD ((off - 0x220) / 8) 0
  else if off = 0x240 then (x.fctl &&& 0x1F07) ||| (syncValue x off x.fctl &&& 0x10)
  else if off = 0x248 then x.fflags.setWidth 64
  else if off = 0x250 then syncValue x off x.dctl &&& syncMask off
  else if off = 0x300 ∨ off = 0x308 ∨ off = 0x310 then
    (x.tsconf.toList.getD ((off - 0x300) / 8) 0).setWidth 64
  else if 0x400 ≤ off ∧ off < 0x600 then x.vec.sd.toList.getD ((off - 0x400) / 8) 0
  else if off = 0x808 then x.tchan.setWidth 64
  else if off = 0x810 then x.tmask.setWidth 64
  else 0

/-- The writable bits of a stream-descriptor word (Tables 6.1 to 6.3). -/
def sdMask (w : Nat) : Word :=
  match w with
  | 0 => 0xFFFFFFFFFFFF
  | 1 => 0xFFFF7CFF07
  | 2 => 0
  | _ => 0xFFFFFFFFFFFFFFFF

/-- A trace mark of an engine (R648). -/
def traceMark (e : Nat) (v : Word) (s : State) : State :=
  let x := s.eng e
  let ring := x.rights.toNat
  let c := x.tchan.toNat
  let seen := s.ik.level = 2 ∨ (s.ik.level ≠ 0 ∧ s.ik.openCtx.getLsbD x.ctx.toNat)
  if s.ik.ten && x.tmask.getLsbD c && decide (ring ≤ c / 8) && decide seen then
    squarePacket (e / 9)
      { time := s.mg.timebase, src := BitVec.ofNat 16 (e / 9 * 16 + e % 9), kind := 1,
        chan := BitVec.ofNat 8 c, ctx := x.ctx, lost := false, ring := x.trap.ring, data := v } s
  else s

/-- A ring-0 write of 1 to EC_STATUS.VDROP (R261, R403): held work is dropped, with what of a packet waits in its
    outputs (log entry 83), and a frozen chain the engine belongs to is aborted. -/
def vdrop (e : Nat) (s : State) : State :=
  let x := s.eng e
  let s1 := if x.trap.vheld then
      s.setEng e { x with
        vec := { x.vec with q := [], gpend := [], held := none, vprog := 0 }
        outs := x.outs.map CqOutput.giveUp
        trap := { x.trap with vheld := false } }
    else s
  match (lengOf s e).bind (chainOf s) with
  | some c => if (chainSt s c).frozen then abortChain c [] [e] (some x.ctx) s1 else s1
  | none => s1

/-- A store of a value to the register at an offset of the control block (Table 3.4, R146, R147). -/
def ecbWrite (e off : Nat) (v : Word) (s : State) : State :=
  if isSync off && off != 0x240 then
    s.modEng e fun x => { x with sync := x.sync.put off v }
  else if 0x040 ≤ off ∧ off < 0x060 then
    s.modEng e fun x => { x with stk := x.stk.setIfInBounds ((off - 0x040) / 8) (v.setWidth 48) }
  else if off = 0x080 then
    let s1 := if v.getLsbD 10 then vdrop e s else s
    s1.modEng e fun x => { x with trap := { x.trap with
      ie := v.getLsbD 4, dbl := x.trap.dbl && !v.getLsbD 8 } }
  else if off = 0x088 then
    s.modEng e fun x => { x with trap := { x.trap with cause := v &&& 0x7F0FFFF7FF } }
  else if off = 0x090 then s.modEng e fun x => { x with trap := { x.trap with faddr := v } }
  else if off = 0x098 then
    s.modEng e fun x => { x with trap := { x.trap with trapen := v.setWidth 10 } }
  else if off = 0x0B0 then
    s.modEng e fun x => { x with trap := { x.trap with
      ipend := (v.setWidth 2 &&& 2) ||| (x.trap.ipend &&& 1 &&& ~~~(v.setWidth 2)) } }
  else if off = 0x0B8 then
    s.modEng e fun x => { x with trap := { x.trap with ien := v.setWidth 2 } }
  else if off = 0x0C0 then s.modEng e (wdCtl v)
  else if off = 0x0C8 then kickEngine e v s
  else if off = 0x0D8 then
    s.modEng e fun x => { x with wd := { x.wd with
      cfgerr := x.wd.cfgerr && !v.getLsbD 4, badkey := x.wd.badkey && !v.getLsbD 3,
      late := x.wd.late && !v.getLsbD 2, early := x.wd.early && !v.getLsbD 1 } }
  else if off = 0x200 then s.modEng e fun x => { x with vec := { x.vec with vl := v.setWidth 24 } }
  else if off = 0x208 then
    s.modEng e fun x => { x with vec := { x.vec with vprog := v.setWidth 24 } }
  else if off = 0x210 then
    s.modEng e fun x => { x with vec := { x.vec with vflags := v.setWidth 9 } }
  else if 0x220 ≤ off ∧ off < 0x240 then
    s.modEng e fun x => { x with vec := { x.vec with
      erange := x.vec.erange.setIfInBounds ((off - 0x220) / 8) (v &&& 0xC701FF0000FFFFFF) } }
  else if off = 0x240 then
    s.modEng e fun x => { x with
      fctl := (v &&& 0x1F07) ||| (x.fctl &&& 0x10), sync := x.sync.put off (v &&& 0x10) }
  else if off = 0x248 then s.modEng e fun x => { x with fflags := (v &&& 0x5F).setWidth 7 }
  else if off = 0x300 ∨ off = 0x308 ∨ off = 0x310 then
    s.modEng e fun x => { x with
      tsconf := x.tsconf.setIfInBounds ((off - 0x300) / 8) (v.setWidth 32) }
  else if 0x400 ≤ off ∧ off < 0x600 then
    let i := (off - 0x400) / 8
    s.modEng e fun x => { x with vec := { x.vec with
      sd := x.vec.sd.setIfInBounds i (v &&& sdMask (i % 4)) } }
  else if off = 0x800 then traceMark e v s
  else if off = 0x808 then s.modEng e fun x => { x with tchan := v.setWidth 5 }
  else if off = 0x810 then s.modEng e fun x => { x with tmask := v.setWidth 32 }
  else s

/-- Does an access to a control-block register wait for the VSU (R272)? -/
def ecbWaits (off : Nat) : Bool := off == 0x208 || off == 0x210 || decide (0x220 ≤ off ∧ off < 0x240)

/-! ### Square registers -/

/-- The number of a square state (Table 1.6). -/
def SqState.code : SqState → Nat
  | .parked => 0
  | .idle => 1
  | .busy => 2
  | .quiescing => 3
  | .quiesced => 4
  | .failed => 5

/-- The context of the job a square runs; 0 when the square is not BUSY (Table 1.10). -/
def sqCtx (s : State) (sq : Nat) : Nat :=
  if (s.sqr sq).st = .busy then ((jobOf s (s.sqr sq).job).map fun j => j.ctx.toNat).getD 0 else 0

/-- SQ_STATE.RUNMASK (Table 1.10): the logical engines that run the square's job and have not ended
    it. -/
def runMask (s : State) (sq : Nat) : Nat :=
  (List.range 8).foldl (fun m n =>
    let x := s.eng (sq * 9 + posOf (s.sqr sq) n)
    if decide (posOf (s.sqr sq) n < 9) && x.run == .running && x.job == (s.sqr sq).job then m + 2 ^ n
    else m) 0

/-- A load of a square register (Tables 1.9 to 1.16). -/
def sqRead (s : State) (sq off : Nat) : Word :=
  let q := s.sqr sq
  if off = 0x000 then
    place 20 4 (sq / 8 + 1) ||| place 16 3 (sq % 8) ||| place 8 2 (sq / 16) ||| place 0 6 sq
  else if off = 0x008 then
    place 16 8 (runMask s sq) ||| place 8 8 (sqCtx s sq) ||| place 0 3 q.st.code
  else if off = 0x010 then
    flag 48 q.spareUsed ||| place 32 9 q.retired.toNat ||| place 0 32 q.map.toNat
  else if off = 0x018 then
    place 24 6 q.guard.toNat ||| flag 16 q.pinned ||| place 8 3 q.minop.toNat |||
      place 4 3 q.maxop.toNat ||| place 0 3 q.opp.toNat
  else if off = 0x020 then
    place 10 6 q.partner.toNat ||| flag 9 q.paired ||| flag 8 q.assigned ||| place 0 4 q.part.toNat
  else if isTenderReg off then
    let t := tnd s sq ((off - 0x100) / 0x40)
    if off % 0x40 = 0x00 then t.src.setWidth 64
    else if off % 0x40 = 0x08 then t.dst.setWidth 64
    else if off % 0x40 = 0x10 then t.len.setWidth 64
    else if off % 0x40 = 0x18 then
      flag 24 t.irqEn ||| place 16 3 t.irqEng.toNat ||| place 8 8 t.ctx.toNat
    else if off % 0x40 = 0x20 then
      flag 9 t.paused ||| flag 8 t.ignwr ||| place 4 4 t.code.toNat ||| flag 2 t.err |||
        flag 1 t.done ||| flag 0 t.busy
    else 0
  else 0

/-- A store to a square register (R45, R51, Tables 1.14 to 1.16). -/
def sqWrite (sq off : Nat) (v : Word) (s : State) : State :=
  if !isTenderReg off then s
  else
    let n := (off - 0x100) / 0x40
    let ign := modTnd sq n (fun t => { t with ignwr := true }) s
    let busy := (tnd s sq n).busy
    if off % 0x40 = 0x00 then
      if busy then ign else modTnd sq n (fun t => { t with src := v.setWidth 48 }) s
    else if off % 0x40 = 0x08 then
      if busy then ign else modTnd sq n (fun t => { t with dst := v.setWidth 48 }) s
    else if off % 0x40 = 0x10 then
      if busy then ign else modTnd sq n (fun t => { t with len := v.setWidth 32 }) s
    else if off % 0x40 = 0x18 then tenderCtl sq n v s
    else if off % 0x40 = 0x20 then
      modTnd sq n (fun t => { t with ignwr := t.ignwr && !v.getLsbD 8,
                                     err := t.err && !v.getLsbD 2,
                                     done := t.done && !v.getLsbD 1 }) s
    else s

/-! ### Device registers -/

/-- FRX_LINKn (Table 13.12). -/
def frxLinkReg (l : FrxLink) : Word :=
  place 32 32 l.retry.toNat ||| place 16 16 l.peer.toNat ||| flag 2 l.peerv ||| place 0 2 l.st.toNat

/-- The four endpoint codes of a logical engine (Table 9.13). -/
def sqWire (s : State) (leng : Nat) : Word :=
  (List.range 4).foldl (fun w n => w ||| place (16 * n) 16 (wireCode s.board leng n).toNat) 0

/-- The eight bytes of SQ_CHID or SQ_CHST. -/
def sqBytes (f : Nat → Nat) : Word :=
  (List.range 8).foldl (fun w i => w ||| place (8 * i) 8 (f i)) 0

/-- A load of a device register by a copy of the map command registers (`n`, where it has one):
    the value, and the state after a read that clears MEM_UE_LOG.VALID (R126). -/
def devRead (n : Option Nat) (off : Nat) (s : State) : Word × State :=
  let h := s.hub
  let m := s.mapCopy (n.getD 513)
  if off = 0x2018 then
    (h.ueLog, { s with hub := { h with ueLog := h.ueLog &&& 0x7FFFFFFFFFFFFFFF } })
  else
    let w : Word :=
      if off = 0x0000 then 0xBA719512400808B0
      else if off = 0x0008 then h.hostbase &&& 0xFFFFFFFFFFFC0000
      else if off = 0x1008 then h.epoch.setWidth 64
      else if off = 0x1010 then
        place 32 32 (oldRefs s) ||| flag 16 h.fence ||| flag 9 h.shootBusy ||| flag 8 m.busy |||
          place 0 4 m.code.toNat
      else if off = 0x1018 then m.idx.setWidth 64
      else if off = 0x1020 then m.data
      else if off = 0x1040 then h.rb.src.setWidth 64
      else if off = 0x1048 then place 32 22 h.rb.count.toNat ||| place 0 21 h.rb.first.toNat
      else if off = 0x1058 then
        place 32 24 h.rb.refused.toNat ||| place 4 4 h.rb.code.toNat ||| flag 3 h.rb.collide |||
          flag 2 h.rb.err ||| flag 1 h.rb.done ||| flag 0 h.rb.busy
      else if off = 0x2000 then
        place 8 2 h.bkskew.toNat ||| place 4 2 h.chskew.toNat ||| flag 0 h.ilvLocal
      else if off = 0x2008 then place 32 32 h.ceChip.toNat ||| place 0 32 h.ceHbm.toNat
      else if off = 0x2010 then place 32 32 h.ueChip.toNat ||| place 0 32 h.ueHbm.toNat
      else if off = 0x2020 then place 8 32 h.scrubPasses.toNat ||| place 0 8 h.scrubPeriod.toNat
      else if off = 0x2028 then
        place 32 16 h.sparePending.toNat ||| place 16 16 h.spareHard.toNat ||| place 0 16 h.spareSoft.toNat
      else if off = 0x3000 then
        place 8 3 s.cxl.width.toNat ||| place 4 3 s.cxl.speed.toNat ||| flag 3 s.cxl.ide |||
          flag 1 s.cxl.cxl ||| flag 0 s.cxl.up
      else if off = 0x3008 then
        place 48 16 s.cxl.dbdrop.toNat ||| place 32 16 s.cxl.defer.toNat |||
          place 16 16 s.cxl.poisonrx.toNat ||| place 0 16 s.cxl.linkdown.toNat
      else if off = 0x4000 then s.frx.node.setWidth 64
      else if off = 0x4008 then
        place 48 16 s.frx.timeout.toNat ||| place 32 16 s.frx.denied.toNat |||
          place 16 16 s.frx.drop.toNat ||| place 0 16 s.frx.late.toNat
      else if 0x4040 ≤ off ∧ off < 0x4080 then
        frxLinkReg (s.frx.links.toList.getD ((off - 0x4040) / 8) {})
      else if 0x100000 ≤ off ∧ off < 0x108000 then
        let k := (off - 0x100000) / 0x1000
        let r := s.rank k
        if off % 0x1000 = 0 then place 32 32 r.fwver.toNat ||| place 0 4 (k + 1)
        else if off % 0x1000 = 8 then
          place 16 8 ((List.range 8).filter fun f => (s.sqr (k * 8 + f)).st = .busy).length |||
            place 0 16 (s.jobs.filter fun j => jobHome s j = k ∧
              (j.stage = .queued ∨ j.stage = .measuring)).length
        else if off % 0x1000 = 16 then r.stale.setWidth 64
        else 0
      else if 0x200000 ≤ off ∧ off < 0x204000 then
        let sq := (off - 0x200000) / 0x100
        let r := off % 0x100
        if r < 0x40 then sqWire s (sq * 8 + r / 8)
        else if r = 0x40 then sqBytes fun i => ((chainOf s (sq * 8 + i)).getD 0xFF)
        else if r = 0x48 then sqBytes fun i => (chstOf s (sq * 8 + i)).toNat
        else if r = 0x50 then (s.sqr sq).cqlost.setWidth 64
        else if r = 0x58 then s.board.serial
        else 0
      else if 0x400000 ≤ off ∧ off < 0x420000 then
        let w := (off - 0x400000) / 8
        (List.range 4).foldl (fun acc j =>
          acc ||| place (16 * j) 16 (SMap.get (0 : BitVec 16) s.board.routes (4 * w + j)).toNat) 0
      else 0
    (w, s)

/-- May this writer use the rebuild registers (R93)? -/
def masterWriter (w : Writer) (s : State) : Bool :=
  match w with
  | .engine e => match sqPart s (e.val / 9) with | some p => isMaster s p | none => false
  | .steward => true
  | .host => false
  | .hostDecoder => false
  | .hostConfig => false
  | .hostDoorbell _ => false

/-- The copy of the map command registers that a writer of device registers has. -/
def writerCopy (w : Writer) (s : State) : Option Nat :=
  match w with
  | .engine e => copyNum s (.engine e)
  | .steward => some 513
  | .host => some 513
  | .hostDecoder => some 513
  | .hostConfig => some 513
  | .hostDoorbell _ => some 513

/-- A write of MAP_CMD: a command of an engine's copy (R87), or of the steward's (R130). -/
def writerCommand (w : Writer) (op : Nat) (s : State) : State :=
  match w with
  | .engine e => mapCommand (.engine e) op s
  | .steward => stewardCommand op s
  | .host => s
  | .hostDecoder => s
  | .hostConfig => s
  | .hostDoorbell _ => s

/-- A store to a device register (R87 to R93, Tables 2.10 to 2.12); the steward's copy of the map
    command registers is number 513. -/
def devWrite (w : Writer) (off : Nat) (v : Word) (s : State) : State :=
  match writerCopy w s with
  | none => s
  | some n =>
    let busy := (s.mapCopy n).busy
    if off = 0x1000 then if v.getLsbD 0 then castleRequest w s else s
    else if off = 0x1018 then
      if busy then setCode n 7 s else s.modCopy n fun m => { m with idx := v.setWidth 21 }
    else if off = 0x1020 then
      if busy then setCode n 7 s else s.modCopy n fun m => { m with data := v }
    else if off = 0x1028 then
      writerCommand w (v.toNat % 8) s
    else if off = 0x1040 then
      if masterWriter w s then modRb (fun r => { r with src := (v &&& 0x7FFFFFFFF8).setWidth 39 }) s
      else s
    else if off = 0x1048 then
      if masterWriter w s then
        modRb (fun r => { r with first := v.setWidth 21, count := v.extractLsb' 32 22 }) s
      else s
    else if off = 0x1050 then if v.getLsbD 0 then rebuildGo w s else s
    else if off = 0x1058 then
      modRb (fun r => { r with collide := r.collide && !v.getLsbD 3, err := r.err && !v.getLsbD 2,
                               done := r.done && !v.getLsbD 1 }) s
    else s

/-! ### Scalar accesses to the register windows (R52, R130, R145) -/

/-- The checks of a scalar access to a window, in the order of R52. -/
def windowCheck (x : Engine) (k : Acc) (w : Window) (read write plain : Bool) (va : Word) (n : Nat) :
    EM Unit := do
  let mis := va.toNat % n ≠ 0
  if mis && (!x.mode.getLsbD 3 || !plain) then raise { code := 0x05, acc := k.code, faddr := va }
  if (read && !windowRing w false x.rights) || (write && !windowRing w true x.rights) then
    raise (ringEv k va)
  if mis || n ≠ 8 || !plain then raise (busEv k va)

/-- A 64-bit load of a register of a window. -/
def windowLoad (e : Nat) (w : Window) : EM Word := do
  let s ← get
  match w with
  | .ecb off =>
    if ecbWaits off && vsuWait (s.eng e) then hold
    return ecbRead s e off
  | .square off => return sqRead s (primaryOf s (e / 9)) off
  | .device off => liftP (devRead (copyNum s (if h : e < 576 then .engine ⟨e, h⟩ else .host)) off)

/-- A 64-bit store to a register of a window. -/
def windowStore (e : Nat) (w : Window) (v : Word) : EM Unit := do
  let s ← get
  match w with
  | .ecb off =>
    if ecbWaits off && vsuWait (s.eng e) then hold
    upd (ecbWrite e off v)
  | .square off => if isPartner s (e / 9) then return () else upd (sqWrite (e / 9) off v)
  | .device off =>
    if h : e < 576 then upd (devWrite (.engine ⟨e, h⟩) off v) else return ()

end Sys2Proof.Machine
end

