-- ==== Sys2Proof/Machine/WrongPath.lean ====
section
/-! DEFINITION. The predictor and the work on instructions that are discarded (R164 to R167): what it can
leave behind, by free values. -/

namespace Sys2Proof.Machine

/-- Is the predictor on (EC_MODE.BPRED, in normal mode)? -/
def predictorOn (x : Engine) : Bool := x.mode.getLsbD 1 && !x.mode.getLsbD 0

/-- The two-bit counter of a branch address; 1 at reset (R164). -/
def counterOf (x : Engine) (pc : Word) : BitVec 2 :=
  SMap.get 1 x.caches.pred ((pc.extractLsb' 2 12).toNat)

/-- A counter after a branch: one step toward the outcome, stopping at 0 and 3 (log entry 22). -/
def train (n : BitVec 2) (taken : Bool) : BitVec 2 :=
  if taken then (if n = 3 then 3 else n + 1) else (if n = 0 then 0 else n - 1)

/-- The counter of a branch address trained by an outcome. -/
def trainAt (pc : Word) (taken : Bool) (x : Engine) : Engine :=
  { x with caches := { x.caches with
    pred := SMap.set 1 x.caches.pred ((pc.extractLsb' 2 12).toNat) (train (counterOf x pc) taken) } }

/-- A push onto the return stack of 16 entries (R164). -/
def pushRet (a : Word) (x : Engine) : Engine :=
  { x with caches := { x.caches with rets := (a :: x.caches.rets).take 16 } }

/-- A pop of the return stack. -/
def popRet (x : Engine) : Engine := { x with caches := { x.caches with rets := x.caches.rets.drop 1 } }

/-! ### Wrong-path execution (R124, R166, R167) -/

/-- Does an entry or a line of an on-chip array hold a byte that decodes as uncorrectable? -/
def chipFails (array eng line n : Nat) (s : State) : Bool :=
  s.flaws.chip.any fun x => x.flaw.bad && ChipFlaw.within array eng line 0 n x

/-- A fetch or a load of discarded work at a job-space address: it can leave a translation and a line of local
    HBM, never one of an NS page, and it poisons a sector that fails (R124, R166).  It ends without a report
    at any error; it asks the host and remote devices for nothing (log entry 64). -/
def strayRead (e : Nat) (k : Acc) (need : Need) (va : Word) : EM Unit := do
  let s ← get
  let x := s.eng e
  let page := va.toNat / 2 ^ 18
  if (if x.caches.tlb.has page then chipFails 3 e page 8 s else chipFails 4 0 page 8 s) then hold
  let ent ← translate e x.trap.ring k need va
  let ins := decide (k = .fetch)
  match placeOf (← get) ent va with
  | .hbm pa =>
    if !entNs ent && !((if ins then x.caches.ic else x.caches.dc).has (lineKey (.hbm pa))) then
      let _ ← cachedBytes e k va (.hbm pa) 1
  | _ => return ()

/-- What a read of discarded work leaves: its faults are never taken (R167). -/
def stray (e : Nat) (k : Acc) (need : Need) (va : Word) (s : State) : State :=
  match regionOf va with
  | .job =>
    match (strayRead e k need va).run s with
    | .ok _ t => t
    | .error _ t => t
  | _ => s

/-- One thing that wrong-path execution leaves behind, chosen by free values (R166). -/
def wrongStep (e : Nat) (s0 : State) : State :=
  let f := s0.free
  let a := ea48 (Config.freeWord f)
  let s := { s0 with free := f + 3 }
  match Config.freeNat (f + 1) % 5 with
  | 0 => s.modEng e (trainAt a (Config.freeBool (f + 2)))
  | 1 => s.modEng e (pushRet a)
  | 2 => s.modEng e popRet
  | 3 => stray e .fetch .x a s
  | _ => stray e .load .r a s

/-- As many of them as a number says. -/
def wrongSteps (e : Nat) : Nat → State → State
  | 0, s => s
  | n + 1, s => wrongSteps e n (wrongStep e s)

/-- Wrong-path execution of an engine: as much as the moment brings. -/
def wrongPath (e : Nat) (s : State) : State :=
  wrongSteps e (Config.freeNat s.free) { s with free := s.free + 1 }

/-- The fetch of `n` instructions from an address, behind the delay slot of a taken branch in fixed-timing
    mode. -/
def wrongFetches (e : Nat) : Nat → Word → State → State
  | 0, _, s => s
  | n + 1, pc, s => wrongFetches e n (ea48 (pc + 4)) (stray e .fetch .x pc s)

/-- The counters of Table 16.10 after discarded work: as many more instructions issued, and loads and stores
    among them, as the moment brings. -/
def strayIssued (e : Nat) (s : State) : State :=
  let n (i : Nat) : Word := BitVec.ofNat 64 (Config.freeNat (s.free + i))
  { s with free := s.free + 2 }.modEng e fun x =>
    { x with count := (x.count.set 0 (x.count[0] + n 0)).set 4 (x.count[4] + n 1) }

/-- The work behind an instruction that took a fault, discarded with it: what has issued counts, and with the
    predictor on it may leave what a wrong path leaves.  A fed instruction has none behind it. -/
def afterFault (e : Nat) (s : State) : State :=
  let x := s.eng e
  if x.dbg.feed then s
  else if predictorOn x then wrongPath e (strayIssued e s)
  else strayIssued e s

end Sys2Proof.Machine
end

