-- ==== Sys2Proof/Machine/Issue.lean ====
section
/-! DEFINITION. One instruction of an engine: the boundary before it, its fetch, its decode faults,
its work, and its commit (R150, R160 to R174, R255 to R258). -/

namespace Sys2Proof.Machine

/-- Where the instruction stream goes after an instruction.  `post` commits the instruction and then
    raises an event at the next one (DAMO.ADD, R206); `resume` goes on in the delay slot of a branch
    whose outcome is known (GRET, R249); `done` commits nothing more: the state already says where
    the stream goes on. -/
inductive Flow
  | next
  | post (ev : Ev)
  | branch (taken annul : Bool) (tgt : Word)
  | goto (tgt : Word)
  | resume (sl : Slot)
  | done
  deriving DecidableEq, Repr

/-- What the issue of an instruction needs to know of it: its word, its decode faults in the order of
    Table 5.8, whether a delay slot or the end of a loop may hold it, whether it is WFI, VBARRIER or a control
    instruction of R350, and its work. -/
structure Inst where
  word : BitVec 32
  reserved : Option Byte := none
  illegal : Bool := false
  priv : Bool := false
  slotBad : Bool := false
  loopBad : Bool := false
  streaming : Bool := false
  mem : Bool := false
  vector : Bool := false
  enters : Bool := false
  wfi : Bool := false
  barrier : Bool := false
  control : Bool := false
  run : EM Flow

/-- An ILLEGAL event for an instruction word, with its DETAIL (Tables 5.3, 5.4). -/
def illegalEv (w : BitVec 32) (detail : Byte) : Ev :=
  { code := 0x01, detail := detail, faddr := w.setWidth 64 }

/-- The address of the instruction at the boundary: after the members of an open group. -/
def instPc (x : Engine) : Word := ea48 (x.pc + BitVec.ofNat 64 (4 * x.vec.gpend.length))

/-- The fetch of the instruction at the boundary (Table 5.8, order 1): alignment, region, translation
    with X, and an uncorrectable error. -/
def fetchWord (e : Nat) : EM (BitVec 32) := do
  let x ← engM e
  let pc := instPc x
  if pc &&& 3 ≠ 0 then raise { code := 0x05, acc := 1, faddr := pc }
  match regionOf pc with
  | .job =>
    let t ← resolve e x.trap.ring .fetch .x pc 4
    let bs ← readTarget e .fetch pc t 4
    return BitVec.ofNat 32 (leNat bs)
  | _ => raise (windowEv .fetch x.trap.ring .x pc)

/-- The fetch of an instruction that a command names. -/
def fetchCheck (e : Nat) : EM Unit := do
  let _ ← fetchWord e

/-- A group that an instruction which is no member would end (R292): ILLEGAL, while held work waits with
    DETAIL 1 at the first member (R261, R318). -/
def brokenGroup (x : Engine) (w : BitVec 32) : Ev :=
  if x.trap.vheld then illegalEv ((x.vec.gpend.headD (w, 0)).1) 1 else illegalEv w 0

/-- The decode faults of an instruction in the order of Table 5.8, an open group's before its own
    (R292, R318). -/
def decodeCheck (x : Engine) (i : Inst) : EM Unit := do
  if !x.vec.gpend.isEmpty && !i.streaming then raise (brokenGroup x i.word)
  match i.reserved with
  | some c => raise { code := c, faddr := i.word.setWidth 64 }
  | none => pure ()
  if i.illegal then raise (illegalEv i.word 0)
  if x.slot.isSome && i.slotBad then raise (illegalEv i.word 2)
  if i.priv && x.rights ≠ 0 then raise { code := 0x04 }

/-- Has an engine sent an atomic access to a remote device since a state? -/
def atomicSent (e : Nat) (s0 s1 : State) : Bool :=
  s1.reqs.any fun r =>
    decide (r.who = .engine e) && r.atomic && !(s0.reqs.any fun q => q.tag == r.tag)

/-- What stays of an instruction whose effects are undone at the end of a loop: a twin that has compared its
    write is answered, and so comes to its own LOOPEND. -/
def releaseTwin (e : Nat) (s1 s0 : State) : State :=
  match twinOf s1 e with
  | none => s0
  | some t =>
    let tok := if atomicSent e s0 s1 then some (.performed 0) else (s1.eng t).twin
    s0.modEng t fun x => { x with twin := tok, mid := x.mid || decide (tok ≠ x.twin) }

/-- The work of an instruction at the end of a loop that may not stand there (R172): its own faults
    come first, and otherwise it has no effect but LOOPEND.  An atomic access to a remote device, whose answer
    alone is still out, is not sent.  A GATE whose push fails takes LOOPEND too, and the double fault is undone
    (log entry 82). -/
def loopEndFault (e : Nat) (lpe : Word) (m : EM Flow) : EM Flow := do
  let s0 ← get
  tryCatch (do let _ ← m) fun st => do
    if decide (st = .wait) && atomicSent e s0 (← get) then return () else throw st
  set (releaseTwin e (← get) s0)
  raise { code := 0x0C, faddr := lpe }

/-- The fetch and the decode faults of an instruction.  One whose access is under way has been fetched. -/
def issueCheck (e : Nat) (i : Inst) : EM Unit := do
  if !(← engM e).mid then fetchCheck e
  decodeCheck (← engM e) i

/-- The instruction at the boundary, up to its commit. -/
def issueBody (e : Nat) (i : Inst) : EM Flow := do
  issueCheck e i
  let x ← engM e
  if atLoopEnd x.loops (instPc x) && (i.loopBad || x.slot.isSome) then
    loopEndFault e (instPc x) i.run
  else i.run

/-- The engine after the instruction at `pc` has committed with a flow: the next address, the delay slot, and
    the loop test. -/
def advance (x : Engine) (pc : Word) (flow : Flow) : Engine :=
  match x.slot with
  | some _ => stepOver x pc
  | none =>
    match flow with
    | .next | .post _ => stepOver x pc
    | .goto t => { x with pc := t }
    | .resume sl => { x with pc := ea48 (sl.bpc + 4), slot := some sl }
    | .done => x
    | .branch taken annul t =>
      if taken || !annul then { x with pc := ea48 (pc + 4), slot := some ⟨pc, taken, t⟩ }
      else { x with pc := ea48 (pc + 8) }

/-- The counters of Table 16.10 after one instruction has issued. -/
def countIssued (i : Inst) (k : Vector Word 8) : Vector Word 8 :=
  let k := k.set 0 (k[0] + 1)
  let k := if i.vector then k.set 2 (k[2] + 1) else k
  if i.mem then k.set 4 (k[4] + 1) else k

/-- The counters of Table 16.10 after one instruction has committed. -/
def countCommitted (i : Inst) (k : Vector Word 8) : Vector Word 8 :=
  let k := k.set 1 (k[1] + 1)
  let k := if i.vector then k.set 3 (k[3] + 1) else k
  if i.mem then k.set 5 (k[5] + 1) else k

/-- The counters of Table 16.10 after one instruction, issued and committed. -/
def countInst (i : Inst) (c : Vector Word 8) : Vector Word 8 := countCommitted i (countIssued i c)

/-- A debug step ends at the boundary after its instruction or at the handler of an event, with
    REASON 3 (R636). -/
def stepEnd (e : Nat) (s : State) : State :=
  let x := s.eng e
  if x.dbg.step && x.slot.isNone && x.vec.gpend.isEmpty then haltEngine e 3 s else s

/-- An engine after an instruction has committed: the counters and the stream's next address. -/
def retireEng (i : Inst) (flow : Flow) (x : Engine) : Engine :=
  if i.streaming && !x.vec.gpend.isEmpty then { x with count := countIssued i x.count }
  else { advance { x with count := countInst i x.count } (instPc x) flow with
           resp := [], twin := none, fresh := i.enters, mid := false, way := {}, barred := i.barrier,
           wfi := false }

/-- An instruction commits, and an event that it leaves behind is raised at the next one. -/
def retire (e : Nat) (i : Inst) (flow : Flow) (s : State) : State :=
  match flow with
  | .done => s.modEng e fun x => { x with resp := [], twin := none, mid := false, way := {} }
  | .post v => takeFault e v (afterFault e (s.modEng e (retireEng i flow)))
  | _ => s.modEng e (retireEng i flow)

/-- Does an engine stand at boundaries that take events: on a BUSY square, or on one that waits for a
    held event before it is quiesced (R431)? -/
def takesEvents (s : State) (e : Nat) : Bool :=
  let st := (s.sqr (e / 9)).st
  st == .busy || (st == .quiescing && (s.eng e).vec.held.isSome)

/-- Does an engine whose job has ended bring an atomic access to its end (R68, R117)? -/
def endsAccess (x : Engine) : Bool := x.run == .stopping && x.mid

/-- May an engine issue at all: it runs a job on a BUSY square, or on one whose quiesce waits until the engine
    reaches a boundary for its held event (R255, R431), is not halted, and in precise mode no group is under
    way (R312)? -/
def canIssue (e : Nat) (s : State) : Bool :=
  let x := s.eng e
  (endsAccess x || (x.run == .running && takesEvents s e)) && !x.dbg.halted &&
    !(x.mode.getLsbD 2 && vsuBusy x)

/-- May this instruction issue on an engine?  While a WFI waits no other instruction commits (R229), and while
    a wake that a vector instruction started goes on none but a control instruction does (R181, R350).  A wake
    that a change of VSU_HOLD starts holds the SYNC.C that applies it alone (R182, log entry 65). -/
def mayIssue (e : Nat) (i : Inst) (s : State) : Bool :=
  let x := s.eng e
  canIssue e s && (!x.wfi || i.wfi) && (!(x.vsu.stall && x.vsu.inWake) || i.control)

/-- Does the condition of a WFI that waits hold (R229)? -/
def wfiDone (x : Engine) : Bool :=
  x.wfi && (x.trap.ipend &&& x.trap.ien != 0 || x.dbg.haltReq)

/-- The event taken at the boundary in place of an instruction.  A WFI that has waited completes
    first, and the event is then considered at the boundary after it (R229, R632); an imprecise VARITH is
    taken directly after the first VBARRIER that waits for its group, not before it (R352). -/
def eventBefore (i : Inst) (x : Engine) : Option Boundary :=
  if i.wfi && wfiDone x then none
  else if i.barrier && !x.barred then boundaryEvent { x with vec := { x.vec with imprecise := [] } }
  else boundaryEvent x

/-- What an instruction that faults leaves behind: the members of an open group and what it waited for are
    dropped, and the work behind it is discarded. -/
def discarded (e : Nat) (s : State) : State :=
  afterFault e (s.modEng e fun x => { x with
    vec := { x.vec with gpend := [] }, resp := [], twin := none, mid := false, way := {} })

/-- Does an instruction that faults come to its own work, so that it has issued (R651)? -/
def reachesWork (e : Nat) (i : Inst) (s : State) : Bool :=
  match (issueCheck e i).run s with
  | .ok _ _ => true
  | .error _ _ => false

/-- The fault of an instruction takes its exception; on an engine whose job has ended it is dropped with the
    instruction (R68).  `s0` is the state that the instruction began in. -/
def takeInstFault (e : Nat) (i : Inst) (v : Ev) (s0 s : State) : State :=
  if (s0.eng e).run = .stopping then haltWork e s
  else
    let s1 := if reachesWork e i s0 then s.modEng e fun x => { x with count := countIssued i x.count } else s
    takeFault e v (discarded e s1)

/-- An engine whose job has ended stops behind the instruction that it has brought to its end (R68). -/
def stopAfter (e : Nat) (s : State) : State := if (s.eng e).run = .stopping then haltWork e s else s

/-- The first event at a boundary where an event is ready (R256): an interrupt gives way to a fault of
    the instruction there, every other event comes before it (Table 5.7). -/
def takeFirst (e : Nat) (i : Inst) (b : Boundary) (s : State) : State :=
  match b, (issueBody e i).run s with
  | .interrupt _, .error (.ev v) s' => takeInstFault e i v s s'
  | b, _ => takeBoundary e b s

/-- One instruction of an engine.  An instruction that may not issue, and one that waits, commit nothing; an
    event ready at the boundary is taken in its place; a fault takes its exception. -/
def issue (e : Nat) (i : Inst) (s : State) : State :=
  if mayIssue e i s then
    match eventBefore i (s.eng e) with
    | some b => stepEnd e (takeFirst e i b s)
    | none =>
      match (issueBody e i).run s with
      | .ok flow s' => stopAfter e (stepEnd e (retire e i flow s'))
      | .error .wait s' => s'
      | .error (.ev v) s' => stepEnd e (takeInstFault e i v s s')
  else s

/-- The outcome of one instruction of an engine. -/
def issueOut (e : Eng) (i : Inst) (s : State) : Host.Outcome State Fault Refusal :=
  .next (issue e.val i s)

end Sys2Proof.Machine
end

