-- ==== Sys2Proof/Machine/Alu.lean ====
section
/-! DEFINITION. Integer and logic instructions, immediates, carry and multiply (R194 to R199). -/

namespace Sys2Proof.Machine

/-! ### Operations -/

/-- Signed less-than of two words. -/
def sltW (a b : Word) : Bool := decide (a.toInt < b.toInt)

/-- The count of leading zero bits (R194). -/
def clzW (a : Word) : Word := BitVec.ofNat 64 (64 - (if a = 0 then 0 else Nat.log2 a.toNat + 1))

/-- The count of trailing zero bits (R194). -/
def ctzW (a : Word) : Word :=
  BitVec.ofNat 64 (((List.range 64).find? fun i => a.getLsbD i).getD 64)

/-- The number of one bits (R194). -/
def popcW (a : Word) : Word := BitVec.ofNat 64 ((List.range 64).filter fun i => a.getLsbD i).length

/-- The shift amount of a register: bits 5:0 (R194). -/
def amount (b : Word) : Nat := (b.setWidth 6).toNat

/-- ADC's 65-bit sum (R198). -/
def adcSum (a b c : Word) : Nat := a.toNat + b.toNat + (c &&& 1).toNat

/-- SBB's borrow (R198): ga below gb plus gc[0], unsigned. -/
def sbbBorrow (a b c : Word) : Bool := decide (a.toNat < b.toNat + (c &&& 1).toNat)

/-- A 128-bit product as its two halves, signed (R199). -/
def mulwS (a b : Word) : Word × Word :=
  let p := BitVec.ofInt 128 (a.toInt * b.toInt)
  (p.setWidth 64, p.extractLsb' 64 64)

/-- A 128-bit product as its two halves, unsigned (R199). -/
def mulwU (a b : Word) : Word × Word :=
  let p := BitVec.ofNat 128 (a.toNat * b.toNat)
  (p.setWidth 64, p.extractLsb' 64 64)

/-! ### Shapes of instructions -/

/-- An instruction that writes a function of the engine's registers to gd. -/
def regInst (e : Nat) (w : BitVec 32) (rd : Reg) (f : Engine → Word) : Inst :=
  { word := w, run := do updE e (fun x => x.setReg rd (f x)); return .next }

/-- An instruction that writes a function of the engine's registers to the pair gd (R188). -/
def pairInst (e : Nat) (w : BitVec 32) (rd : Reg) (f : Engine → Word × Word) : Inst :=
  { word := w, illegal := !pairOk rd,
    run := do updE e (fun x => x.setPair rd (f x).1 (f x).2); return .next }

/-- Major opcode 0x01 with two sources. -/
def aluInst (e : Nat) (rd ra rb : Reg) (fn : BitVec 11) (f : Word → Word → Word) : Inst :=
  regInst e (wordR 0x01 rd ra rb fn) rd fun x => f (x.reg ra) (x.reg rb)

/-- Major opcode 0x01 with one source. -/
def unaryInst (e : Nat) (rd ra : Reg) (fn : BitVec 11) (f : Word → Word) : Inst :=
  regInst e (wordR 0x01 rd ra 0 fn) rd fun x => f (x.reg ra)

/-- An immediate instruction. -/
def immInst (e : Nat) (op : BitVec 6) (rd ra : Reg) (imm : BitVec 16) (f : Word → Word) : Inst :=
  regInst e (wordI op rd ra imm) rd fun x => f (x.reg ra)

/-- A shift by an immediate (Table 4.4, opcode 0x0A): imm[15:8] selects, imm[5:0] is the amount. -/
def shiftInst (e : Nat) (sel : BitVec 8) (rd ra : Reg) (n : BitVec 6) (f : Word → Nat → Word) : Inst :=
  regInst e (wordI 0x0A rd ra (sel ++ (0 : BitVec 2) ++ n)) rd fun x => f (x.reg ra) n.toNat

/-! ### The instructions -/

/-- ADD (Table 4.3). gd := ga + gb modulo 2^64 -/
def addInst (e : Nat) (rd ra rb : Reg) : Inst :=
  aluInst e rd ra rb 0x000 fun a b => a + b

/-- ADD on an engine. -/
def execAdd (e : Eng) (rd ra rb : Reg) (s : State) : Host.Outcome State Fault Refusal :=
  issueOut e (addInst e.val rd ra rb) s

/-- SUB (Table 4.3). gd := ga - gb -/
def subInst (e : Nat) (rd ra rb : Reg) : Inst :=
  aluInst e rd ra rb 0x001 fun a b => a - b

/-- SUB on an engine. -/
def execSub (e : Eng) (rd ra rb : Reg) (s : State) : Host.Outcome State Fault Refusal :=
  issueOut e (subInst e.val rd ra rb) s

/-- AND (Table 4.3) -/
def andInst (e : Nat) (rd ra rb : Reg) : Inst :=
  aluInst e rd ra rb 0x002 fun a b => a &&& b

/-- AND on an engine. -/
def execAnd (e : Eng) (rd ra rb : Reg) (s : State) : Host.Outcome State Fault Refusal :=
  issueOut e (andInst e.val rd ra rb) s

/-- OR (Table 4.3) -/
def orInst (e : Nat) (rd ra rb : Reg) : Inst :=
  aluInst e rd ra rb 0x003 fun a b => a ||| b

/-- OR on an engine. -/
def execOr (e : Eng) (rd ra rb : Reg) (s : State) : Host.Outcome State Fault Refusal :=
  issueOut e (orInst e.val rd ra rb) s

/-- XOR (Table 4.3) -/
def xorInst (e : Nat) (rd ra rb : Reg) : Inst :=
  aluInst e rd ra rb 0x004 fun a b => a ^^^ b

/-- XOR on an engine. -/
def execXor (e : Eng) (rd ra rb : Reg) (s : State) : Host.Outcome State Fault Refusal :=
  issueOut e (xorInst e.val rd ra rb) s

/-- ANDN (Table 4.3). gd := ga AND NOT gb -/
def andnInst (e : Nat) (rd ra rb : Reg) : Inst :=
  aluInst e rd ra rb 0x005 fun a b => a &&& ~~~b

/-- ANDN on an engine. -/
def execAndn (e : Eng) (rd ra rb : Reg) (s : State) : Host.Outcome State Fault Refusal :=
  issueOut e (andnInst e.val rd ra rb) s

/-- CLT (Table 4.3). Signed comparison -/
def cltInst (e : Nat) (rd ra rb : Reg) : Inst :=
  aluInst e rd ra rb 0x006 fun a b => boolWord (sltW a b)

/-- CLT on an engine. -/
def execClt (e : Eng) (rd ra rb : Reg) (s : State) : Host.Outcome State Fault Refusal :=
  issueOut e (cltInst e.val rd ra rb) s

/-- CLTU (Table 4.3). Unsigned comparison -/
def cltuInst (e : Nat) (rd ra rb : Reg) : Inst :=
  aluInst e rd ra rb 0x007 fun a b => boolWord (decide (a < b))

/-- CLTU on an engine. -/
def execCltu (e : Eng) (rd ra rb : Reg) (s : State) : Host.Outcome State Fault Refusal :=
  issueOut e (cltuInst e.val rd ra rb) s

/-- CEQ (Table 4.3) -/
def ceqInst (e : Nat) (rd ra rb : Reg) : Inst :=
  aluInst e rd ra rb 0x008 fun a b => boolWord (decide (a = b))

/-- CEQ on an engine. -/
def execCeq (e : Eng) (rd ra rb : Reg) (s : State) : Host.Outcome State Fault Refusal :=
  issueOut e (ceqInst e.val rd ra rb) s

/-- SHL (Table 4.3) -/
def shlInst (e : Nat) (rd ra rb : Reg) : Inst :=
  aluInst e rd ra rb 0x009 fun a b => a <<< amount b

/-- SHL on an engine. -/
def execShl (e : Eng) (rd ra rb : Reg) (s : State) : Host.Outcome State Fault Refusal :=
  issueOut e (shlInst e.val rd ra rb) s

/-- SHR (Table 4.3). Logical -/
def shrInst (e : Nat) (rd ra rb : Reg) : Inst :=
  aluInst e rd ra rb 0x00A fun a b => a >>> amount b

/-- SHR on an engine. -/
def execShr (e : Eng) (rd ra rb : Reg) (s : State) : Host.Outcome State Fault Refusal :=
  issueOut e (shrInst e.val rd ra rb) s

/-- SAR (Table 4.3). Arithmetic -/
def sarInst (e : Nat) (rd ra rb : Reg) : Inst :=
  aluInst e rd ra rb 0x00B fun a b => a.sshiftRight (amount b)

/-- SAR on an engine. -/
def execSar (e : Eng) (rd ra rb : Reg) (s : State) : Host.Outcome State Fault Refusal :=
  issueOut e (sarInst e.val rd ra rb) s

/-- ROR (Table 4.3) -/
def rorInst (e : Nat) (rd ra rb : Reg) : Inst :=
  aluInst e rd ra rb 0x00C fun a b => a.rotateRight (amount b)

/-- ROR on an engine. -/
def execRor (e : Eng) (rd ra rb : Reg) (s : State) : Host.Outcome State Fault Refusal :=
  issueOut e (rorInst e.val rd ra rb) s

/-- MIN (Table 4.3). Signed minimum -/
def minInst (e : Nat) (rd ra rb : Reg) : Inst :=
  aluInst e rd ra rb 0x00D fun a b => if sltW b a then b else a

/-- MIN on an engine. -/
def execMin (e : Eng) (rd ra rb : Reg) (s : State) : Host.Outcome State Fault Refusal :=
  issueOut e (minInst e.val rd ra rb) s

/-- MAX (Table 4.3). Signed maximum -/
def maxInst (e : Nat) (rd ra rb : Reg) : Inst :=
  aluInst e rd ra rb 0x00E fun a b => if sltW a b then b else a

/-- MAX on an engine. -/
def execMax (e : Eng) (rd ra rb : Reg) (s : State) : Host.Outcome State Fault Refusal :=
  issueOut e (maxInst e.val rd ra rb) s

/-- MINU (Table 4.3). Unsigned minimum -/
def minuInst (e : Nat) (rd ra rb : Reg) : Inst :=
  aluInst e rd ra rb 0x00F fun a b => if b < a then b else a

/-- MINU on an engine. -/
def execMinu (e : Eng) (rd ra rb : Reg) (s : State) : Host.Outcome State Fault Refusal :=
  issueOut e (minuInst e.val rd ra rb) s

/-- MAXU (Table 4.3). Unsigned maximum -/
def maxuInst (e : Nat) (rd ra rb : Reg) : Inst :=
  aluInst e rd ra rb 0x010 fun a b => if a < b then b else a

/-- MAXU on an engine. -/
def execMaxu (e : Eng) (rd ra rb : Reg) (s : State) : Host.Outcome State Fault Refusal :=
  issueOut e (maxuInst e.val rd ra rb) s

/-- CLZ (Table 4.3) -/
def clzInst (e : Nat) (rd ra : Reg) : Inst :=
  unaryInst e rd ra 0x011 fun a => clzW a

/-- CLZ on an engine. -/
def execClz (e : Eng) (rd ra : Reg) (s : State) : Host.Outcome State Fault Refusal :=
  issueOut e (clzInst e.val rd ra) s

/-- CTZ (Table 4.3) -/
def ctzInst (e : Nat) (rd ra : Reg) : Inst :=
  unaryInst e rd ra 0x012 fun a => ctzW a

/-- CTZ on an engine. -/
def execCtz (e : Eng) (rd ra : Reg) (s : State) : Host.Outcome State Fault Refusal :=
  issueOut e (ctzInst e.val rd ra) s

/-- POPC (Table 4.3) -/
def popcInst (e : Nat) (rd ra : Reg) : Inst :=
  unaryInst e rd ra 0x013 fun a => popcW a

/-- POPC on an engine. -/
def execPopc (e : Eng) (rd ra : Reg) (s : State) : Host.Outcome State Fault Refusal :=
  issueOut e (popcInst e.val rd ra) s

/-- SEXT.B (Table 4.3) -/
def sextBInst (e : Nat) (rd ra : Reg) : Inst :=
  unaryInst e rd ra 0x014 fun a => (a.setWidth 8).signExtend 64

/-- SEXT on an engine. -/
def execSextB (e : Eng) (rd ra : Reg) (s : State) : Host.Outcome State Fault Refusal :=
  issueOut e (sextBInst e.val rd ra) s

/-- SEXT.H (Table 4.3) -/
def sextHInst (e : Nat) (rd ra : Reg) : Inst :=
  unaryInst e rd ra 0x015 fun a => (a.setWidth 16).signExtend 64

/-- SEXT on an engine. -/
def execSextH (e : Eng) (rd ra : Reg) (s : State) : Host.Outcome State Fault Refusal :=
  issueOut e (sextHInst e.val rd ra) s

/-- SEXT.W (Table 4.3) -/
def sextWInst (e : Nat) (rd ra : Reg) : Inst :=
  unaryInst e rd ra 0x016 fun a => (a.setWidth 32).signExtend 64

/-- SEXT on an engine. -/
def execSextW (e : Eng) (rd ra : Reg) (s : State) : Host.Outcome State Fault Refusal :=
  issueOut e (sextWInst e.val rd ra) s

/-- ZEXT.W (Table 4.3) -/
def zextWInst (e : Nat) (rd ra : Reg) : Inst :=
  unaryInst e rd ra 0x017 fun a => (a.setWidth 32).setWidth 64

/-- ZEXT on an engine. -/
def execZextW (e : Eng) (rd ra : Reg) (s : State) : Host.Outcome State Fault Refusal :=
  issueOut e (zextWInst e.val rd ra) s

/-- ADDI (Table 4.4) -/
def addiInst (e : Nat) (rd ra : Reg) (imm : BitVec 16) : Inst :=
  immInst e 0x04 rd ra imm fun a => a + imm.signExtend 64

/-- ADDI on an engine. -/
def execAddi (e : Eng) (rd ra : Reg) (imm : BitVec 16) (s : State) : Host.Outcome State Fault Refusal :=
  issueOut e (addiInst e.val rd ra imm) s

/-- ANDI (Table 4.4). Zero-extended -/
def andiInst (e : Nat) (rd ra : Reg) (imm : BitVec 16) : Inst :=
  immInst e 0x05 rd ra imm fun a => a &&& imm.setWidth 64

/-- ANDI on an engine. -/
def execAndi (e : Eng) (rd ra : Reg) (imm : BitVec 16) (s : State) : Host.Outcome State Fault Refusal :=
  issueOut e (andiInst e.val rd ra imm) s

/-- ORI (Table 4.4). Zero-extended -/
def oriInst (e : Nat) (rd ra : Reg) (imm : BitVec 16) : Inst :=
  immInst e 0x06 rd ra imm fun a => a ||| imm.setWidth 64

/-- ORI on an engine. -/
def execOri (e : Eng) (rd ra : Reg) (imm : BitVec 16) (s : State) : Host.Outcome State Fault Refusal :=
  issueOut e (oriInst e.val rd ra imm) s

/-- XORI (Table 4.4). Zero-extended -/
def xoriInst (e : Nat) (rd ra : Reg) (imm : BitVec 16) : Inst :=
  immInst e 0x07 rd ra imm fun a => a ^^^ imm.setWidth 64

/-- XORI on an engine. -/
def execXori (e : Eng) (rd ra : Reg) (imm : BitVec 16) (s : State) : Host.Outcome State Fault Refusal :=
  issueOut e (xoriInst e.val rd ra imm) s

/-- CLTI (Table 4.4) -/
def cltiInst (e : Nat) (rd ra : Reg) (imm : BitVec 16) : Inst :=
  immInst e 0x08 rd ra imm fun a => boolWord (sltW a (imm.signExtend 64))

/-- CLTI on an engine. -/
def execClti (e : Eng) (rd ra : Reg) (imm : BitVec 16) (s : State) : Host.Outcome State Fault Refusal :=
  issueOut e (cltiInst e.val rd ra imm) s

/-- CLTIU (Table 4.4). The immediate is sign-extended, the comparison unsigned -/
def cltiuInst (e : Nat) (rd ra : Reg) (imm : BitVec 16) : Inst :=
  immInst e 0x09 rd ra imm fun a => boolWord (decide (a < imm.signExtend 64))

/-- CLTIU on an engine. -/
def execCltiu (e : Eng) (rd ra : Reg) (imm : BitVec 16) (s : State) : Host.Outcome State Fault Refusal :=
  issueOut e (cltiuInst e.val rd ra imm) s

/-- SHLI (Table 4.4) -/
def shliInst (e : Nat) (rd ra : Reg) (n : BitVec 6) : Inst :=
  shiftInst e 0 rd ra n fun a n => a <<< n

/-- SHLI on an engine. -/
def execShli (e : Eng) (rd ra : Reg) (n : BitVec 6) (s : State) : Host.Outcome State Fault Refusal :=
  issueOut e (shliInst e.val rd ra n) s

/-- SHRI (Table 4.4) -/
def shriInst (e : Nat) (rd ra : Reg) (n : BitVec 6) : Inst :=
  shiftInst e 1 rd ra n fun a n => a >>> n

/-- SHRI on an engine. -/
def execShri (e : Eng) (rd ra : Reg) (n : BitVec 6) (s : State) : Host.Outcome State Fault Refusal :=
  issueOut e (shriInst e.val rd ra n) s

/-- SARI (Table 4.4) -/
def sariInst (e : Nat) (rd ra : Reg) (n : BitVec 6) : Inst :=
  shiftInst e 2 rd ra n fun a n => a.sshiftRight n

/-- SARI on an engine. -/
def execSari (e : Eng) (rd ra : Reg) (n : BitVec 6) (s : State) : Host.Outcome State Fault Refusal :=
  issueOut e (sariInst e.val rd ra n) s

/-- RORI (Table 4.4) -/
def roriInst (e : Nat) (rd ra : Reg) (n : BitVec 6) : Inst :=
  shiftInst e 3 rd ra n fun a n => a.rotateRight n

/-- RORI on an engine. -/
def execRori (e : Eng) (rd ra : Reg) (n : BitVec 6) (s : State) : Host.Outcome State Fault Refusal :=
  issueOut e (roriInst e.val rd ra n) s

/-- LDI (R196). gd := imm shifted left by 16 times hw -/
def ldiInst (e : Nat) (rd : Reg) (imm : BitVec 16) (hw : BitVec 2) : Inst :=
  regInst e (wordI 0x0B rd ((0 : BitVec 3) ++ hw) imm) rd fun _ =>
    imm.setWidth 64 <<< (16 * hw.toNat)

/-- LDI on an engine. -/
def execLdi (e : Eng) (rd : Reg) (imm : BitVec 16) (hw : BitVec 2) (s : State) : Host.Outcome State Fault Refusal :=
  issueOut e (ldiInst e.val rd imm hw) s

/-- INSI (R196). imm replaces halfword hw of gd -/
def insiInst (e : Nat) (rd : Reg) (imm : BitVec 16) (hw : BitVec 2) : Inst :=
  regInst e (wordI 0x0C rd ((0 : BitVec 3) ++ hw) imm) rd fun x =>
    (x.reg rd &&& ~~~((0xFFFF : Word) <<< (16 * hw.toNat))) |||
      (imm.setWidth 64 <<< (16 * hw.toNat))

/-- INSI on an engine. -/
def execInsi (e : Eng) (rd : Reg) (imm : BitVec 16) (hw : BitVec 2) (s : State) : Host.Outcome State Fault Refusal :=
  issueOut e (insiInst e.val rd imm hw) s

/-- ADC (R198). The 65-bit sum in the pair gd -/
def adcInst (e : Nat) (rd ra rb rc : Reg) : Inst :=
  pairInst e (wordR4 0x03 rd ra rb rc 0) rd fun x =>
    let n := adcSum (x.reg ra) (x.reg rb) (x.reg rc)
    (BitVec.ofNat 64 n, BitVec.ofNat 64 (n / 2 ^ 64))

/-- ADC on an engine. -/
def execAdc (e : Eng) (rd ra rb rc : Reg) (s : State) : Host.Outcome State Fault Refusal :=
  issueOut e (adcInst e.val rd ra rb rc) s

/-- SBB (R198). The difference and the borrow in the pair gd -/
def sbbInst (e : Nat) (rd ra rb rc : Reg) : Inst :=
  pairInst e (wordR4 0x03 rd ra rb rc 1) rd fun x =>
    (x.reg ra - x.reg rb - (x.reg rc &&& 1), boolWord (sbbBorrow (x.reg ra) (x.reg rb) (x.reg rc)))

/-- SBB on an engine. -/
def execSbb (e : Eng) (rd ra rb rc : Reg) (s : State) : Host.Outcome State Fault Refusal :=
  issueOut e (sbbInst e.val rd ra rb rc) s

/-- MUL (Table 4.5). The low 64 bits of the product -/
def mulInst (e : Nat) (rd ra rb : Reg) : Inst :=
  regInst e (wordR 0x02 rd ra rb 0x000) rd fun x => x.reg ra * x.reg rb

/-- MUL on an engine. -/
def execMul (e : Eng) (rd ra rb : Reg) (s : State) : Host.Outcome State Fault Refusal :=
  issueOut e (mulInst e.val rd ra rb) s

/-- MULW (Table 4.5). The signed 128-bit product in the pair gd -/
def mulwInst (e : Nat) (rd ra rb : Reg) : Inst :=
  pairInst e (wordR 0x02 rd ra rb 0x001) rd fun x => mulwS (x.reg ra) (x.reg rb)

/-- MULW on an engine. -/
def execMulw (e : Eng) (rd ra rb : Reg) (s : State) : Host.Outcome State Fault Refusal :=
  issueOut e (mulwInst e.val rd ra rb) s

/-- MULWU (Table 4.5). The unsigned 128-bit product in the pair gd -/
def mulwuInst (e : Nat) (rd ra rb : Reg) : Inst :=
  pairInst e (wordR 0x02 rd ra rb 0x002) rd fun x => mulwU (x.reg ra) (x.reg rb)

/-- MULWU on an engine. -/
def execMulwu (e : Eng) (rd ra rb : Reg) (s : State) : Host.Outcome State Fault Refusal :=
  issueOut e (mulwuInst e.val rd ra rb) s

end Sys2Proof.Machine
end

