-- ==== Sys2Proof/Machine/Decimal.lean ====
section
/-! DEFINITION. Packed decimal (R203 to R206, R369 to R375): values, scales, rounding, overflow, and
the add of the memory controller (R116). -/

namespace Sys2Proof.Machine

/-! ### P15 and P31 values (R369 to R371) -/

/-- The magnitude of `n` BCD digits above the sign nibble of a packed value. -/
def digitsOf : Nat → Nat → Nat
  | 0, _ => 0
  | n + 1, v => v % 16 + 10 * digitsOf n (v / 16)

/-- Are the lowest `n` nibbles of a number decimal digits? -/
def digitsOk : Nat → Nat → Bool
  | 0, _ => true
  | n + 1, v => decide (v % 16 < 10) && digitsOk n (v / 16)

/-- A number as `n` BCD digits, digit 0 lowest. -/
def toDigits : Nat → Nat → Nat
  | 0, _ => 0
  | n + 1, d => d % 10 + 16 * toDigits n (d / 10)

/-- The value of a packed number of `n` digits; `none` for an invalid digit or sign code. -/
def decRead (n v : Nat) : Option Int :=
  if v % 16 < 10 || !digitsOk n (v / 16) then none
  else
    let d : Int := digitsOf n (v / 16)
    some (if v % 16 = 0xB ∨ v % 16 = 0xD then -d else d)

/-- A packed number of `n` digits: sign code 0xC, or 0xD below zero. -/
def decWrite (n : Nat) (x : Int) : Nat := 16 * toDigits n x.natAbs + (if x < 0 then 0xD else 0xC)

/-- The digits of P15, P31 and W62. -/
def p15Digits : Nat := 15
/-- The digits of P31. -/
def p31Digits : Nat := 31
/-- The digits of W62. -/
def w62Digits : Nat := 62

/-! ### Rounding (R373) -/

/-- Does rounding add 1 to the kept digits `d` when the discarded fraction is `num ÷ den` (Table
    8.13)?  The value 7 rounds as 0. -/
def decUp (drm : BitVec 3) (neg : Bool) (d num den : Nat) : Bool :=
  let twice := 2 * num
  match drm.toNat with
  | 1 => decide (den ≤ twice)
  | 2 => decide (den < twice)
  | 3 => false
  | 4 => num != 0
  | 5 => num != 0 && neg
  | 6 => num != 0 && !neg
  | _ => decide (den < twice) || (twice == den && d % 2 == 1)

/-- Kept digits rounded, and DINX. -/
def decRound (drm : BitVec 3) (neg : Bool) (d num den : Nat) : Nat × Bool :=
  (if num != 0 && decUp drm neg d num den then d + 1 else d, num != 0)

/-- What a decimal element operation delivers: its value and the flags DINX, DOVF and DDATA. -/
structure DRes where
  val : Int
  dinx : Bool := false
  dovf : Bool := false
  ddata : Bool := false
  deriving DecidableEq, Repr

/-- A magnitude with a sign. -/
def signed (neg : Bool) (d : Nat) : Int := if neg then -(d : Int) else d

/-- R374: a rounded magnitude above the largest of the type saturates with DOVF. -/
def decLimit (digits : Nat) (neg : Bool) (d : Nat) (dinx : Bool) : DRes :=
  if 10 ^ digits ≤ d then { val := signed neg (10 ^ digits - 1), dinx := dinx, dovf := true }
  else { val := signed neg d, dinx := dinx }

/-- An exact value `x` at scale `sa` delivered at scale `sd` in a type of `digits` digits (R372 to
    R374). -/
def decDeliver (drm : BitVec 3) (digits sa sd : Nat) (x : Int) : DRes :=
  let neg := decide (x < 0)
  let m := x.natAbs
  if sa ≤ sd then decLimit digits neg (m * 10 ^ (sd - sa)) false
  else
    let k := 10 ^ (sa - sd)
    let (d, nx) := decRound drm neg (m / k) (m % k) k
    decLimit digits neg d nx

/-! ### Scalar packed digits (R203 to R205) -/

/-- DAJ of R204 with the mask of Table 4.6. -/
def daj (mask a b : Word) : Word :=
  let k := ~~~(a ^^^ b) &&& mask
  a - ((k >>> 2) ||| (k >>> 3))

/-- What DADD and DSUB come to: a value, saturated or not, or a decimal exception with its DETAIL. -/
inductive DScalar
  | val (w : Word) (saturated : Bool)
  | exc (detail : Byte)
  deriving DecidableEq, Repr

/-- DADD, and DSUB with `sub` (R205): `trap` is DCTL.OVF. -/
def dadd (sub trap : Bool) (a b : Word) : DScalar :=
  match decRead 15 a.toNat, decRead 15 b.toNat with
  | some x, some y =>
    let z := if sub then x - y else x + y
    let r := decLimit 15 (decide (z < 0)) z.natAbs false
    if r.dovf && trap then .exc 1 else .val (BitVec.ofNat 64 (decWrite 15 r.val)) r.dovf
  | _, _ => .exc 2

/-- The memory controller's add of a P31 operand (R116): the status, and the value written if any. -/
def damo (trap : Bool) (mem opnd : Nat) : Nat × Option Nat :=
  match decRead 31 mem, decRead 31 opnd with
  | some x, some y =>
    let z := x + y
    let r := decLimit 31 (decide (z < 0)) z.natAbs false
    if !r.dovf then (0, some (decWrite 31 r.val))
    else if trap then (2, none)
    else (1, some (decWrite 31 r.val))
  | _, _ => (3, none)

/-- The memory controller's AMO (Table 4.11): 0 ADD, 1 XOR, 2 MIN, 3 MAX, 4 SWP. -/
def amoOp (k : Nat) (old v : Word) : Word :=
  match k with
  | 0 => old + v
  | 1 => old ^^^ v
  | 2 => if v.toInt < old.toInt then v else old
  | 3 => if old.toInt < v.toInt then v else old
  | _ => v

end Sys2Proof.Machine
end

