-- ==== Sys2Proof/Machine/Memory.lean ====
section
/-! DEFINITION. Scalar loads and stores (R214 to R219). -/

namespace Sys2Proof.Machine

/-! ### Compared writes of paired squares (R412, R414) -/

/-- A scalar write that the twins of a pair compare: what the primary's access reads first (`probe`), the write
    for both (`perform`), and what each engine does in its own caches once it is done (`follow`). -/
structure TwinWrite where
  probe : EM Unit
  perform : EM Word
  follow : Word → EM Unit

/-- The write performed by the engine itself. -/
def TwinWrite.run (w : TwinWrite) : EM Word := do
  w.probe
  let r ← w.perform
  w.follow r
  return r

/-- The primary performs a compared write for both: its twin gets the result, or the fault that the access met
    (R412; that the twin takes it too is the model's, log entry 65).  No event parts the twin from it. -/
def performForBoth (t : Nat) (w : TwinWrite) : EM Word := do
  updE t fun x => { x with mid := true }
  let r ← tryCatch w.run fun st => do
    match st with
    | .ev v => updE t fun x => { x with twin := some (.faulted v) }
    | .wait => pure ()
    throw st
  updE t fun x => { x with twin := some (.performed r) }
  return r

/-- A divergence of a compared scalar write (R414): the primary's address, after an uncorrectable error that the
    primary's access meets (Table 5.8).  R414 gives no ACC: here it is 3 for stores and atomics alike (log entry
    20). -/
def divergeScalar (partner : Bool) (w : TwinWrite) (a : Word) : EM Word := do
  if !partner then w.probe
  raise { code := 0x11, acc := 3, faddr := a }

/-- A scalar write of a paired engine to the job space: the twins compare address, size and data, and
    the primary performs it for both.  A twin that comes first posts its write and waits. -/
def compared (e : Nat) (kind : Byte) (va : Word) (size : Nat) (data : BitVec 128) (w : TwinWrite) :
    EM Word := do
  let s ← get
  match twinOf s e with
  | none => w.run
  | some t =>
    let partner := isPartner s (e / 9)
    let mine := TwinTok.posted kind va size data
    let post : EM Word := do
      updE e fun x => { x with twin := some mine }
      hold
    match (s.eng e).twin with
    | some (.performed r) =>
      w.follow r
      return r
    | some (.faulted v) => raise v
    | some (.diverged a) => divergeScalar partner w a
    | _ =>
      match (s.eng t).twin with
      | some (.posted k a n d) =>
        if TwinTok.posted k a n d = mine then
          if partner then post else performForBoth t w
        else
          let a := if partner then a else va
          upd (health 4 (BitVec.ofNat 16 (e / 9 * 16 + e % 9)) [])
          updE t fun x => { x with twin := some (.diverged a), mid := true }
          divergeScalar partner w a
      | _ => post

/-- Is a write to this address compared between twins? -/
def comparedAt (va : Word) : Bool :=
  match regionOf va with
  | .job => true
  | _ => false

/-- A write that the twins compare when it goes to the job space.  A debug write is not compared: the
    primary performs it, and on a partner it is discarded (R640). -/
def comparedWrite (e : Nat) (kind : Byte) (va : Word) (size : Nat) (data : BitVec 128) (w : TwinWrite) :
    EM Word := do
  let s ← get
  if !comparedAt va then w.run
  else if (s.eng e).dbg.feed then (if isPartner s (e / 9) then return 0 else w.run)
  else compared e kind va size data w

/-! ### Loads and stores (R214 to R219) -/

/-- The misaligned-access fault of R215 and its bus error. -/
def alignCheck (x : Engine) (k : Acc) (va : Word) (n : Nat) : EM Unit := do
  if va.toNat % n ≠ 0 then
    if !x.mode.getLsbD 3 then raise { code := 0x05, acc := k.code, faddr := va }
    else if !splitRegion va then raise (busEv k va)

/-- The effective address of a load or a store (R214). -/
def effAddr (x : Engine) (ra : Reg) (imm : BitVec 16) : Word := ea48 (x.reg ra + imm.signExtend 64)

/-- A scalar load of `n` bytes: the value, zero-extended. -/
def loadAt (e : Nat) (va : Word) (n : Nat) : EM Word := do
  let x ← engM e
  match windowOf va with
  | some w =>
    windowCheck x .load w true false true va n
    windowLoad e w
  | none =>
    alignCheck x .load va n
    let ts ← resolveOnce e va (resolveParts e x.rights .load .r false (parts va n))
    return BitVec.ofNat 64 (leNat (← readParts e .load false ts))

/-- Can every part of a store to the host be sent (R217, Table 5.8)? -/
def reachParts (k : Acc) : Bool → List (Word × Nat × Target) → EM Unit
  | _, [] => return ()
  | high, (va, _, t) :: ts => do
    match t.place with
    | .host _ => if !hostOpen (← get) then markHigh high (raise (busEv k va))
    | _ => pure ()
    reachParts k true ts

/-- A scalar store of the low `n` bytes of a value. -/
def storeAt (e : Nat) (va : Word) (n : Nat) (v : Word) : EM Unit := do
  let x ← engM e
  match windowOf va with
  | some w =>
    windowCheck x .store w false true true va n
    windowStore e w v
  | none =>
    alignCheck x .store va n
    let ts ← resolveOnce e va (resolveParts e x.rights .store .w false (parts va n))
    reachParts .store false ts
    bufferRoom e ts
    let bs := leBytes n v.toNat
    let _ ← comparedWrite e 0 va n ((v.setWidth (8 * n)).setWidth 128)
      { probe := probeParts .store false ts bs
        perform := do
          upd (writeParts e .store ts bs)
          return 0
        follow := fun _ => upd (updateParts e ts bs) }

/-- A load instruction: the effective address, the access, and the value into gd. -/
def loadInst (e : Nat) (op : BitVec 6) (rd ra : Reg) (imm : BitVec 16) (n : Nat) (f : Word → Word) :
    Inst :=
  { word := wordI op rd ra imm, mem := true,
    run := do
      let v ← loadAt e (effAddr (← engM e) ra imm) n
      updE e fun x => x.setReg rd (f v)
      return .next }

/-- A store instruction. -/
def storeInst (e : Nat) (op : BitVec 6) (rs ra : Reg) (imm : BitVec 16) (n : Nat) : Inst :=
  { word := wordI op rs ra imm, mem := true,
    run := do
      let x ← engM e
      storeAt e (effAddr x ra imm) n (x.reg rs)
      return .next }

/-! ### The instructions -/

/-- LD.B (Table 4.10): a sign-extended byte. -/
def ldBInst (e : Nat) (rd ra : Reg) (imm : BitVec 16) : Inst :=
  loadInst e 0x14 rd ra imm 1 fun v => (v.setWidth 8).signExtend 64

/-- LD.B on an engine. -/
def execLdB (e : Eng) (rd ra : Reg) (imm : BitVec 16) (s : State) :
    Host.Outcome State Fault Refusal :=
  issueOut e (ldBInst e.val rd ra imm) s

/-- LD.BU (Table 4.10): a zero-extended byte. -/
def ldBuInst (e : Nat) (rd ra : Reg) (imm : BitVec 16) : Inst :=
  loadInst e 0x15 rd ra imm 1 id

/-- LD.BU on an engine. -/
def execLdBu (e : Eng) (rd ra : Reg) (imm : BitVec 16) (s : State) :
    Host.Outcome State Fault Refusal :=
  issueOut e (ldBuInst e.val rd ra imm) s

/-- LD.H (Table 4.10): a sign-extended halfword. -/
def ldHInst (e : Nat) (rd ra : Reg) (imm : BitVec 16) : Inst :=
  loadInst e 0x16 rd ra imm 2 fun v => (v.setWidth 16).signExtend 64

/-- LD.H on an engine. -/
def execLdH (e : Eng) (rd ra : Reg) (imm : BitVec 16) (s : State) :
    Host.Outcome State Fault Refusal :=
  issueOut e (ldHInst e.val rd ra imm) s

/-- LD.HU (Table 4.10): a zero-extended halfword. -/
def ldHuInst (e : Nat) (rd ra : Reg) (imm : BitVec 16) : Inst :=
  loadInst e 0x17 rd ra imm 2 id

/-- LD.HU on an engine. -/
def execLdHu (e : Eng) (rd ra : Reg) (imm : BitVec 16) (s : State) :
    Host.Outcome State Fault Refusal :=
  issueOut e (ldHuInst e.val rd ra imm) s

/-- LD.W (Table 4.10): a sign-extended word. -/
def ldWInst (e : Nat) (rd ra : Reg) (imm : BitVec 16) : Inst :=
  loadInst e 0x18 rd ra imm 4 fun v => (v.setWidth 32).signExtend 64

/-- LD.W on an engine. -/
def execLdW (e : Eng) (rd ra : Reg) (imm : BitVec 16) (s : State) :
    Host.Outcome State Fault Refusal :=
  issueOut e (ldWInst e.val rd ra imm) s

/-- LD.WU (Table 4.10): a zero-extended word. -/
def ldWuInst (e : Nat) (rd ra : Reg) (imm : BitVec 16) : Inst :=
  loadInst e 0x19 rd ra imm 4 id

/-- LD.WU on an engine. -/
def execLdWu (e : Eng) (rd ra : Reg) (imm : BitVec 16) (s : State) :
    Host.Outcome State Fault Refusal :=
  issueOut e (ldWuInst e.val rd ra imm) s

/-- LD.D (Table 4.10): 64 bits. -/
def ldDInst (e : Nat) (rd ra : Reg) (imm : BitVec 16) : Inst :=
  loadInst e 0x1A rd ra imm 8 id

/-- LD.D on an engine. -/
def execLdD (e : Eng) (rd ra : Reg) (imm : BitVec 16) (s : State) :
    Host.Outcome State Fault Refusal :=
  issueOut e (ldDInst e.val rd ra imm) s

/-- ST.B (Table 4.10). -/
def stBInst (e : Nat) (rs ra : Reg) (imm : BitVec 16) : Inst :=
  storeInst e 0x1B rs ra imm 1

/-- ST.B on an engine. -/
def execStB (e : Eng) (rs ra : Reg) (imm : BitVec 16) (s : State) :
    Host.Outcome State Fault Refusal :=
  issueOut e (stBInst e.val rs ra imm) s

/-- ST.H (Table 4.10). -/
def stHInst (e : Nat) (rs ra : Reg) (imm : BitVec 16) : Inst :=
  storeInst e 0x1C rs ra imm 2

/-- ST.H on an engine. -/
def execStH (e : Eng) (rs ra : Reg) (imm : BitVec 16) (s : State) :
    Host.Outcome State Fault Refusal :=
  issueOut e (stHInst e.val rs ra imm) s

/-- ST.W (Table 4.10). -/
def stWInst (e : Nat) (rs ra : Reg) (imm : BitVec 16) : Inst :=
  storeInst e 0x1D rs ra imm 4

/-- ST.W on an engine. -/
def execStW (e : Eng) (rs ra : Reg) (imm : BitVec 16) (s : State) :
    Host.Outcome State Fault Refusal :=
  issueOut e (stWInst e.val rs ra imm) s

/-- ST.D (Table 4.10). -/
def stDInst (e : Nat) (rs ra : Reg) (imm : BitVec 16) : Inst :=
  storeInst e 0x1E rs ra imm 8

/-- ST.D on an engine. -/
def execStD (e : Eng) (rs ra : Reg) (imm : BitVec 16) (s : State) :
    Host.Outcome State Fault Refusal :=
  issueOut e (stDInst e.val rs ra imm) s

end Sys2Proof.Machine
end

