-- ==== Sys2Proof/Machine/Atomic.lean ====
section
/-! DEFINITION. Atomic instructions (R114 to R117, R220 to R222). -/

namespace Sys2Proof.Machine

/-! ### Places of atomic accesses (R114 to R116) -/

/-- The checks of an atomic access of `n` bytes in their order (Table 5.8, R220): alignment, the ring
    and the kind of a register window, then region, translation and permission. -/
def atomicPlace (e : Nat) (need : Need) (va : Word) (n : Nat) : EM Place := do
  let x ← engM e
  if va.toNat % n ≠ 0 then raise { code := 0x05, acc := 4, faddr := va }
  match windowOf va with
  | some w =>
    windowCheck x .atomic w (need != .w) (need != .r) false va n
    raise (busEv .atomic va)
  | none =>
    let ts ← resolveOnce e va do
      return [(va, n, ← resolve e x.rights .atomic need va n)]
    match ts with
    | (_, _, t) :: _ => return t.place
    | [] => hold

/-- The sector number of a place for a reservation; `none` for host and remote places. -/
def sectorOfPlace : Place → Option Nat
  | .hbm pa => some (hbmSector pa)
  | .tile key => some (tileSector key)
  | _ => none

/-- A fault of STC clears the reservation (R221). -/
def clearOnFault {α : Type} (e : Nat) (m : EM α) : EM α :=
  tryCatch m fun st => do
    match st with
    | .ev v =>
      updE e fun x => { x with resv := none }
      throw (.ev v)
    | .wait => throw .wait

/-- What an atomic access of a local place reads first: an uncorrectable error in it (Table 2.7). -/
def atomicProbe (va : Word) (p : Place) (n : Nat) : EM Unit := do
  let bad ← match p with
    | .hbm pa => liftP (probeHbm 1 pa)
    | .tile key => liftP (probeTile key n)
    | _ => pure false
  if bad then raise (ueEv .atomic va)

/-- The bytes at a local place as a number. -/
def localNat (p : Place) (n : Nat) (s : State) : Nat :=
  match p with
  | .hbm pa => leNat (s.hbm.bytes pa n)
  | .tile key => leNat (s.tile.bytes key n)
  | _ => 0

/-- The bytes of a local place written by an atomic operation. -/
def atomicWrite (e : Nat) (p : Place) (n v : Nat) (s : State) : State :=
  writePlace e .atomic 0 p (enabled (leBytes n v)) s

/-- An atomic request to a remote device (R545, R548): its answer, or a wait for it.  It is performed exactly
    once: from its sending to its answer no event parts it from its instruction (R117, R255). -/
def farAtomic (e : Nat) (va : Word) (node : BitVec 16) (typ code : Byte) (pa n v : Nat) : EM Word := do
  let s ← get
  let mask := maskOf (pa % 64) n
  let key := respKey va mask
  match (s.eng e).resp.find? fun q => q.1 == key with
  | some (_, r) =>
    if r.status = 0 then return r.data.setWidth 64 else raise (respEv .atomic va r.status)
  | none =>
    if s.reqs.any fun r => decide (r.who = .engine e) && r.atomic then hold
    let st ← liftP (frxRequest (.engine e) false true va 4 node typ code (pa / 64 * 64) mask (leBytes n v))
    if st = 0 then
      updE e fun x => { x with mid := x.mid || !x.dbg.feed }
      hold
    else raise (busEv .atomic va)

/-- AMO of Table 4.11 with function code `fn`. -/
def amoInst (e : Nat) (rd ra rb : Reg) (fn : BitVec 11) (k : Nat) : Inst :=
  { word := wordR 0x1F rd ra rb fn, mem := true,
    run := do
      let x ← engM e
      let va := ea48 (x.reg ra)
      let v := x.reg rb
      let p ← atomicPlace e .rw va 8
      if let .host _ := p then raise (busEv .atomic va)
      let old ← comparedWrite e (fn.setWidth 8) va 8 (v.setWidth 128)
        { probe := atomicProbe va p 8
          perform := do
            match p with
            | .remote node pa => farAtomic e va node 3 (fn.setWidth 8) pa 8 v.toNat
            | p =>
              let old := BitVec.ofNat 64 (localNat p 8 (← get))
              upd (atomicWrite e p 8 (amoOp k old v).toNat)
              return old
          follow := fun _ => upd (dropLine e p) }
      updE e fun x => x.setReg rd old
      return .next }

/-! ### The instructions -/

/-- LDL (R114): the word, and a reservation on its sector. -/
def ldlInst (e : Nat) (rd ra : Reg) : Inst :=
  { word := wordR 0x1F rd ra 0 0x000, mem := true,
    run := do
      let va := ea48 ((← engM e).reg ra)
      let p ← atomicPlace e .r va 8
      if (sectorOfPlace p).isNone then raise (busEv .atomic va)
      atomicProbe va p 8
      let v := localNat p 8 (← get)
      updE e fun x => { x.setReg rd (BitVec.ofNat 64 v) with resv := sectorOfPlace p }
      return .next }

/-- LDL on an engine. -/
def execLdl (e : Eng) (rd ra : Reg) (s : State) : Host.Outcome State Fault Refusal :=
  issueOut e (ldlInst e.val rd ra) s

/-- STC (R114, R221): the store and 0 while the reservation holds, else 1; cleared either way. -/
def stcInst (e : Nat) (rd ra rb : Reg) : Inst :=
  { word := wordR 0x1F rd ra rb 0x001, mem := true,
    run := do
      let x ← engM e
      let va := ea48 (x.reg ra)
      let v := x.reg rb
      let r ← clearOnFault e do
        let p ← atomicPlace e .w va 8
        if (sectorOfPlace p).isNone then raise (busEv .atomic va)
        comparedWrite e 1 va 8 (v.setWidth 128)
          { probe := do
              if (← engM e).resv = sectorOfPlace p then
                probeTarget .atomic va p (enabled (leBytes 8 v.toNat))
            perform := do
              if (← engM e).resv = sectorOfPlace p then
                upd (atomicWrite e p 8 v.toNat)
                return 0
              else return 1
            follow := fun r => do if r = 0 then upd (dropLine e p) }
      updE e fun x => { x.setReg rd r with resv := none }
      return .next }

/-- STC on an engine. -/
def execStc (e : Eng) (rd ra rb : Reg) (s : State) : Host.Outcome State Fault Refusal :=
  issueOut e (stcInst e.val rd ra rb) s

/-- AMO.ADD (R115). -/
def amoAddInst (e : Nat) (rd ra rb : Reg) : Inst :=
  amoInst e rd ra rb 0x002 0

/-- AMO.ADD on an engine. -/
def execAmoAdd (e : Eng) (rd ra rb : Reg) (s : State) : Host.Outcome State Fault Refusal :=
  issueOut e (amoAddInst e.val rd ra rb) s

/-- AMO.XOR (R115). -/
def amoXorInst (e : Nat) (rd ra rb : Reg) : Inst :=
  amoInst e rd ra rb 0x003 1

/-- AMO.XOR on an engine. -/
def execAmoXor (e : Eng) (rd ra rb : Reg) (s : State) : Host.Outcome State Fault Refusal :=
  issueOut e (amoXorInst e.val rd ra rb) s

/-- AMO.MIN (R115). -/
def amoMinInst (e : Nat) (rd ra rb : Reg) : Inst :=
  amoInst e rd ra rb 0x004 2

/-- AMO.MIN on an engine. -/
def execAmoMin (e : Eng) (rd ra rb : Reg) (s : State) : Host.Outcome State Fault Refusal :=
  issueOut e (amoMinInst e.val rd ra rb) s

/-- AMO.MAX (R115). -/
def amoMaxInst (e : Nat) (rd ra rb : Reg) : Inst :=
  amoInst e rd ra rb 0x005 3

/-- AMO.MAX on an engine. -/
def execAmoMax (e : Eng) (rd ra rb : Reg) (s : State) : Host.Outcome State Fault Refusal :=
  issueOut e (amoMaxInst e.val rd ra rb) s

/-- AMO.SWP (R115). -/
def amoSwpInst (e : Nat) (rd ra rb : Reg) : Inst :=
  amoInst e rd ra rb 0x006 4

/-- AMO.SWP on an engine. -/
def execAmoSwp (e : Eng) (rd ra rb : Reg) (s : State) : Host.Outcome State Fault Refusal :=
  issueOut e (amoSwpInst e.val rd ra rb) s

/-- DAMO.ADD (R116, R222, R375): the status in gd, FFLAGS.DOVF with status 1, and the decimal exception
    after the instruction with status 2 or 3 (R206). -/
def damoAddInst (e : Nat) (rd ra rb : Reg) : Inst :=
  { word := wordR 0x1F rd ra rb 0x007, illegal := !pairOk rb, mem := true,
    run := do
      let x ← engM e
      let va := ea48 (x.reg ra)
      let v := x.reg (nextReg rb) ++ x.reg rb
      let trap := x.dctl.getLsbD 12
      let p ← atomicPlace e .rw va 16
      match p with
      | .tile _ | .host _ => raise (busEv .atomic va)
      | _ => pure ()
      let st ← comparedWrite e 7 va 16 v
        { probe := atomicProbe va p 16
          perform := do
            match p with
            | .remote node pa => farAtomic e va node 4 0 pa 16 v.toNat
            | p =>
              let (st, w) := damo trap (localNat p 16 (← get)) v.toNat
              if let some n := w then upd (atomicWrite e p 16 n)
              return BitVec.ofNat 64 st
          follow := fun _ => upd (dropLine e p) }
      updE e fun x =>
        { x.setReg rd st with fflags := x.fflags ||| (if st = 1 then 0x40 else 0) }
      if st = 2 then return .post { code := 0x0F, detail := 1 }
      else if st = 3 then return .post { code := 0x0F, detail := 2 }
      else return .next }

/-- DAMO.ADD on an engine. -/
def execDamoAdd (e : Eng) (rd ra rb : Reg) (s : State) : Host.Outcome State Fault Refusal :=
  issueOut e (damoAddInst e.val rd ra rb) s

end Sys2Proof.Machine
end

