-- ==== Sys2Proof/Machine/Ledger.lean ====
section
/-! DEFINITION. The Boot Ledger: entries, checkpoint groups, archiving and quotes (R501 to R517). -/

namespace Sys2Proof.Machine

/-- The entry slots of the ring (R501). -/
def ringSlots : Nat := 65536

/-- Entries with SEQ above the last archived SEQ, at most the ring's (R513). -/
def unarchived (n : Nv) : Nat := min ringSlots (n.headRec.seq - n.lastArchived)

/-- Does the entry of SEQ `q` overwrite one that is not archived (R511)? -/
def loses (n : Nv) (q : Nat) : Bool :=
  decide (ringSlots ≤ q ∧ n.lastArchived < q - ringSlots)

/-- FLAGS of an entry (Table 12.8): bit 0 recovery, bit 1 written by the ROM. -/
def entryFlags (rom : Bool) (s : State) : BitVec 16 :=
  (if s.boot.recovery then 1 else 0) ||| (if rom then 2 else 0)

/-- The NV store with something else in the ring slot after the last recorded entry. -/
def tailed (n : Nv) (bs : List Byte) : Nv := { n with ledger := n.ledger.take (ringSlots - 1), tail := bs }

/-- The NV store with an entry in the ring and a head record. -/
def recorded (n : Nv) (e : List Byte) (h : NvRec HeadRec) : Nv :=
  { n.renewed (.ledger (n.nextSeq % ringSlots)) with
    ledger := (e :: n.ledger).take ringSlots, tail := [], head := h,
    lostSince := if loses n n.nextSeq then n.lostSince + 1 else n.lostSince }

/-- One entry appended (R501, R502, R508): its second word and then its first, the head record copy by copy,
    and LEDGER90. -/
def appendEntry (e : List Byte) (s : State) : State :=
  let n := s.nv
  let h : HeadRec := ⟨n.nextSeq, ledgerHead n.headRec.head e, n.boots⟩
  let old := if n.tail.isEmpty then n.ledger.getD (ringSlots - 1) (List.replicate 128 0) else n.tail
  let s1 := nvRecordFrom 6 (fun r => { tailed n e with head := r }) (recorded n e) n.head h
    (nvSet (tailed n e) (nvSet (tailed n (old.take 64 ++ e.drop 64)) s))
  if 58983 ≤ unarchived s1.nv then alert 1 s1 else s1

/-- Record `k` of the user-calibration region with another value: the manual gives the records no places and no
    layout. -/
def spoilCalibration (k : Nat) (w : Word) (n : Nv) : Nv :=
  match k % 7 with
  | 0 => { n with guards := n.guards.put (k / 7 % 64) (w.setWidth 6) }
  | 1 => { n with lifeMax := n.lifeMax.put (k / 7 % 64) (w.setWidth 4) }
  | 2 => { n with spares := n.spares.put (k / 7 % 64) w }
  | j => { n with cal := n.cal.setIfInBounds (j - 3) (w.setWidth 32) }

/-- An entry of a type with its component, measurement and data. -/
def plainEntry (rom : Bool) (typ : BitVec 16) (comp meas data : List Byte) (s : State) : State :=
  appendEntry (ledgerEntry s.nv.nextSeq s.nv.boots typ (entryFlags rom s) comp meas data
    s.mg.timebase) s

/-- CKSIG `j` (R512): 112 bytes of the signature. -/
def cksigEntry (sig : List Byte) (s : State) (j : Nat) : State :=
  let e := leBytes 8 s.nv.nextSeq ++ leBytes 4 s.nv.boots.toNat ++ leBytes 2 0x52 ++
    leBytes 2 (entryFlags false s).toNat ++ bytesAt sig (112 * j) 112
  appendEntry e s

/-- The checkpoint group (R510 to R512): the CHECKPOINT entry and the five entries of its
    signature. -/
def checkpointGroup (s : State) : State :=
  let n := s.nv
  let q := n.nextSeq
  let lost := n.lostSince + ((List.range 6).filter fun i => loses n (q + i)).length
  let e := ledgerEntry q n.boots 0x51 (entryFlags false s) (ascii "CHECKPOINT")
    (hashBytes n.headRec.head) (leBytes 4 lost ++ leBytes 8 n.ckptDone) s.mg.timebase
  let sig := beBytes 512 (Config.attestSign s.free (ascii "BNCK" ++ e)).toNat
  let s1 := appendEntry e { s with free := s.free + 1 }
  let s2 := (List.range 5).foldl (cksigEntry sig) s1
  { s2 with nv := { s2.nv with ckptDone := q, lostSince := 0, lostTot := satAdd s2.nv.lostTot lost } }

/-- Is a checkpoint group due before an entry of SEQ `q` (R510)? -/
def checkpointDue (n : Nv) : Bool :=
  let p := n.nextSeq / 4096 * 4096
  decide (ringSlots ≤ p ∧ n.ckptDone < p)

/-- The steward writes an entry (R505, R510): the checkpoint group that is due, then the entry. -/
def logEntry (typ : BitVec 16) (comp meas data : List Byte) (s : State) : State :=
  let s1 := if checkpointDue s.nv then checkpointGroup s else s
  plainEntry false typ comp meas data s1

/-- The steward writes the entry of a change before the change takes effect (R505, R506); `key` is the key slot
    that the change writes, with what the slot holds. -/
def logKeyed (key : Option (Nat × List Byte)) (typ : BitVec 16) (comp meas data : List Byte) (s : State) :
    State :=
  let s1 := if checkpointDue s.nv then checkpointGroup s else s
  plainEntry false typ comp meas data { s1 with nv := { s1.nv with opened := ⟨s1.nv.nextSeq, key⟩ :: s1.nv.opened } }

/-- The entry of a change that writes no key. -/
def logChange : BitVec 16 → List Byte → List Byte → List Byte → State → State := logKeyed none

/-- The NV store once the change of the last entry is complete: it takes no other change that is open with it. -/
def Nv.closed (n : Nv) : Nv := { n with opened := n.opened.drop 1 }

/-- The change of the last entry is complete with the word that was written last. -/
def changeDone (s : State) : State := { s with nv := s.nv.closed }

/-- Does the ring hold the ABANDON entry of a SEQ? -/
def abandoned (n : Nv) (q : Nat) : Bool := n.ledger.any fun e => entryType e == 0x53 && fieldAt e 0x60 8 == q

/-- The key slot of a change that stays undone holds what it held (R506). -/
def restoreKey (n : Nv) (o : Opened) : Nv :=
  match o.key with
  | some (i, k) => { n with keys := n.keys.setIfInBounds i k }
  | none => n

/-- The open changes as a boot finds them: one whose entry is not complete never was, and every other stays undone
    (R506). -/
def undone (n : Nv) : Nv :=
  let os := n.opened.filter fun o => decide (o.seq ≤ n.headRec.seq)
  { n.opened.foldl restoreKey n with opened := os.map fun o => { o with key := none } }

/-- The ABANDON entry of every change that a loss of power kept from completing, the oldest first (R506). -/
def abandonOpened (s : State) : State :=
  let s1 := s.nv.opened.reverse.foldl (fun s o =>
    if abandoned s.nv o.seq then s else logEntry 0x53 (ascii "ABANDON") [] (leBytes 8 o.seq) s) s
  { s1 with nv := { s1.nv with opened := [] } }

/-- The ROM writes an entry (R504, R510). -/
def romEntry (typ : BitVec 16) (comp meas data : List Byte) (s : State) : State :=
  plainEntry true typ comp meas data s

/-! ### Reading and archiving (R514, R515) -/

/-- The oldest retained SEQ. -/
def oldestSeq (n : Nv) : Nat := n.headRec.seq + 1 - n.ledger.length

/-- The retained entry of a SEQ, as it is read (R499). -/
def entryOf (n : Nv) (q : Nat) : List Byte := n.shown (n.ledger.getD (n.headRec.seq - q) [])

/-- The oldest retained CHECKPOINT entry, by SEQ. -/
def oldestCheckpoint (n : Nv) : Option Nat :=
  ((n.ledger.reverse.map n.shown).find? fun e => entryType e == 0x51).map fun e => fieldAt e 0 8

/-- The first SEQ the chain can be recomputed from and the head before it: H_(−1) before the first
    wrap, else the oldest retained checkpoint with its MEAS (R515). -/
def chainBase (n : Nv) : Option (Nat × BitVec 512) :=
  if n.headRec.seq < ringSlots then some (0, ledgerRoot)
  else (oldestCheckpoint n).map fun q => (q, hashWord (bytesAt (entryOf n q) 0x20 64))

/-- H_L recomputed from a base. -/
def headAt (n : Nv) (base : Nat × BitVec 512) (l : Nat) : BitVec 512 :=
  (List.range (l + 1 - base.1)).foldl (fun h i => ledgerHead h (entryOf n (base.1 + i))) base.2

/-! ### Quotes (R516, R517) -/

/-- QFLAGS of Table 12.11. -/
def quoteFlags (s : State) : Nat :=
  (if s.boot.recovery then 1 else 0) + (if s.boot.openingReg then 2 else 0) +
    4 * s.ik.level.toNat + (if s.nv.isClaimed then 16 else 0) + (if s.pins.force then 32 else 0)

/-- The body of a quote, bytes 0 to 159 of Table 12.11. -/
def quoteBody (nonce : BitVec 256) (s : State) : List Byte :=
  ascii "BNQT" ++ leBytes 2 0x100 ++ leBytes 2 (quoteFlags s) ++ leBytes 16 Config.serial.toNat ++
    leBytes 4 s.nv.boots.toNat ++ leBytes 4 s.nv.fwCounter.toNat ++ leBytes 4 s.nv.stCounter.toNat ++
    leBytes 4 s.nv.lostTot.toNat ++ leBytes 8 s.nv.headRec.seq ++ hashBytes s.nv.headRec.head ++
    leBytes 32 nonce.toNat ++ leBytes 8 s.mg.timebase.toNat ++ leBytes 8 0

/-- A signature under the device attestation key, big-endian (R516). -/
def attest (m : List Byte) (s : State) : List Byte :=
  beBytes 512 (Config.attestSign s.free m).toNat

end Sys2Proof.Machine
end

