-- ==== Sys2Proof/Machine/Respond.lean ====
section
/-! DEFINITION. The responses of the steward and its in-band interrupts (R453 to R457). -/

namespace Sys2Proof.Machine

/-- The static address (R451). -/
def staticAddr (s : State) : BitVec 7 := 0x48 + s.pins.addrSel.setWidth 7

/-- The address at which the target takes private transfers: its dynamic address, and in I²C mode its static
    address until it has one (Table 11.1). -/
def targetAddr (s : State) : BitVec 7 := s.i3c.da.getD (staticAddr s)

/-- Does the steward run its own program, so that it takes commands (R452, R613, R640)? -/
def stewardRuns (s : State) : Bool := s.mg.running && !s.ik.steward.halted

/-- An in-band interrupt: sent, or waiting while the controller has disabled them (R456). -/
def raiseIbi (b : Byte) (s : State) : State :=
  if s.i3c.ibien then s.emit (.ibi b)
  else { s with i3c := { s.i3c with ibiPend := s.i3c.ibiPend ++ [b] } }

/-- A response frame (R453, R454): the tag is the first 16 bytes of the HMAC under the session key, or
    16 zero bytes. -/
def responseFrame (op status : Byte) (seq : BitVec 32) (payload : List Byte)
    (key : Option (List Byte)) : List Byte :=
  let b := (op ||| 0x80) :: status :: leBytes 2 payload.length ++ leBytes 4 seq.toNat ++ payload
  b ++ match key with
    | some k => (hmac512 k b).take 16
    | none => List.replicate 16 0

/-- A response becomes ready (R455, R456). -/
def respond (op status : Byte) (seq : BitVec 32) (payload : List Byte) (key : Option (List Byte))
    (s : State) : State :=
  raiseIbi 0xA1 { s with cmd := { busy := none, response := some (responseFrame op status seq payload key) } }

/-- The command in progress is answered with a status and a payload. -/
def answer (status : Byte) (payload : List Byte) (s : State) : State :=
  match s.cmd.busy with
  | some d => respond d.op status d.seq payload d.key s
  | none => s

end Sys2Proof.Machine
end

