-- ==== Sys2Proof/Machine/Jobs.lean ====
section
/-! DEFINITION. From doorbell to completion record (R55 to R70, R507, R528 to R535), and the states of
the squares (R39 to R43, R104, R576). -/

namespace Sys2Proof.Machine

/-! ### The host's view -/

/-- Do BAR0, BAR2 and the memory window answer (R521)? -/
def barOpen (s : State) : Bool :=
  s.boot.ready && !s.boot.recovery && s.cxl.up && !s.cxl.perst

/-- An MSI-X message of a vector (R534): sent with the address and the data of its table entry (Table 13.2), or
    pending while it is masked or the link is down. -/
def sendMsix (vec : Byte) (s : State) : State :=
  let b : BitVec 256 := 1 <<< vec.toNat
  if s.cxl.up && !s.cxl.perst && !s.cxl.msixMask.getLsbD vec.toNat then
    let m := SMap.get (0, 0) s.cxl.msixTable vec.toNat
    s.emit (.msix vec m.1 m.2)
  else { s with cxl := { s.cxl with msixPend := s.cxl.msixPend ||| b } }

/-! ### Memory as a rank controller reaches it (R531, R535, R507) -/

/-- How an access of a rank controller fails to give its data at once. -/
inductive RankStop
  | fault
  | wait
  deriving DecidableEq, Repr

/-- The place of a job-space address under a context with ring-0 rights (R85). -/
def rankPlace (c : Byte) (need : Need) (va : Nat) (s : State) : Option Place × State :=
  if 0x8000000000 ≤ va then (none, s)
  else
    let page := va / 2 ^ 18
    let ent := liveEntry s page
    match checkEntry (ctxPart s c) c 0 need page ent with
    | some 1 => (none, s)
    | r =>
      match probeMap 4 page s, r with
      | (false, s1), none => (some (placeOf s1 ent (BitVec.ofNat 64 va)), s1)
      | (_, s1), _ => (none, s1)

/-- The MASTER code of a rank controller's access, which Table 2.14 does not list: a free value. -/
def rankMaster (s : State) : Nat × State :=
  (Config.freeNat s.free % 16, { s with free := s.free + 1 })

/-- The sector of a host or remote place for the ring of a context, by its job-space address: the response that
    has come, or a request and a wait for it (R524). -/
def rankFar (c : Byte) (va n : Nat) (send : State → Nat × State) (s : State) :
    Except RankStop (List Byte) × State :=
  let here (k : Nat) : Bool := k == va / 64
  let off := va % 64
  match (s.ctx c).resp.find? fun p => here p.1 with
  | some (_, r) =>
    let s1 := s.modCtx c fun x => { x with resp := x.resp.filter fun p => !here p.1 }
    if r.status = 0 then (.ok (lineBytes r.data off n), s1) else (.error .fault, s1)
  | none =>
    if s.reqs.any fun r => decide (r.who = .ring c) && here (r.va.toNat / 64) then (.error .wait, s)
    else
      let (st, s1) := send s
      if st = 0 then (.error .wait, s1) else (.error .fault, s1)

/-- `n` bytes of one sector read by a rank controller under a context. -/
def rankRead (c : Byte) (va n : Nat) (s : State) : Except RankStop (List Byte) × State :=
  match rankPlace c .r va s with
  | (none, s1) => (.error .fault, s1)
  | (some p, s1) =>
    match p with
    | .hbm pa =>
      let (m, s2) := rankMaster s1
      match probeHbm m pa s2 with
      | (true, s3) => (.error .fault, s3)
      | (false, s3) => (.ok (s3.hbm.bytes pa n), s3)
    | .host a =>
      rankFar c va n (fun s => if hostOpen s then
        (0, hostRequest (.ring c) false (BitVec.ofNat 64 va) 2
          (fun tag => .hostRead tag (BitVec.ofNat 64 (a / 64 * 64))) s)
        else (1, s)) s1
    | .remote node pa =>
      rankFar c va n
        (frxRequest (.ring c) false false (BitVec.ofNat 64 va) 2 node 1 0 (pa / 64 * 64)
          (maskOf (pa % 64) n) []) s1
    | .tile _ => (.error .fault, s1)

/-- A context is granted or revoked: what was read for its ring and its measurement before is not used. -/
def dropRing (c : Byte) (s : State) : State :=
  let rs := s.reqs.map fun (r : Req) => if r.who = .ring c then { r with who := .gone } else r
  { s with reqs := rs }.modCtx c fun x => { x with resp := [], measJob := 0, meas := [] }

/-! ### Squares of a job -/

/-- The squares of a mask, lowest index first. -/
def maskSquares (m : BitVec 64) : List Nat := (List.range 64).filter fun i => m.getLsbD i

/-- A mask of squares. -/
def squareMask (l : List Nat) : BitVec 64 := l.foldl (fun m i => m ||| (1 : BitVec 64) <<< i) 0

/-- A squares mask with partner bits read as their primaries (R409). -/
def primaryMask (s : State) (m : BitVec 64) : BitVec 64 :=
  squareMask ((maskSquares m).map (primaryOf s))

/-- A primary square with its partner, if it has one. -/
def pairSquares (s : State) (sq : Nat) : List Nat :=
  if (s.sqr sq).paired then [sq, (s.sqr sq).partner.toNat] else [sq]

/-- The logical engines that run in a square: in a pair, those available in both squares (R410). -/
def runLogical (s : State) (sq : Nat) : List Nat :=
  (availLogical (s.sqr sq)).filter fun n =>
    (pairSquares s sq).all fun i => decide (posOf (s.sqr i) n < 9)

/-- Can a square run a job (R64)? -/
def usable (s : State) (sq : Nat) : Bool :=
  (pairSquares s sq).all (fun i => (s.sqr i).st != .failed) && !(runLogical s sq).isEmpty

/-- Is a square free to be reserved (R63)?  One that the power policy has parked is free and is
    woken. -/
def squareFree (s : State) (sq : Nat) : Bool :=
  (pairSquares s sq).all fun i =>
    let q := s.sqr i
    (q.st == .idle || (q.st == .parked && q.assigned && q.policyParked)) && q.reservedBy == 0

/-- Release the squares a job has reserved. -/
def releaseSquares (id : Nat) (s : State) : State :=
  { s with squares := s.squares.map fun p =>
      if p.2.reservedBy = id then (p.1, { p.2 with reservedBy := 0 }) else p }

/-- A job that has not started ends with a status (R64, R69, R70). -/
def endQueued (id : Nat) (status detail : Byte) (s : State) : State :=
  releaseSquares id (modJob id (fun j => { j with
    stage := .ended, status := status, detail := detail, endTime := s.mg.timebase, reserved := 0 }) s)

/-- Has a job not started yet? -/
def Job.waiting (j : Job) : Bool := j.stage == .queued || j.stage == .measuring

/-- Queued jobs whose mask names a square that cannot run them end with SQFAILED (R64). -/
def sweepQueued (s : State) : State :=
  s.jobs.foldl (fun s j =>
    match (maskSquares j.sqmask).find? fun i => !usable s i with
    | some i => if j.waiting then endQueued j.id 4 (BitVec.ofNat 8 i) s else s
    | none => s) s

/-! ### Doorbell (R529, R530) -/

/-- A write to DB_TAIL (R529, R530). -/
def doorbell (c : Byte) (tail : BitVec 32) (s : State) : State :=
  let x := s.ctx c
  if !barOpen s then s
  else if !x.granted then { s with cxl := { s.cxl with dbdrop := satInc s.cxl.dbdrop } }
  else if (tail - x.head).toNat ≤ x.n.toNat then
    { s.modCtx c (fun x => { x with tail := tail, ringerr := false, order := s.bellOrder }) with
      bellOrder := s.bellOrder + 1 }
  else s.modCtx c fun x => { x with badtail := satInc x.badtail }

/-- DOORBELL (R530). -/
def execDoorbell (ctx : Byte) (tail : BitVec 32) (s : State) : Host.Outcome State Fault Refusal :=
  .next (doorbell ctx tail s)

/-! ### Descriptors (R61, R64, R531, R532) -/

/-- The first failing reason of a descriptor, in the order of Table 13.7. -/
def descriptorFault (c : Byte) (d : List Byte) (s : State) : Option Byte :=
  let mask := primaryMask s (BitVec.ofNat 64 (fieldAt d 0x18 8))
  let entry := fieldAt d 8 8
  let inPart (i : Nat) : Bool := match ctxPart s c with | some p => p.hasSq i | none => false
  if fieldAt d 0 1 ≠ c.toNat then some 1
  else if mask = 0 then some 2
  else if !(maskSquares mask).all inPart then some 3
  else if entry % 4 ≠ 0 || decide (0x8000000000 ≤ entry) then some 4
  else if 15 < fieldAt d 1 1 || fieldAt d 2 2 ≠ 0 || fieldAt d 4 4 ≠ 0 || fieldAt d 0x30 16 ≠ 0 then
    some 5
  else if !(maskSquares mask).all (usable s) then some 6
  else none

/-- The job of a descriptor of a context. -/
def jobOfDescriptor (c : Byte) (d : List Byte) (s : State) : Job :=
  let x := s.ctx c
  let w (o : Nat) : Word := BitVec.ofNat 64 (fieldAt d o 8)
  { id := s.nextJob, ctx := c, seq := x.head, prio := BitVec.ofNat 8 (fieldAt d 1 1), order := x.order,
    entry := w 8, arg := w 0x10, sqmask := primaryMask s (w 0x18), compl := w 0x20, tag := w 0x28,
    home := ((ctxPart s c).map Partition.home).getD 0 }

/-- The home rank controller reads the next descriptor of a ring and queues or rejects its job (R531,
    R532). -/
def descriptorRead (c : Byte) (s : State) : State :=
  let x := s.ctx c
  if !x.granted || x.head = x.tail || x.ringerr then s
  else
    match rankRead c (x.base.toNat + 64 * (x.head.toNat % max x.n.toNat 1)) 64 s with
    | (.error .fault, s1) => s1.modCtx c fun x => { x with ringerr := true }
    | (.error .wait, s1) => s1
    | (.ok d, s1) =>
      let j := jobOfDescriptor c d s1
      let j := match descriptorFault c d s1 with
        | none => j
        | some r => { j with stage := .ended, status := 1, detail := r, endTime := s1.mg.timebase }
      { s1.modCtx c (fun x => { x with head := x.head + 1 }) with
        jobs := s1.jobs ++ [j], nextJob := s1.nextJob + 1 }

/-- DESCRIPTOR_READ (R531). -/
def execDescriptorRead (ctx : Byte) (s : State) : Host.Outcome State Fault Refusal :=
  .next (descriptorRead ctx s)

/-! ### Start (R62 to R66, R105) -/

/-- The square a queued job waits for: the lowest of its mask that it has not reserved (R63). -/
def waitsFor (j : Job) : Option Nat := (maskSquares (j.sqmask &&& ~~~j.reserved)).head?

/-- Does a job come before another (R62): priority, then doorbell, then ring order? -/
def jobBefore (a b : Job) : Bool :=
  if a.prio ≠ b.prio then decide (b.prio.toNat < a.prio.toNat)
  else if a.order ≠ b.order then decide (a.order < b.order)
  else decide (a.id ≤ b.id)

/-- The first of jobs by R62. -/
def firstJob : List Job → Option Job
  | [] => none
  | j :: js =>
    match firstJob js with
    | none => some j
    | some k => some (if jobBefore j k then j else k)

/-- An engine at the start of a job (R66, R148, R267, R313, R382). -/
def startEngine (j : Job) (leng count : Nat) (x : Engine) : Engine :=
  { run := .running, job := j.id, ctx := j.ctx, pc := ea48 j.entry, dbg := x.dbg,
    g := ((Vector.replicate 32 0).set 1 j.arg |>.set 2 (BitVec.ofNat 64 leng)).set 3
      (BitVec.ofNat 64 count) }

/-- A square at the start of a job: BUSY, every tile store of it zero (R105). -/
def startSquare (j : Job) (sq : Nat) (s : State) : State :=
  clearTiles (sq * 9) ((sq + 1) * 9)
    (s.modSq sq fun q => { q with st := .busy, job := j.id, reservedBy := 0 })

/-- What an engine waits for of an earlier job is discarded. -/
def dropRequests (e : Nat) (s : State) : State :=
  let rs := s.reqs.map fun (r : Req) => if r.who = .engine e then { r with who := .gone } else r
  { s with reqs := rs }

/-- A logical engine of a primary square starts, and its twin with it (R66, R410). -/
def startLogical (j : Job) (count sq : Nat) (s : State) (n : Nat) : State :=
  (pairSquares s sq).foldl (fun s i =>
    let e := i * 9 + posOf (s.sqr i) n
    (dropRequests e s).modEng e (startEngine j (sq * 8 + n) count)) s

/-- A job starts on every available logical engine of its squares at once (R65, R66). -/
def startJob (j : Job) (s : State) : State :=
  let sqs := maskSquares j.sqmask
  let count := (sqs.map fun i => (runLogical s i).length).sum
  let s1 := modJob j.id (fun j => { j with stage := .running, engines := BitVec.ofNat 16 count }) s
  let s2 := sqs.foldl (fun s i => (pairSquares s i).foldl (fun s k => startSquare j k s) s) s1
  sqs.foldl (fun s i => (runLogical s i).foldl (startLogical j count i) s) s2

/-- Is a job's runtime measurement still to come (R507)? -/
def needsMeasure (s : State) (c : Byte) : Bool :=
  s.nv.ownerPolicy.getLsbD 2 && !(s.ctx c).measured

/-- A job that has reserved every square starts when each is IDLE and its context is measured. -/
def tryStart (id : Nat) (s : State) : State :=
  match jobOf s id with
  | none => s
  | some j =>
    if !j.waiting || j.reserved ≠ j.sqmask then s
    else if needsMeasure s j.ctx then modJob id (fun j => { j with stage := .measuring }) s
    else if (maskSquares j.sqmask).all fun i =>
        (pairSquares s i).all fun k => (s.sqr k).st == .idle then startJob j s
    else s

/-- Every job that has reserved all its squares and can start does (R59, R70): when the squares have left
    QUIESCED. -/
def startReady (s : State) : State := s.jobs.foldl (fun s j => tryStart j.id s) s

/-- A free square is reserved for the first of the jobs that wait for it; a parked one is woken
    (R63, R576).  The job that has reserved every square of its mask starts. -/
def squareReserve (sq : Nat) (s : State) : State :=
  if !squareFree s sq then tryStart (s.sqr sq).reservedBy s
  else
    match firstJob (s.jobs.filter fun j => j.waiting && waitsFor j == some sq) with
    | none => s
    | some j =>
      let s1 := (pairSquares s sq).foldl (fun s i => s.modSq i fun q =>
        { q with reservedBy := j.id, waking := q.st == .parked }) s
      tryStart j.id (modJob j.id (fun j => { j with
        reserved := j.reserved ||| (1 : BitVec 64) <<< sq }) s1)

/-- SQUARE_RESERVE (R63). -/
def execSquareReserve (sq : SqId) (s : State) : Host.Outcome State Fault Refusal :=
  .next (squareReserve sq.val s)

/-- A square that runs while the brake is in force has index 0 unless it is pinned (R567, R671). -/
def brakeHold (s : State) (q : Square) : Square :=
  if s.pw.brake && !q.pinned then { q with opp := 0 } else q

/-- The wake of a square's tile stores ends (R104, R576). -/
def wakeDone (sq : Nat) (s : State) : State :=
  let q := s.sqr sq
  if q.waking && q.st == .parked then
    tryStart q.reservedBy (s.modSq sq fun q =>
      brakeHold s { q with st := .idle, waking := false, policyParked := false })
  else s

/-- TILE_STORE_WAKE_DONE (R104). -/
def execTileStoreWakeDone (sq : SqId) (s : State) : Host.Outcome State Fault Refusal :=
  .next (wakeDone sq.val s)

/-- An IDLE square is parked when PARKIDLE is set (R576). -/
def parkIdle (sq : Nat) (s : State) : State :=
  let q := s.sqr sq
  if q.st == .idle && q.reservedBy == 0 && s.pw.policy.parkidle != 0 then
    s.modSq sq fun q => { q with st := .parked, policyParked := true }
  else s

/-- PARK_IDLE_EXPIRY (R576). -/
def execParkIdleExpiry (sq : SqId) (s : State) : Host.Outcome State Fault Refusal :=
  .next (parkIdle sq.val s)

/-! ### Runtime measurement (R507) -/

/-- How the reading of a page ends. -/
inductive PageRead
  | done
  | wait
  | fault
  deriving DecidableEq, Repr

/-- Read the next sector of a page under a context; `none` when it has come. -/
def readSector (c : Byte) (page : Nat) (s : State) : Option PageRead × State :=
  let got := (s.ctx c).meas.length
  if 2 ^ 18 ≤ got then (some .done, s)
  else
    match rankRead c (page * 2 ^ 18 + got) 64 s with
    | (.error .fault, s1) => (some .fault, s1)
    | (.error .wait, s1) => (some .wait, s1)
    | (.ok bs, s1) => (none, s1.modCtx c fun x => { x with meas := x.meas ++ bs })

/-- Read the rest of a page, sector by sector, under a context. -/
def readPage (c : Byte) (page : Nat) : Nat → State → PageRead × State
  | 0, s => (.done, s)
  | fuel + 1, s =>
    match readSector c page s with
    | (some r, s1) => (r, s1)
    | (none, s1) => readPage c page fuel s1

/-- The job of a context that is measured: the one whose page is being read, or else the first of those that
    wait only for it. -/
def measuredJob (s : State) (c : Byte) : Option Job :=
  let js := s.jobs.filter fun j => j.stage == .measuring && j.ctx == c
  (js.find? fun j => j.id == (s.ctx c).measJob).or js.head?

/-- The reading for a job begins, if it has not: nothing of its page is there yet. -/
def beginMeasure (c : Byte) (j : Job) (s : State) : State :=
  if (s.ctx c).measJob = j.id then s else s.modCtx c fun x => { x with measJob := j.id, meas := [] }

/-- The first job of a context is measured: the page of its entry is read, and a RUNTIME entry is
    written; a read that fails ends the job. -/
def runtimeMeasure (c : Byte) (s : State) : State :=
  match measuredJob s c with
  | none => s
  | some j =>
    if !needsMeasure s c then s
    else
      let page := j.entry.toNat / 2 ^ 18
      match readPage c page 4096 (beginMeasure c j s) with
      | (.wait, s1) => s1
      | (.fault, s1) => endQueued j.id 8 0 (s1.modCtx c fun x => { x with meas := [] })
      | (.done, s1) =>
        let m := sha512 (s1.ctx c).meas
        let s2 := logEntry 0x20 (ascii "RUNTIME") m (leBytes 1 c.toNat ++ leBytes 4 page) s1
        startReady (s2.modCtx c fun x => { x with measured := true, meas := [] })

/-- RUNTIME_MEASURE (R507): a halted steward core keeps no ledger (R641). -/
def execRuntimeMeasure (ctx : Byte) (s : State) : Host.Outcome State Fault Refusal :=
  .next (if stewardRuns s then runtimeMeasure ctx s else s)

/-! ### Completion (R67, R533 to R535) -/

/-- The completion record (Table 13.6). -/
def completionRecord (j : Job) : List Byte :=
  leBytes 8 j.tag.toNat ++ leBytes 4 j.seq.toNat ++ [j.status, j.detail] ++
    leBytes 2 j.engines.toNat ++ leBytes 2 j.faultEng.toNat ++ [j.cause] ++ leBytes 5 0 ++
    leBytes 8 j.endTime.toNat

/-- A completion record that is not written counts in CFAIL (R535). -/
def recordFailed (c : Byte) (s : State) : State :=
  s.modCtx c fun x => { x with cfail := satInc x.cfail }

/-- The MSI-X message of a completed job, which then leaves the tables. -/
def finishJob (j : Job) (s : State) : State :=
  sendMsix (s.ctx j.ctx).vec { s with jobs := s.jobs.filter fun k => k.id ≠ j.id }

/-- The completion record is written (R534, R535), and the message follows it: at once, or when the
    write to the host or to a remote device has completed (R67). -/
def writeRecord (j : Job) (s : State) : State :=
  let bs := completionRecord j
  let va := j.compl.toNat
  let sent (s : State) : State := modJob j.id (fun j => { j with recordOut := true }) s
  if va % 32 ≠ 0 then finishJob j (recordFailed j.ctx s)
  else
    match rankPlace j.ctx .w va s with
    | (none, s1) => finishJob j (recordFailed j.ctx s1)
    | (some p, s1) =>
      match p with
      | .hbm pa =>
        let (m, s2) := rankMaster s1
        match probeWrite m pa (enabled bs) s2 with
        | (true, s3) => finishJob j (recordFailed j.ctx s3)
        | (false, s3) => finishJob j (writeHbm none pa (enabled bs) s3)
      | .host a =>
        if hostOpen s1 then
          let (mask, data) := sectorOf (a % 64) (enabled bs)
          sent (hostRequest (.rank j.id) true j.compl 3
            (fun tag => .hostWrite tag (BitVec.ofNat 64 (a / 64 * 64)) mask
              (BitVec.ofNat 512 (leNat data))) s1)
        else finishJob j (recordFailed j.ctx s1)
      | .remote node pa =>
        let (mask, data) := sectorOf (pa % 64) (enabled bs)
        let (st, s2) := frxRequest (.rank j.id) true false j.compl 3 node 2 0 (pa / 64 * 64) mask data s1
        if st = 0 then sent s2 else finishJob j (recordFailed j.ctx s2)
      | .tile _ => finishJob j (recordFailed j.ctx s1)

/-- The write of a completion record to the host or a remote device has ended (R67, R535). -/
def recordDone (id : Nat) (ok : Bool) (s : State) : State :=
  match jobOf s id with
  | none => s
  | some j => if j.recordOut then finishJob j (if ok then s else recordFailed j.ctx s) else s

/-- The end of a job on one engine: its queues are discarded, and in its chain the member is marked
    or leaves ABORTED (R391, R401, R406). -/
def endOnEngine (s : State) (e : Nat) : State :=
  let s1 := endAborted e ((flushEngine e s).modEng e fun x => { x with run := .idle, job := 0 })
  match (lengOf s1 e).bind fun n => (chainOf s1 n).map fun c => (n, c) with
  | none => s1
  | some (n, c) => if (chainSt s1 c).frozen then tryResume c (markMember c n s1) else s1

/-- A square gives up a job that has ended (R41). -/
def freeSquare (s : State) (sq : Nat) : State :=
  s.modSq sq fun q => { q with job := 0, st := if q.st = .busy then .idle else q.st, back := .idle }

/-- Have all engines of a job executed JEND? -/
def allEnded (s : State) (id : Nat) : Bool := (jobEngines s id).all fun e => (s.eng e).run == .ended

/-- Has no engine of a job that has ended still to come to a boundary (R68)? -/
def allStopped (s : State) (id : Nat) : Bool := (jobEngines s id).all fun e => (s.eng e).run != .stopping

/-- Are all writes of a job's engines visible (R67), those of an engine that was reset and the atomic accesses
    among them? -/
def writesDone (s : State) (id : Nat) : Bool :=
  !s.reqs.any fun r => r.job == id && (r.write || r.atomic)

/-- A job whose engines have all ended, or that an event has ended, is completed (R67, R533). -/
def jobComplete (id : Nat) (s : State) : State :=
  match jobOf s id with
  | none => s
  | some j =>
    let through := (j.stage == .ended && allStopped s id) || (j.stage == .running && allEnded s id)
    if !through || j.recordOut || !writesDone s id then s
    else
      let j := if j.stage = .running then { j with stage := .ended, endTime := s.mg.timebase } else j
      let s1 := (jobEngines s id).foldl endOnEngine (modJob id (fun _ => j) s)
      writeRecord j ((jobSquares s1 id).foldl freeSquare s1)

/-- A revocation is answered once no job of the context is left (R473). -/
def revokeAnswer (s : State) : State :=
  match s.cmd.busy with
  | some ⟨_, _, _, .revoke c⟩ => if s.jobs.any fun j => j.ctx == c then s else answer 0 [] s
  | _ => s

/-- JOB_COMPLETE (R67). -/
def execJobComplete (job : Nat) (s : State) : Host.Outcome State Fault Refusal :=
  .next (revokeAnswer (jobComplete job s))

/-! ### Quiescing (R39 to R41) -/

/-- The steward asks for a square to be quiesced (R40): one in service remembers the state it leaves. -/
def quiesceSquare (s : State) (sq : Nat) : State :=
  let q := s.sqr sq
  if q.st = .idle ∨ q.st = .busy then
    s.modSq sq fun q => { q with back := q.st, st := .quiescing }
  else s

/-- Has an engine still to go on before its square is QUIESCED: to take a held vector event (R431), or to bring
    its group to a point where it may stop (R306)? -/
def quiesceDue (x : Engine) : Bool :=
  (x.run == .running && !x.dbg.halted && x.vec.held.isSome) || (!x.trap.vheld && !canStop x)

/-- The engines of a square stop at boundaries and their groups at strip boundaries, the busy tender channels
    pause, and the square is QUIESCED (R40, R49, R306). -/
def quiesceComplete (sq : Nat) (s : State) : State :=
  let es := availEngs s sq
  if (s.sqr sq).st != .quiescing || es.any (fun e => quiesceDue (s.eng e)) then s
  else
    (es.foldl (fun s e => groupStops e s) s).modSq sq fun q =>
      { q with st := .quiesced, tnd := q.tnd.map pauseTender }

/-- QUIESCE_COMPLETE (R40). -/
def execQuiesceComplete (sq : SqId) (s : State) : Host.Outcome State Fault Refusal :=
  .next (quiesceComplete sq.val s)

/-- A square leaves QUIESCED (R41): for BUSY when its job goes on, for IDLE, or for PARKED. -/
def unquiesce (s : State) (sq : Nat) : State :=
  let q := s.sqr sq
  if q.st = .quiescing ∨ q.st = .quiesced then
    let live := q.back = .busy ∧ (jobOf s q.job).any (fun j => j.stage == .running)
    let st : SqState := if !q.assigned then .parked else if live then .busy else .idle
    resumeTenders sq (s.modSq sq fun q => { q with st := st })
  else s

/-! ### Failure (R42, R43) -/

/-- The spare record of a square in the NV store (R11): its engine map, its retired positions, whether
    its spare is in use, and whether it is FAILED. -/
def spareRecord (q : Square) : Word :=
  flag 63 (q.st == .failed) ||| flag 48 q.spareUsed ||| place 32 9 q.retired.toNat |||
    place 0 32 q.map.toNat

/-- The spare record of a square written. -/
def saveSpare (sq : Nat) (s : State) : State :=
  nvSet { s.nv.renewed (.calibration (7 * sq + 2)) with spares := s.nv.spares.put sq (spareRecord (s.sqr sq)) } s

/-- A square enters FAILED: its job ends, its tender stops, and jobs queued for it end (R42, R64,
    R68). -/
def squareFail (sq : Nat) (s : State) : State :=
  if (s.sqr sq).st = .failed then s
  else
    let s1 := s.modSq sq fun q => { q with st := .failed, waking := false }
    let s2 := if (s.sqr sq).job = 0 then s1
      else endJob (s.sqr sq).job 4 (BitVec.ofNat 8 sq) 0xFFFF 0 s1
    let s3 := stopTenders sq (fun _ => true) 4 s2
    sweepQueued (health 6 (BitVec.ofNat 16 (sq * 16 + 15)) [] (saveSpare sq s3))

/-- SQUARE_FAIL (R42). -/
def execSquareFail (sq : SqId) (s : State) : Host.Outcome State Fault Refusal :=
  .next (squareFail sq.val s)

/-- A quarter's die-to-die link fails: its squares enter FAILED and its stacks become unreachable
    (R43). -/
def linkFail (q : Nat) (s : State) : State :=
  let s1 := ((List.range 16).map fun i => 16 * q + i).foldl (fun s i => squareFail i s) s
  { s1 with hub := { s1.hub with unreachable := s1.hub.unreachable ||| (1 : BitVec 4) <<< q } }

/-- D2D_LINK_FAIL (R43). -/
def execD2dLinkFail (q : Fin 4) (s : State) : Host.Outcome State Fault Refusal :=
  .next (linkFail q.val s)

end Sys2Proof.Machine
end

