-- ==== Sys2Proof/Machine/Power.lean ====
section
/-! DEFINITION. Power and temperature: the steward's loop, the overcurrent guard, the power brake and
the stage-1 ratio (R559 to R582). -/

namespace Sys2Proof.Machine

/-! ### Operating points (R35 to R38, R420) -/

/-- The SQUARES entry of a square in the applied structure. -/
def sqCfg (s : State) (sq : Nat) : SqCfg := s.board.squares.getD sq {}

/-- The state with the operating point of every square that a condition names changed. -/
def mapOpp (f : Nat → Square → Square) (s : State) : State :=
  (List.range 64).foldl (fun s i => s.modSq i (f i)) s

/-- An unpinned square is forced to index 0. -/
def forceLow (parked : Bool) (_ : Nat) (q : Square) : Square :=
  if q.pinned || (q.st == .parked && !parked) then q else { q with opp := 0 }

/-- OVERCURRENT_GUARD (R563). -/
def overcurrentGuard (s : State) : State :=
  let s1 := mapOpp (forceLow true) s
  alert 0x10 { s1 with pw := { s1.pw with guard := true, guards := satInc s1.pw.guards } }

/-- OVERCURRENT_GUARD: the guard of the power-stage dies fires. -/
def execOvercurrentGuard (s : State) : Host.Outcome State Fault Refusal := .next (overcurrentGuard s)

/-- PWRBRK_N falls (R567): in step 8 the engines of every square run their self-test (R671).  In a part without a
    supply only the pin is low. -/
def powerBrake (s : State) : State :=
  let s1 := { s with pins := { s.pins with pwrbrk := true }, pw := { s.pw with brake := true } }
  if s.boot.powered then (alert 0x10 (mapOpp (forceLow (s.boot.step == 8)) s1)).emit .brakeAct else s1

/-- POWER_BRAKE (R567): every unpinned square that is not PARKED moves to index 0, and every memory
    controller slows its activations. -/
def execPowerBrake (s : State) : Host.Outcome State Fault Refusal := .next (powerBrake s)

/-- POWER_BRAKE_RELEASE (R569): the steward restores operating points from its next period. -/
def execPowerBrakeRelease (s : State) : Host.Outcome State Fault Refusal :=
  .next { s with pins := { s.pins with pwrbrk := false }, pw := { s.pw with brake := false } }

/-! ### Stage 1 (R559) -/

/-- The ratio code of a VIN in mV (Table 14.1). -/
def ratioOf (mv : Nat) : BitVec 2 :=
  if mv < 9600 then 0 else if mv < 19000 then 1 else if mv < 38000 then 2 else 3

/-- Is a VIN within the 0.5 V of hysteresis of the edge between the band of a ratio in use and another, where the
    spec does not say which of the two ratios is in use? -/
def nearEdge (mv : Nat) (r : BitVec 2) : Bool :=
  [(9600, 0), (19000, 1), (38000, 2)].any fun p =>
    decide (p.1 ≤ mv + 500 ∧ mv ≤ p.1 + 500 ∧ (r.toNat = p.2 ∨ r.toNat = p.2 + 1))

/-- The ratio for a VIN: the table's, or within the hysteresis of an edge between the present one and another either
    that or the present one. -/
def stageRatio (mv : Nat) (s : State) : State :=
  let keep := nearEdge mv s.pw.ratio && Config.freeBool s.free
  { s with free := s.free + 1
           pw := { s.pw with ratio := if keep then s.pw.ratio else ratioOf mv } }

/-- STAGE1_RATIO_CHANGE (R559). -/
def execStage1RatioChange (mv : BitVec 16) (s : State) : Host.Outcome State Fault Refusal :=
  .next (stageRatio mv.toNat s)

/-! ### The loop (R562, R571 to R580) -/

/-- A temperature of a sample with the board thermal offset, in 0.1 °C. -/
def withOffset (s : State) (t : BitVec 16) : Int :=
  t.toInt + ((s.pw.calApplied.toList.getD 1 0).toInt)

/-- The highest of temperatures; 0 of none. -/
def hottest : List Int → Int
  | [] => 0
  | t :: ts => ts.foldl max t

/-- The die sensors of a sample with the offset (R577). -/
def dieTemps (s : State) (m : LoopSample) : List Int :=
  (m.sqTemp ++ m.quarterTemp ++ [m.hubTemp] ++ m.stageTemp).map (withOffset s)

/-- The sensors of one quarter die. -/
def quarterTemps (s : State) (m : LoopSample) (q : Nat) : List Int :=
  (((m.sqTemp.drop (16 * q)).take 16) ++ (m.quarterTemp.drop q).take 1).map (withOffset s)

/-- VIN_SENSE in mV (R562). -/
def vinSense (s : State) (m : LoopSample) : Nat :=
  (((m.vin.toNat : Int) + (s.pw.calApplied.toList.getD 0 0).toInt).toNat) % 65536

/-- The input-current bound of the effective limit, in W: 105 A × VIN_SENSE. -/
def inputLimit (s : State) (m : LoopSample) : Nat := 105 * vinSense s m / 1000

/-- The limit without the input-current bound: 1,000 W, CAL.PLIMIT and POLICY.PLIMIT. -/
def boardLimit (s : State) : Nat :=
  min 1000 (min (s.pw.calApplied.toList.getD 2 0).toNat s.pw.policy.plimit.toNat)

/-- P_LIMIT in W (R562). -/
def pLimit (s : State) (m : LoopSample) : Nat := min (boardLimit s) (inputLimit s m)

/-- PMAXOP of a partition. -/
def pmaxop (p : PowerPolicy) (n : Nat) : Nat := (p.pmaxop.extractLsb' (4 * n) 4).toNat

/-- The sensors of a square's quarter are at or above TTHROT (R571). -/
def quarterHot (s : State) (m : LoopSample) (sq : Nat) : Bool :=
  decide (10 * (s.pw.policy.tthrot.toNat : Int) ≤ hottest (quarterTemps s m (sq / 16)))

/-- The upper bound hi of an unpinned square (R571). -/
def hiOf (s : State) (m : LoopSample) (sq : Nat) : Nat :=
  let q := s.sqr sq
  let h := min (sqCfg s sq).maxop.toNat (min (pmaxop s.pw.policy q.part.toNat)
    (min (if s.pw.policy.turbo then 5 else 4) q.lifeMax.toNat))
  let h := if quarterHot s m sq then min h (q.opp.toNat - 1) else h
  max h q.minop.toNat

/-- Does the steward choose the index of a square in this period (R572)? -/
def steered (q : Square) : Bool := !q.pinned && (q.st == .idle || q.st == .busy)

/-- The indices the squares would have: `f` for those that are steered, the present ones for the rest. -/
def indices (s : State) (f : Nat → Nat) : List Nat :=
  (List.range 64).map fun i => if steered (s.sqr i) then f i else (s.sqr i).opp.toNat

/-- The predicted package power of indices, in 10 mW: every pinned square counts at its measured power (R571). -/
def predicted (s : State) (m : LoopSample) (l : List Nat) : Nat :=
  let pins := (List.range 64).filter fun i => (s.sqr i).pinned
  let rest := (List.range 64).filter fun i => !(s.sqr i).pinned
  let power (i : Nat) : Nat := (m.sqPower.getD i 0).toNat
  (pins.map power).sum + Config.predictedPower m.pkg.toNat (rest.map power)
    (rest.map fun i => (s.sqr i).opp.toNat) (rest.map fun i => l.getD i 0)

/-- The index picked for a square within its bounds. -/
def picked (s : State) (m : LoopSample) (i : Nat) : Nat :=
  let lo := (s.sqr i).minop.toNat
  let hi := hiOf s m i
  lo + Config.pickIndex s.free i % (hi + 1 - lo)

/-- Do indices stay within P_LIMIT? -/
def fits (s : State) (m : LoopSample) (l : List Nat) : Bool :=
  decide (predicted s m l ≤ 100 * pLimit s m)

/-- The lower bound lo of a square (R571). -/
def loOf (s : State) (i : Nat) : Nat := (s.sqr i).minop.toNat

/-- The index of one square raised by one, where that is within its bound and still fits. -/
def raiseOne (s : State) (m : LoopSample) (f : Nat → Nat) (i : Nat) : Nat → Nat :=
  let g (k : Nat) : Nat := if k = i then f k + 1 else f k
  if steered (s.sqr i) && decide (f i < hiOf s m i) && fits s m (indices s g) then g else f

/-- The squares in the order in which the steward raises them: under PERFORMANCE the busy ones first (Table
    14.6). -/
def raiseOrder (s : State) : List Nat :=
  let busy (i : Nat) : Bool := s.pw.policy.pmode == 1 && (s.sqr i).st == .busy
  (List.range 64).filter busy ++ (List.range 64).filter fun i => !busy i

/-- Indices from which the steward goes up: its own choice where that fits, and lo otherwise; under
    PERFORMANCE only of the busy squares. -/
def startIndex (s : State) (m : LoopSample) : Nat → Nat :=
  let f (i : Nat) : Nat :=
    if s.pw.policy.pmode == 1 && (s.sqr i).st != .busy then loOf s i else picked s m i
  if fits s m (indices s f) then f else loOf s

/-- The index of each steered square (R571): hi where that fits, lo where lo does not fit, and otherwise
    indices that fit, from a choice of the steward raised one by one as far as each fits; EFFICIENT does not
    raise them, since the demand that it meets is not given (log entry 34). -/
def chosen (s : State) (m : LoopSample) : Nat → Nat :=
  if s.pw.policy.pmode ≠ 2 && fits s m (indices s (hiOf s m)) then hiOf s m
  else if !fits s m (indices s (loOf s)) then loOf s
  else if s.pw.policy.pmode = 2 then startIndex s m
  else ((raiseOrder s).flatMap fun i => List.replicate 5 i).foldl (raiseOne s m) (startIndex s m)

/-- Does P_LIMIT bound a steered square below its hi (Table 14.5)? -/
def limitBounds (s : State) (m : LoopSample) : Bool :=
  !fits s m (indices s (hiOf s m)) &&
    (List.range 64).any fun i => steered (s.sqr i) && decide (chosen s m i < hiOf s m i)

/-- SQ_OPP of an unpinned square after the decision in a loop state (Table 14.5): INIT has it at index 4 for its
    self-test, under the brake and after a trip nothing moves. -/
def decideSquare (s : State) (m : LoopSample) (st : BitVec 3) (i : Nat) (q : Square) : Square :=
  if q.pinned then q
  else
    let opp : BitVec 3 := if st = 0 then (if q.st = .failed then q.opp else 4)
      else if st.toNat < 4 && steered q then BitVec.ofNat 3 (chosen s m i) else q.opp
    { q with maxop := BitVec.ofNat 3 (hiOf s m i), opp := opp }

/-- The guardband due from the last period is raised (R579), and kept in the NV store. -/
def raiseGuard (s : State) (i : Nat) : State :=
  let q := s.sqr i
  if q.marginDue && decide (q.guard.toNat < 40) then
    let g : BitVec 6 := q.guard + 5
    nvSet { s.nv.renewed (.calibration (7 * i)) with guards := s.nv.guards.put i g }
      (s.modSq i fun q => { q with guard := g, marginDue := false })
  else s.modSq i fun q => { q with marginDue := false }

/-- A margin that falls short at full guardband, at the index of this period's measurement, limits the square for
    life (R580); a limit never rises. -/
def limitForLife (i : Nat) (s : State) : State :=
  let q := s.sqr i
  let k := q.opp.toNat
  let lim : BitVec 4 := BitVec.ofNat 4 (min q.lifeMax.toNat (k - 1))
  let s1 := nvSet { s.nv.renewed (.calibration (7 * i + 1)) with lifeMax := s.nv.lifeMax.put i lim }
    (s.modSq i fun q => { q with lifeMax := lim })
  let s2 := health 1 (BitVec.ofNat 16 (i * 16 + 15)) [] s1
  if k = 0 || decide (k - 1 < q.minop.toNat) then squareFail i s2 else s2

/-- The margin monitors of a period (R579, R580). -/
def readMargin (m : LoopSample) (s : State) (i : Nat) : State :=
  if (m.sqMarginShort.getD i false) && (s.sqr i).st != .parked && (s.sqr i).st != .failed then
    if 40 ≤ (s.sqr i).guard.toNat then limitForLife i s
    else s.modSq i fun q => { q with marginDue := true }
  else s

/-- The stacks whose activation rate is halved (R577). -/
def halvedStacks (s : State) (m : LoopSample) : BitVec 8 :=
  (List.range 8).foldl (fun b k =>
    let t := ((m.stackTemp.getD k 0).toInt)
    let on := if 900 < t then true else if t < 850 then false else s.pw.halved.getLsbD k
    if on then b ||| (1 : BitVec 8) <<< k else b) 0

/-- A byte of a temperature in 0.1 °C, as whole degrees. -/
def degrees (t : Int) : Byte := BitVec.ofInt 8 (t / 10)

/-- Is a square powered, so that its sensors read? -/
def squareOn (s : State) (i : Nat) : Bool :=
  s.boot.conversion && (s.sqr i).st != .parked && (s.sqr i).st != .failed

/-- The operating byte of a square: its index, its pin and its state; 0 while the square has no power (R582). -/
def sqopByte (s : State) (i : Nat) : Byte :=
  let q := s.sqr i
  if squareOn s i then BitVec.ofNat 8 (q.opp.toNat + (if q.pinned then 8 else 0) + 16 * q.st.code)
  else 0

/-- The flags of the sensor record; `fired` says that the guard fired in the period. -/
def sensorFlags (s : State) (fired : Bool) : Nat :=
  (if s.pw.brake then 1 else 0) + (if fired then 2 else 0) + (if s.pw.throt then 4 else 0) +
    (if s.boot.vaux then 8 else 0) + (if s.pins.thermtrip then 16 else 0)

/-- Bytes 0 to 23 of the sensor record. -/
def sensorHead (s : State) (m : LoopSample) (fired : Bool) : List Byte :=
  let w := s.pw
  leBytes 8 s.mg.timebase.toNat ++ leBytes 2 w.vin.toNat ++ leBytes 2 w.iin.toNat ++
    leBytes 2 m.pkg.toNat ++ leBytes 2 w.plimit.toNat ++
    leBytes 2 (BitVec.ofInt 16 (hottest (dieTemps s m))).toNat ++
    [BitVec.ofNat 8 (loopState s).toNat, BitVec.ofNat 8 (sensorFlags s fired)] ++ leBytes 4 0

/-- The bytes of the squares and the stacks. -/
def sensorBody (s : State) (m : LoopSample) : List Byte :=
  ((List.range 64).map fun i =>
      if squareOn s i then degrees (withOffset s (m.sqTemp.getD i 0)) else 0) ++
    (List.range 64).map (sqopByte s) ++
    ((List.range 64).flatMap fun i =>
      leBytes 2 (if squareOn s i then (m.sqPower.getD i 0).toNat else 0)) ++
    (List.range 8).map fun k => if s.boot.conversion then degrees (withOffset s (m.stackTemp.getD k 0)) else 0

/-- The last bytes: life, hot time, mean temperature and the largest guardband. -/
def sensorTail (s : State) : List Byte :=
  leBytes 4 (s.nv.lifeMs / 3600000) ++ leBytes 4 (s.nv.hotMs / 3600000) ++
    leBytes 2 (s.nv.tjSum / max s.nv.tjCount 1) ++
    [BitVec.ofNat 8 ((List.range 64).foldl (fun g i => max g (s.sqr i).guard.toNat) 0)] ++ leBytes 5 0

/-- The sensor record (Table 14.9). -/
def sensorRecord (s : State) (m : LoopSample) (fired : Bool) : List Byte :=
  sensorHead s m fired ++ sensorBody s m ++ sensorTail s

/-- Policy and calibration take effect at a period's start, and the guard releases the squares (R563,
    R574, R576). -/
def periodStart (s : State) : State :=
  { s with
    pw := { s.pw with policy := s.pw.nextPolicy, calApplied := s.nv.cal, guard := false }
    hub := { s.hub with scrubPeriod := s.pw.nextPolicy.scrub } }

/-- A row is copied to a spare row by soft repair (R128): each of its sectors is read on the way as any master's
    read (R118, R121, R123): a correctable error is corrected and counted, one that does not decode is a detection
    and poisons its sector, and a poisoned sector stays poisoned.  The table names no master for the steward's
    copying, and it is logged as the scrub (log entry 62). -/
def spareRow (row : Nat) (s : State) : State :=
  let there (sec : Nat) : Bool := (spotOf s.hub (sec * 64)).rowNumber == row
  let s1 := ((flawedSectors s.flaws).filter there).foldl (fun s sec => (probeHbm 6 (sec * 64) s).2) s
  { s1 with
    hub := { s1.hub with
      spareSoft := satInc s1.hub.spareSoft, sparePending := satInc s1.hub.sparePending,
      spareRows := insertNat row s1.hub.spareRows }
    flaws := { s1.flaws with inner := s1.flaws.inner.filter fun k => !there k } }

/-- Whether the steward decides to spare a row of HBM, and which row of a stack, pseudo-channel and bank, is
    its own choice (R78, R128): both are free values. -/
def rowSpare (s : State) : State :=
  let s1 := { s with free := s.free + 2 }
  let k := Config.freeNat (s.free + 1)
  if Config.freeBool s.free && s.boot.ready then
    health 7 0xFFFF [] (spareRow (k % 16384 * 16384 + k / 16384 % 12288) s1)
  else s1

/-- The life counters of a period of 1 ms (R581). -/
def lifeCount (tj : Int) (s : State) : State :=
  nvSet { s.nv with
    lifeMs := s.nv.lifeMs + 1, hotMs := if 950 < tj then s.nv.hotMs + 1 else s.nv.hotMs,
    tjSum := s.nv.tjSum + tj.toNat, tjCount := s.nv.tjCount + 1 } s

/-- The alert bits a period sets: THERMAL at or above TWARN (R577), POWER while the brake, the guard or
    the input limit is in force (Table 11.14). -/
def loopAlerts (m : LoopSample) (fired : Bool) (s : State) : State :=
  let hot := decide (10 * (s.pw.policy.twarn.toNat : Int) ≤ hottest (dieTemps s m))
  let power := s.pins.pwrbrk || fired || decide (inputLimit s m < boardLimit s)
  alert ((if hot then 8 else 0) ||| (if power then 0x10 else 0)) s

/-- What a period measured, in the registers of Tables 14.10 to 14.12. -/
def loopRegs (m : LoopSample) (throt capped : Bool) (s : State) : State :=
  { s with pw := { s.pw with
    vin := BitVec.ofNat 16 (vinSense s m), iin := m.iin, pkg := BitVec.ofNat 16 (m.pkg.toNat / 10),
    plimit := BitVec.ofNat 16 (pLimit s m), throt := throt, capped := capped,
    periods := s.pw.periods + 1,
    overrun := if m.overrun then satInc s.pw.overrun else s.pw.overrun,
    halved := halvedStacks s m } }

/-- One period of the steward's loop (R571 to R582): it measures, and then it decides. -/
def loopPeriod (m : LoopSample) (s0 : State) : State :=
  let fired := s0.pw.guard
  let s1 := (List.range 64).foldl (readMargin m) ((List.range 64).foldl raiseGuard (periodStart s0))
  let tj := hottest (dieTemps s1 m)
  let throt := decide (10 * (s1.pw.policy.tthrot.toNat : Int) ≤ tj)
  let s2 := loopRegs m throt (fired || limitBounds s1 m) s1
  let s3 := mapOpp (decideSquare s1 m (loopState s2)) { s2 with free := s2.free + 1 }
  let s4 := lifeCount tj (rowSpare (loopAlerts m fired s3))
  { s4 with pw := { s4.pw with sensors := sensorRecord s4 m fired } }

/-- STEWARD_LOOP_PERIOD (R571): the steward measures and decides while it runs. -/
def execStewardLoopPeriod (m : LoopSample) (s : State) : Host.Outcome State Fault Refusal :=
  .next (if s.mg.running && !s.ik.steward.halted then loopPeriod m s else s)

end Sys2Proof.Machine
end

