-- ==== Sys2Proof/Machine/Level.lean ====
section
/-! DEFINITION. Resuming halted cores, and the debug level (R623 to R630, R636, R640, R643). -/

namespace Sys2Proof.Machine

/-- Debug state of a core that goes on: HALTED and REASON return to 0. -/
def CoreDbg.resumed (d : CoreDbg) : CoreDbg :=
  { d with halted := false, step := false, reason := 0, bites := 0 }

/-- One held-off bite is ready at the first boundary (R611, R643). -/
def heldBite (w : EngWd) : EngWd :=
  if w.bite1 then { w with ready := true, second := true }
  else { w with bite1 := true, ready := true, second := false }

/-- A halted engine resumes (R636, R643): two held bites reset it.  Its stream reads again what its element has
    read (R301), and the tender goes on once no freeze is left (R49). -/
def resumeOne (e : Nat) (s : State) : State :=
  let d := (s.eng e).dbg
  if !d.halted then s
  else
    let s1 := haltPacket e 3 0 (s.modEng e fun x => { x with
      dbg := x.dbg.resumed, vec := { x.vec with resp := [] },
      wd := if d.bites = 1 then heldBite x.wd else x.wd })
    if d.bites.toNat = 2 then engineReset e false s1 else resumeTenders (e / 9) s1

/-- An engine resumes with its twin (R640). -/
def resumeEngine (e : Nat) (s : State) : State :=
  match twinOf s e with
  | some t => resumeOne t (resumeOne e s)
  | none => resumeOne e s

/-- The PC of a halted core that is no engine. -/
def CoreDbg.pc (d : CoreDbg) : Word := d.regs.getD 32 0

/-- A debug packet of a core that is no engine, with its PC (R650): it belongs to no square, and enters the
    buffer at once. -/
def corePacket (src : BitVec 16) (kind chan : Byte) (pc : Word) (s : State) : State :=
  if s.ik.haltev then
    { s with ik := enterTrace s.ik { time := s.mg.timebase, src := src, kind := kind, chan := chan, ctx := 0,
                                     lost := false, ring := 0, data := pc } }
  else s

/-- A halted rank controller resumes. -/
def resumeRank (k : Nat) (s : State) : State :=
  if (s.rank k).dbg.halted then
    corePacket (BitVec.ofNat 16 (0xFF00 + k + 1)) 3 0 (s.rank k).dbg.pc
      (s.modRank k fun r => { r with dbg := r.dbg.resumed })
  else s

/-- The steward's debug state changed. -/
def modSteward (f : CoreDbg → CoreDbg) (s : State) : State :=
  { s with ik := { s.ik with steward := f s.ik.steward } }

/-- Every halted core resumes, HALTBRK becomes 0 and the freeze bits 1 (R630), and no request to halt or to
    step is left.  Two bites held off from the steward restart it, by the function given. -/
def resumeAll (stewardResume : State → State) (s : State) : State :=
  let s1 := (s.engines.map Prod.fst).foldl (fun s e => resumeOne e s) s
  let s2 := (List.range 8).foldl (fun s k => resumeRank k s) s1
  let s3 := stewardResume s2
  let clear (d : CoreDbg) : CoreDbg :=
    { d with haltBrk := false, frz := 15, haltReq := false, step := false }
  let engines := s3.engines.map fun (p : Nat × Engine) => (p.1, { p.2 with dbg := clear p.2.dbg })
  let ranks := s3.ranks.map fun (p : Nat × Rank) => (p.1, { p.2 with dbg := clear p.2.dbg })
  modSteward clear { s3 with engines := engines, ranks := ranks }

/-- A fresh debug nonce (R626). -/
def drawNonce (s : State) : State :=
  { s with free := s.free + 1, ik := { s.ik with nonce := Config.random s.free } }

/-- The DEBUG entry of a change (R628). -/
def debugEntry (level : BitVec 2) (meas : List Byte) (slot : Byte) (duration certid : List Byte)
    (s : State) : State :=
  changeDone <| logChange 0x34 (ascii "DEBUG") meas
    (leBytes 1 level.toNat ++ leBytes 1 s.ik.level.toNat ++ [slot] ++ duration ++ certid) s

/-- The level takes effect: below FULL every halted core goes on (R630), a raise sets the alert bit
    (R628), and a lowering draws a new nonce (R626). -/
def setLevel (stewardResume : State → State) (level : BitVec 2) (s : State) : State :=
  let old := s.ik.level
  let s1 := { s with ik := { s.ik with level := level } }
  let s2 := if old = 2 ∧ level ≠ 2 then resumeAll stewardResume s1 else s1
  if old.toNat < level.toNat then alert 2 s2
  else if level.toNat < old.toNat then drawNonce s2
  else s2

/-- The level is lowered without a certificate (R628, R629). -/
def lowerLevel (stewardResume : State → State) (level : BitVec 2) (s : State) : State :=
  if s.ik.level.toNat ≤ level.toNat then s
  else setLevel stewardResume level (debugEntry level [] 0xFF (leBytes 4 0) (leBytes 8 0) s)

end Sys2Proof.Machine
end

