-- ==== Sys2Proof/Machine/Image.lean ====
section
/-! DEFINITION. Structure images: their layout, the checks of Table 9.11, the board an image
describes, and its application at boot and at run time (R395, R396, R419 to R431, R541, R570,
R575). -/

namespace Sys2Proof.Machine

/-! ### Layout (R421, R422) -/

/-- A section of an image: TYPE, INST and value. -/
structure Section where
  typ : Nat
  inst : Nat
  val : List Byte
  deriving DecidableEq, Repr

/-- LENGTH of an image. -/
def imgLength (img : List Byte) : Nat := fieldAt img 0x14 4

/-- ARB of an image. -/
def imgArb (img : List Byte) : BitVec 32 := BitVec.ofNat 32 (fieldAt img 0x10 4)

/-- SERIAL of an image. -/
def imgSerial (img : List Byte) : Word := BitVec.ofNat 64 (fieldAt img 8 8)

/-- The signed part of an image (R423). -/
def signedPart (img : List Byte) : List Byte := img.take (imgLength img - 576)

/-- DIGEST of an image. -/
def imgDigest (img : List Byte) : List Byte := bytesAt img (imgLength img - 576) 64

/-- Are `n` bytes from an offset 0? -/
def zeros (bs : List Byte) (off n : Nat) : Bool := (bytesAt bs off n).all (· == 0)

/-- The sections from an offset up to `stop`; `none` where the framing fails (code 7). -/
def sectionsFrom (img : List Byte) (stop : Nat) : Nat → Nat → Option (List Section)
  | 0, _ => none
  | fuel + 1, off =>
    if off = stop then some []
    else if stop < off + 8 then none
    else
      let t := fieldAt img off 2
      let n := fieldAt img (off + 4) 4
      if n % 8 ≠ 0 ∨ stop < off + 8 + n then none
      else if t < 0x8000 ∧ ¬ (1 ≤ t ∧ t ≤ 8) then none
      else (sectionsFrom img stop fuel (off + 8 + n)).map
        (⟨t, fieldAt img (off + 2) 2, bytesAt img (off + 8) n⟩ :: ·)

/-- The sections of an image. -/
def sections (img : List Byte) : Option (List Section) :=
  sectionsFrom img (imgLength img - 576) (img.length / 8 + 1) 0x100

/-- The sections of a type. -/
def ofType (t : Nat) (l : List Section) : List Section := l.filter fun x => x.typ == t

/-- The value of the one section of a type, if it is there. -/
def valueOf (t : Nat) (l : List Section) : Option (List Byte) := (ofType t l).head?.map Section.val

/-- Entries of `n` bytes of a section value. -/
def entries (n : Nat) (v : List Byte) : List (List Byte) :=
  (List.range (v.length / n)).map fun i => bytesAt v (n * i) n

/-- Is no element of a list of numbers repeated? -/
def distinct : List Nat → Bool
  | [] => true
  | x :: xs => !xs.contains x && distinct xs

/-! ### Counts and fields (codes 8 and 9) -/

/-- The count of a section type breaks Table 9.5, or an INST is out of range or repeated. -/
def countOk (l : List Section) (t lo hi inst : Nat) : Bool :=
  let x := ofType t l
  decide (lo ≤ x.length ∧ x.length ≤ hi) && x.all (fun s => decide (s.inst < inst)) &&
    distinct (x.map Section.inst)

/-- The counts of Table 9.5. -/
def countsOk (l : List Section) : Bool :=
  countOk l 1 1 1 1 && countOk l 2 1 16 16 && countOk l 3 0 1 1 && countOk l 4 0 1 1 &&
    countOk l 5 0 1 1 && countOk l 6 0 64 64 && countOk l 7 0 1 1 && countOk l 8 0 1 1

/-- The fields of the header (Table 9.4). -/
def headerOk (img : List Byte) : Bool :=
  imgSerial img != 0 && decide (fieldAt img 0x18 2 ≤ 1024) && decide (fieldAt img 0x1A 2 < 2) &&
    zeros img 0x1D 3 && zeros img 0x40 192

/-- The fields of a DEVICE value (Table 9.6). -/
def deviceOk (v : List Byte) : Bool :=
  v.length == 16 && decide (fieldAt v 2 1 ≤ 1 ∧ fieldAt v 3 1 ≤ 2 ∧ fieldAt v 4 1 ≤ 2 ∧
    fieldAt v 5 1 ≤ 2 ∧ (fieldAt v 6 1 ≤ 15 ∨ fieldAt v 6 1 = 0xFF)) && zeros v 7 9

/-- The fields of a PARTITION value (Table 9.7). -/
def partitionOk (v : List Byte) : Bool :=
  v.length == 64 && !zeros v 0 8 &&
    decide (1 ≤ fieldAt v 0x0C 4 ∧ fieldAt v 0x0C 4 ≤ 2097152 ∧ fieldAt v 0x14 4 ≤ 1572864) &&
    zeros v 0x18 8

/-- An entry of SQUARES (Table 9.5, R420). -/
def squareEntryOk (v : List Byte) : Bool :=
  let lo := fieldAt v 0 1
  let hi := fieldAt v 1 1
  decide (lo ≤ hi ∧ hi ≤ 5 ∧ fieldAt v 2 1 ≤ 1 ∧ fieldAt v 3 1 = 0 ∧ (fieldAt v 2 1 = 1 → lo = hi))

/-- The fields of an endpoint code (Table 9.2). -/
def endpointOk (c : Nat) : Bool :=
  let dir := c / 4096 % 8
  decide (0x8000 ≤ c) &&
    (if dir = 5 then decide (c / 512 % 8 = 0 ∧ c % 8 = 0) else decide (dir ≤ 4 ∧ c % 16 = 0))

/-- An entry of WIRES (Table 9.8). -/
def wireEntryOk (v : List Byte) : Bool :=
  let w := fieldAt v 0 2
  let d := fieldAt v 2 2
  decide (w / 2048 % 16 = 0) && zeros v 4 4 &&
    (if 0x8000 ≤ w then decide (w / 512 % 4 = 0 ∧ d = 0) else endpointOk d)

/-- An entry of PAIRS (Table 9.5). -/
def pairEntryOk (v : List Byte) : Bool :=
  decide (fieldAt v 0 1 < 64 ∧ fieldAt v 1 1 < 64) && zeros v 2 2

/-- The fields of a TUNNEL value (Table 9.9). -/
def tunnelOk (v : List Byte) : Bool :=
  v.length == 16 && decide (fieldAt v 0 1 ≤ 15 ∧ fieldAt v 1 1 ≤ 1 ∧ fieldAt v 4 1 < 64 ∧
    fieldAt v 5 1 ≤ 3 ∧ fieldAt v 6 2 < 0x4000 ∧ (fieldAt v 1 1 = 0 → fieldAt v 6 2 = 0)) && zeros v 9 7

/-- The ranges of a power-policy record (Table 14.6). -/
def policyOk (v : List Byte) : Bool :=
  let pl := fieldAt v 0 2
  let pc := fieldAt v 2 2
  let tw := fieldAt v 4 1
  let tt := fieldAt v 5 1
  decide (300 ≤ pl ∧ pl ≤ pc ∧ 300 ≤ pc ∧ pc ≤ 1000 ∧ 70 ≤ tw ∧ tw ≤ 100 ∧ tw ≤ tt ∧ tt ≤ 105 ∧
    1 ≤ fieldAt v 6 1 ∧ fieldAt v 6 1 ≤ 168 ∧ fieldAt v 7 1 ≤ 2 ∧ fieldAt v 8 1 ≤ 1) &&
    zeros v 10 6 && (List.range 16).all (fun p => decide (fieldAt v 16 8 / 16 ^ p % 16 ≤ 5)) &&
    zeros v 24 8

/-- A record of ROUTES (R540, R541). -/
def routeEntryOk (v : List Byte) : Bool :=
  let e := fieldAt v 2 2
  decide (e / 256 % 4 = 0 ∧ e / 4096 % 8 = 0 ∧ e / 1024 % 4 ≠ 3) && zeros v 4 4

/-- The fields of every known section (code 9). -/
def sectionFieldsOk (x : Section) : Bool :=
  match x.typ with
  | 1 => deviceOk x.val
  | 2 => partitionOk x.val
  | 3 => x.val.length == 256 && (entries 4 x.val).all squareEntryOk
  | 4 => (entries 8 x.val).all wireEntryOk
  | 5 => (entries 4 x.val).all pairEntryOk
  | 6 => tunnelOk x.val
  | 7 => x.val.length == 32 && policyOk x.val
  | 8 => (entries 8 x.val).all routeEntryOk && distinct ((entries 8 x.val).map fun r => fieldAt r 0 2)
  | _ => true

/-! ### The board an image describes -/

/-- A power policy from its record. -/
def policyOf (v : List Byte) : PowerPolicy :=
  { plimit := BitVec.ofNat 16 (fieldAt v 0 2), pceil := BitVec.ofNat 16 (fieldAt v 2 2),
    twarn := BitVec.ofNat 8 (fieldAt v 4 1), tthrot := BitVec.ofNat 8 (fieldAt v 5 1),
    scrub := BitVec.ofNat 8 (fieldAt v 6 1), pmode := BitVec.ofNat 8 (fieldAt v 7 1),
    turbo := fieldAt v 8 1 == 1, parkidle := BitVec.ofNat 8 (fieldAt v 9 1),
    pmaxop := BitVec.ofNat 64 (fieldAt v 16 8) }

/-- A partition from its section. -/
def partitionOf (x : Section) : Partition :=
  { num := BitVec.ofNat 4 x.inst, sqmask := BitVec.ofNat 64 (fieldAt x.val 0 8),
    pgFirst := fieldAt x.val 8 4, pgCount := fieldAt x.val 0x0C 4, hbFirst := fieldAt x.val 0x10 4,
    hbCount := fieldAt x.val 0x14 4, ctxmask := BitVec.ofNat 256 (fieldAt x.val 0x20 32) }

/-- A SQUARES entry. -/
def sqCfgOf (v : List Byte) : SqCfg :=
  { minop := BitVec.ofNat 3 (fieldAt v 0 1), maxop := BitVec.ofNat 3 (fieldAt v 1 1),
    pin := fieldAt v 2 1 == 1 }

/-- The logical engine an entry of WIRES names. -/
def entryEngine (v : List Byte) : Nat :=
  let w := fieldAt v 0 2
  w % 64 * 8 + w / 64 % 8

/-- Is an entry of WIRES a final marker? -/
def isFinal (v : List Byte) : Bool := decide (0x8000 ≤ fieldAt v 0 2)

/-- A wire from its entry. -/
def wireOfEntry (v : List Byte) : Wire :=
  ⟨entryEngine v, fieldAt v 0 2 / 512 % 4, BitVec.ofNat 16 (fieldAt v 2 2)⟩

/-- A tunnel from its section. -/
def tunnelOfSection (x : Section) : Tunnel :=
  { num := x.inst, part := BitVec.ofNat 4 (fieldAt x.val 0 1), inbound := fieldAt x.val 1 1 == 1,
    node := BitVec.ofNat 16 (fieldAt x.val 2 2), rtun := BitVec.ofNat 6 (fieldAt x.val 4 1),
    cls := BitVec.ofNat 2 (fieldAt x.val 5 1), dest := BitVec.ofNat 16 (fieldAt x.val 6 2),
    lctx := BitVec.ofNat 8 (fieldAt x.val 8 1) }

/-- The board of an image's sections, without its chains. -/
def boardOf (img : List Byte) (slotB : Bool) (l : List Section) : Board :=
  let d := (valueOf 1 l).getD []
  let w := entries 8 ((valueOf 4 l).getD [])
  let sq := match valueOf 3 l with
    | some v => (entries 4 v).map sqCfgOf
    | none => List.replicate 64 {}
  { opening := false, serial := imgSerial img, arb := imgArb img, digest := hashWord (imgDigest img),
    slotB := slotB, bootOnly := fieldAt img 0x1A 2 == 1, node := BitVec.ofNat 16 (fieldAt d 0 2),
    ilvLocal := fieldAt d 2 1 == 1, chskew := BitVec.ofNat 2 (fieldAt d 3 1),
    bkskew := BitVec.ofNat 2 (fieldAt d 4 1), spare := BitVec.ofNat 2 (fieldAt d 5 1),
    mapMaster := BitVec.ofNat 8 (fieldAt d 6 1), parts := (ofType 2 l).map partitionOf, squares := sq,
    wires := (w.filter fun e => !isFinal e).map wireOfEntry,
    finals := (w.filter isFinal).map entryEngine,
    pairs := (entries 4 ((valueOf 5 l).getD [])).map fun e => (fieldAt e 0 1, fieldAt e 1 1),
    tunnels := (ofType 6 l).map tunnelOfSection,
    power := ((valueOf 7 l).map policyOf).getD {},
    routes := (entries 8 ((valueOf 8 l).getD [])).foldl (fun m r =>
      SMap.set 0 m (fieldAt r 0 2) (BitVec.ofNat 16 (fieldAt r 2 2))) [] }

/-! ### Chains of a board (R395, R396, R428) -/

/-- The wires of a board, those of the opening by the rule of R428. -/
def boardWires (b : Board) : List Wire :=
  if b.opening then
    (List.range 512).flatMap fun l => (List.range 4).map fun n => ⟨l, n, wireCode b l n⟩
  else b.wires

/-- The logical engines a wire touches: its source and, unless it leads to a tunnel, its destination. -/
def wireTouches (w : Wire) : List Nat :=
  match decodeWire w.leng w.code with
  | some (.queue d _ _) => [w.leng, d]
  | _ => [w.leng]

/-- The partner of a primary square. -/
def partnerIn (b : Board) (sq : Nat) : Option Nat :=
  (b.pairs.find? fun p => p.1 == sq).map Prod.snd

/-- Join the groups that hold any of some engines. -/
def joinGroups (gs : List (List Nat)) (es : List Nat) : List (List Nat) :=
  let hit (g : List Nat) : Bool := es.any fun e => g.contains e
  let one := (gs.filter hit).foldl (fun a g => g.foldl (fun a e => insertNat e a) a)
    (es.foldl (fun a e => insertNat e a) [])
  one :: gs.filter fun g => !hit g

/-- A group with the twins of its members (R395). -/
def withTwins (b : Board) (g : List Nat) : List Nat :=
  g.foldl (fun a e => match partnerIn b (e / 8) with
    | some p => insertNat (p * 8 + e % 8) a
    | none => a) g

/-- A group goes before the groups with a higher lowest member. -/
def insertGroup (g : List Nat) : List (List Nat) → List (List Nat)
  | [] => [g]
  | h :: t => if g.headD 0 ≤ h.headD 0 then g :: h :: t else h :: insertGroup g t

/-- The chains of a board as lists of members, in ascending order of the lowest member (R395, R396). -/
def chainGroups (b : Board) : List (List Nat) :=
  (((boardWires b).map wireTouches).foldl joinGroups []).foldl
    (fun a g => insertGroup (withTwins b g) a) []

/-- The wires of a chain. -/
def groupWires (b : Board) (g : List Nat) : List Wire :=
  (boardWires b).filter fun w => g.contains w.leng

/-- The logical engine of an inbound tunnel's queue. -/
def tunnelDest (t : Tunnel) : Nat :=
  (t.dest.extractLsb' 0 6).toNat * 8 + (t.dest.extractLsb' 6 3).toNat

/-- Does a wire lead to a tunnel? -/
def feedsTunnel (t : Nat) (w : Wire) : Bool :=
  match decodeWire w.leng w.code with
  | some (.tunnel i) => i == t
  | _ => false

/-- The tunnels with an end on one of some logical engines. -/
def tunnelsAt (b : Board) (p : Nat → Bool) : List Tunnel :=
  b.tunnels.filter fun t =>
    if t.inbound then p (tunnelDest t) else b.wires.any fun w => feedsTunnel t.num w && p w.leng

/-- Do two lists hold the same elements? -/
def sameSet {α : Type} [DecidableEq α] (a b : List α) : Bool :=
  a.all (fun x => decide (x ∈ b)) && b.all fun x => decide (x ∈ a)

/-- The partition number of a square in a board; `none` when it is in no partition. -/
def boardPart (b : Board) (sq : Nat) : Option Partition := b.parts.find? fun p => p.hasSq sq

/-- Is a chain of a new board left unchanged from an old one (R430)? -/
def chainKept (o b : Board) (g : List Nat) : Bool :=
  decide (g ∈ chainGroups o) && sameSet (groupWires o g) (groupWires b g) &&
    sameSet (o.finals.filter fun n => g.contains n) (b.finals.filter fun n => g.contains n) &&
    sameSet (tunnelsAt o fun n => g.contains n) (tunnelsAt b fun n => g.contains n) &&
    g.all fun n => (boardPart o (n / 8)).map Partition.num == (boardPart b (n / 8)).map Partition.num

/-- Chain IDs: a kept chain has its own, the others take the free ones in ascending order. -/
def assignIds : List (List Nat × Option Nat) → List Nat → List (List Nat × Nat)
  | [], _ => []
  | (g, some i) :: r, free => (g, i) :: assignIds r free
  | (g, none) :: r, i :: free => (g, i) :: assignIds r free
  | (_, none) :: r, [] => assignIds r []

/-- The chains of a board with their IDs, over the kept chains of an old board. -/
def chainIds (b : Board) (kept : List Nat → Option Nat) : List (List Nat × Nat) :=
  let gs := (chainGroups b).map fun g => (g, kept g)
  let used := gs.filterMap Prod.snd
  assignIds gs ((List.range 255).filter fun i => !used.contains i)

/-- The chain IDs of a board, by logical engine. -/
def chidMap (l : List (List Nat × Nat)) : SMap Byte :=
  l.foldl (fun m p => p.1.foldl (fun m n => SMap.put m n (BitVec.ofNat 8 p.2)) m) []

/-! ### The checks (Table 9.11) -/

/-- Do two ranges of numbers share one? -/
def rangesMeet (a n b m : Nat) : Bool := decide (0 < n ∧ 0 < m ∧ a < b + m ∧ b < a + n)

/-- Do two partitions share a square, a context, a page or a frame? -/
def partsMeet (p q : Partition) : Bool :=
  (p.sqmask &&& q.sqmask) != 0 || (p.ctxmask &&& q.ctxmask) != 0 ||
    rangesMeet p.pgFirst p.pgCount q.pgFirst q.pgCount ||
    rangesMeet p.hbFirst p.hbCount q.hbFirst q.hbCount

/-- Are all partitions apart? -/
def partsApart : List Partition → Bool
  | [] => true
  | p :: ps => ps.all (fun q => !partsMeet p q) && partsApart ps

/-- Code 10. -/
def rangesOk (b : Board) : Bool :=
  partsApart b.parts &&
    b.parts.all (fun p => decide (p.pgFirst + p.pgCount ≤ 2097152) &&
      (p.hbCount == 0 || decide (p.hbFirst + p.hbCount ≤ 1572864))) &&
    (b.mapMaster == 0xFF || b.parts.any fun p => p.num.toNat == b.mapMaster.toNat)

/-- The partition number of a logical engine's square. -/
def engPart (b : Board) (l : Nat) : Option (BitVec 4) := (boardPart b (l / 8)).map Partition.num

/-- Is a logical engine in a partner square? -/
def onPartner (b : Board) (l : Nat) : Bool := b.pairs.any fun p => p.2 == l / 8

/-- A wire obeys R392 and R411: its ends are on the board, in one partition and off partner squares. -/
def wireOk (b : Board) (w : Wire) : Bool :=
  (engPart b w.leng).isSome && !onPartner b w.leng &&
    match decodeWire w.leng w.code with
    | none => false
    | some (.queue d _ _) => engPart b d == engPart b w.leng && !onPartner b d
    | some (.tunnel t) =>
      b.tunnels.any fun x => x.num == t && !x.inbound && some x.part == engPart b w.leng

/-- The queues that wires feed, as numbers. -/
def fedQueues (b : Board) : List Nat :=
  b.wires.filterMap fun w => match decodeWire w.leng w.code with
    | some (.queue d q _) => some (4 * d + q)
    | _ => none

/-- The queues that inbound tunnels feed. -/
def tunnelQueues (b : Board) : List Nat :=
  (b.tunnels.filter Tunnel.inbound).map fun t => 4 * tunnelDest t + (t.dest.extractLsb' 9 2).toNat

/-- Code 11. -/
def wiringOk (b : Board) : Bool :=
  let gs := chainGroups b
  b.wires.all (wireOk b) && distinct (b.wires.map fun w => 4 * w.leng + w.out) &&
    distinct (fedQueues b) && distinct (tunnelQueues b) &&
    (b.tunnels.filter Tunnel.inbound).all (fun t => !onPartner b (tunnelDest t) &&
      engPart b (tunnelDest t) == some t.part) &&
    b.finals.all (fun n => !b.wires.any fun w => w.leng == n) &&
    gs.all (fun g => decide ((b.finals.filter fun n => g.contains n).length ≤ 1)) &&
    decide (gs.length ≤ 255)

/-- Code 12. -/
def pairsOk (b : Board) : Bool :=
  b.pairs.all (fun p => decide (p.1 < p.2) && (boardPart b p.1).isSome &&
    boardPart b p.1 == boardPart b p.2) &&
    distinct (b.pairs.flatMap fun p => [p.1, p.2])

/-- Code 13. -/
def tunnelsOk (b : Board) : Bool :=
  b.tunnels.all fun t =>
    b.parts.any (fun p => p.num == t.part) &&
      (if t.inbound then !(fedQueues b).contains (4 * tunnelDest t + (t.dest.extractLsb' 9 2).toNat)
       else (b.wires.filter (feedsTunnel t.num)).length == 1)

/-- The charge of a square in the brake sum, in 0.1 W (R570, Table 14.4). -/
def brakeCharge (b : Board) (sq : Nat) : Nat :=
  if (boardPart b sq).isNone then 0
  else
    let c := b.squares.getD sq {}
    if c.pin then [12, 31, 48, 64, 85, 118].getD c.minop.toNat 118 else 12

/-- Code 14: the brake sum against the calibrated brake level. -/
def brakeOk (level : Nat) (b : Board) : Bool :=
  decide (1850 + ((List.range 64).map (brakeCharge b)).sum ≤ 10 * level)

/-- Does the map master, or the job-space range of a partition, change (code 15)? -/
def mapMoves (o b : Board) : Bool :=
  let span (x : Board) (n : Nat) : Option (Nat × Nat) :=
    (x.parts.find? fun p => p.num.toNat == n).map fun p => (p.pgFirst, p.pgCount)
  o.mapMaster != b.mapMaster || (List.range 16).any fun n => span o n != span b n

/-- Code 15: what only a boot may apply. -/
def runTimeOk (s : State) (b : Board) : Bool :=
  let o := s.board
  !b.bootOnly && b.ilvLocal == o.ilvLocal && b.chskew == o.chskew && b.bkskew == o.bkskew &&
    b.node == o.node && !(mapMoves o b && (s.hub.rb.busy || !s.hub.fence))

/-- The modulus that a SIGSLOT names, if the part holds it and accepts it (R424, code 4). -/
def signKey (s : State) (slot : Nat) : Option (List Byte) :=
  if slot = 0 then if s.nv.isClaimed then none else some (leBytes 512 Config.stKeyModulus.toNat)
  else if 4 < slot then none
  else
    let k := s.nv.keyAt (slot + 3)
    if k.isEmpty then none else some k

/-- Does the signature of an image verify (code 5)?  The vendor key is the one whose hash is fused. -/
def imgVerify (slot : Nat) (key img : List Byte) : Bool :=
  (slot != 0 || sha512 key == hashBytes Config.stKeyHash) &&
    pssVerify (leNat key) (bytesAt img (imgLength img - 512) 512) (signedPart img)

/-- The calibrated brake level (R570): the one applied at run time, and at a boot the one that the NV store
    has. -/
def brakeLevel (s : State) (run : Bool) : Nat :=
  ((if run then s.pw.calApplied else s.nv.cal)[3]).toNat

/-- The checks of a board that an image describes, codes 10 to 16, with the board and its chains. -/
def boardCode (s : State) (run : Bool) (b : Board) : Nat :=
  if !rangesOk b then 10
  else if !wiringOk b then 11
  else if !pairsOk b then 12
  else if !tunnelsOk b then 13
  else if !brakeOk (brakeLevel s run) b then 14
  else if run && !runTimeOk s b then 15
  else if run && s.boot.next.isSome then 16
  else 0

/-- The checks of Table 9.11 in its order: the refusal code and, when it is 0, the board of the
    image (R425).  A slot that is not complete fails at code 2 whatever it holds (R469).  `run`
    adds the run-time codes. -/
def imageCheck (s : State) (run slotB : Bool) (x : ImgSlot) : Nat × Option Board :=
  let img := x.data
  let len := imgLength img
  let slot := fieldAt img 0x1C 1
  if !x.complete then (2, none)
  else if bytesAt img 0 4 ≠ ascii "BNSI" ∨ fieldAt img 5 1 ≠ 1 ∨ fieldAt img 6 2 ≠ 0x9512 then (1, none)
  else if len % 8 ≠ 0 ∨ 2097152 < len ∨ img.length < len ∨ fieldAt img 0x18 2 = 0 then (2, none)
  else if imgDigest img ≠ sha512 (signedPart img) then (3, none)
  else match signKey s slot with
    | none => (4, none)
    | some key =>
      if !imgVerify slot key img then (5, none)
      else if (imgArb img).toNat < s.nv.stCounter.toNat then (6, none)
      else match sections img with
        | none => (7, none)
        | some l =>
          if l.length ≠ fieldAt img 0x18 2 then (7, none)
          else if !countsOk l then (8, none)
          else if !(headerOk img && l.all sectionFieldsOk) then (9, none)
          else
            let b := boardOf img slotB l
            let c := boardCode s run b
            (c, if c = 0 then some b else none)

/-! ### Selection (R426) -/

/-- The checks of a structure slot by codes 1 to 14. -/
def slotCheck (s : State) (slotB : Bool) : Nat × Option Board :=
  imageCheck s false slotB (s.nv.stAt slotB)

/-- Does the image of slot B come before that of slot A: the higher ARB, then the higher SERIAL? -/
def preferB (a b : Board) : Bool :=
  if a.arb ≠ b.arb then decide (a.arb.toNat < b.arb.toNat) else decide (a.serial.toNat < b.serial.toNat)

/-- The structure a boot applies, and the refusal codes of both slots; with FORCE_OPENING high it checks
    neither. -/
def selectStructure (s : State) : Option Board × Nat × Nat :=
  if s.pins.force then (none, 0, 0)
  else
    let (ca, a) := slotCheck s false
    let (cb, b) := slotCheck s true
    let pick := match a, b with
      | some x, some y => some (if preferB x y then y else x)
      | some x, none => some x
      | none, y => y
    (pick, ca, cb)

/-! ### Application (R419, R420, R427, R430) -/

/-- The settings of a board for one square. -/
def squareSettings (b : Board) (i : Nat) (q : Square) : Square :=
  let c := b.squares.getD i {}
  let pair := match b.pairs.find? fun p => p.1 == i || p.2 == i with
    | some p => some (if p.1 = i then p.2 else p.1)
    | none => none
  let part := boardPart b i
  { q with
    assigned := part.isSome, part := (part.map Partition.num).getD 0
    paired := pair.isSome, partner := BitVec.ofNat 6 (pair.getD 0)
    minop := c.minop, maxop := c.maxop, pinned := c.pin, opp := if c.pin then c.minop else q.opp }

/-- The link an outbound tunnel takes when a structure applies: the lowest of its route that is up
    (R542).  A tunnel that the old board had keeps its own. -/
def chooseLinks (o b : Board) (s : State) : State :=
  let keep (t : Tunnel) : Bool := o.tunnels.contains t
  let links := (b.tunnels.filter fun t => !t.inbound).foldl (fun m t =>
    match s.frx.tunLink.find? fun p => p.1 == t.num && keep t with
    | some (_, i) => SMap.put m t.num i
    | none =>
      let ent := routeOf s t.node
      match (if ent.getLsbD 15 then upLinks s ent else []).head? with
      | some i => SMap.put m t.num i
      | none => m) ([] : SMap Nat)
  let used := s.frx.used.filter fun p => b.tunnels.any fun t => t.num == p.1 && keep t
  let notices := s.frx.notices.filter fun p => b.tunnels.any fun t => t.num == p.1 && keep t
  { s with frx := { s.frx with tunLink := links, used := used, notices := notices } }

/-- The settings of a board take effect: interleave, node, routes, squares, the power policy, and the
    structure counter (R427, R430 step 5, R485). -/
def loadBoard (b : Board) (s : State) : State :=
  let o := s.board
  let arb := BitVec.ofNat 32 (Nat.max s.nv.stCounter.toNat b.arb.toNat)
  let s0 := if b.opening then s else nvRecord 1 (fun r => { s.nv with stArb := r }) s.nv.stArb arb s
  let s1 := { s0 with
    board := b
    hub := { s.hub with ilvLocal := b.ilvLocal, chskew := b.chskew, bkskew := b.bkskew }
    frx := { s.frx with node := b.node }
    pw := { s.pw with nextPolicy := b.power }
    boot := { s.boot with openingReg := b.opening, stslotB := b.slotB } }
  let s2 := (List.range 64).foldl (fun s i => s.modSq i (squareSettings b i)) s1
  chooseLinks o b s2

/-- The board of the opening (R428). -/
def openingBoard : Board := {}

/-- A board with the IDs of its chains. -/
def withChains (b : Board) (l : List (List Nat × Nat)) : Board :=
  if b.opening then b else { b with chids := chidMap l }

/-- A board applied at boot: every chain is new. -/
def bootBoard (b : Board) (s : State) : State :=
  loadBoard (withChains b (chainIds b fun _ => none)) { s with chains := [], chst := [] }

/-! ### The switch (R429, R430) -/

/-- The wires with an end on a square, its primary's for a partner. -/
def wiresAt (b : Board) (sq : Nat) : List Wire :=
  let p := ((b.pairs.find? fun x => x.2 == sq).map Prod.fst).getD sq
  (boardWires b).filter fun w => (wireTouches w).any fun l => l / 8 == p

/-- What of a partition affects its squares. -/
def partRange (p : Partition) : BitVec 4 × Nat × Nat × Nat × Nat × BitVec 256 :=
  (p.num, p.pgFirst, p.pgCount, p.hbFirst, p.hbCount, p.ctxmask)

/-- Is a square affected by the change from one board to another (R429)? -/
def affected (o b : Board) (sq : Nat) : Bool :=
  (boardPart o sq).map partRange != (boardPart b sq).map partRange ||
    o.squares.getD sq {} != b.squares.getD sq {} ||
    !sameSet (wiresAt o sq) (wiresAt b sq) ||
    !sameSet (tunnelsAt o fun l => l / 8 == sq) (tunnelsAt b fun l => l / 8 == sq) ||
    (o.pairs.filter fun p => p.1 == sq || p.2 == sq) != (b.pairs.filter fun p => p.1 == sq || p.2 == sq)

/-- The squares a switch affects. -/
def affectedSquares (o b : Board) : List Nat := (List.range 64).filter (affected o b)

/-- An accepted image: its switch begins with the quiescing of the affected squares (R430). -/
def startSwitch (b : Board) (s : State) : State :=
  (affectedSquares s.board b).foldl quiesceSquare { s with boot := { s.boot with next := some b } }

/-- The shadow entry of every page outside the map master's range that differs from the live one is
    written from it (R430 step 5). -/
def syncShadow (s : State) : State :=
  let h := s.hub
  let keep (page : Nat) : Bool := match masterPart s with
    | some p => p.hasPage page
    | none => false
  let sh := (h.live.filter fun p => !keep p.1).foldl (fun m p => SMap.set 0 m p.1 p.2)
    (h.shadow.filter fun p => keep p.1)
  let written (k : Nat) : Bool := !keep k && SMap.get 0 h.live k != SMap.get 0 h.shadow k
  { s with hub := { h with shadow := sh },
           flaws := { s.flaws with chip := s.flaws.chip.filter fun x => !(x.array == 5 && written x.line) } }

/-- The chains that a switch changes are aborted (R430 step 4). -/
def abortChanged (b : Board) (s : State) : State :=
  let gs := chainGroups b
  (chainGroups s.board).foldl (fun s g =>
    if gs.contains g && chainKept s.board b g then s
    else match chainOf s (g.headD 0) with
      | some c => abortChain c [] [] none s
      | none => s) s

/-- The chain state after a switch: a kept chain has its own, a new one the members that are still
    ABORTED. -/
def newChains (s : State) (l : List (List Nat × Nat)) (kept : List Nat → Option Nat) : SMap Chain :=
  let ab := s.chains.flatMap fun p => p.2.aborted
  l.foldl (fun m p =>
    let c : Chain := match kept p.1 with
      | some i => chainSt s i
      | none => { aborted := p.1.filter fun n => ab.contains n }
    SMap.set {} m p.2 c) []

/-- The new settings of a switch (R430 step 5). -/
def applySwitch (b : Board) (s : State) : State :=
  let o := s.board
  let kept (g : List Nat) : Option Nat := if chainKept o b g then chainOf s (g.headD 0) else none
  let ids := chainIds b kept
  let s1 := abortChanged b s
  let cs := newChains s1 ids kept
  syncShadow { loadBoard (withChains b ids) s1 with chains := cs }

/-- Do all squares of a job, those that run as partners among them, belong to its context's partition in a board
    (R70)?  A square that the board newly pairs or unpairs inside the partition does not stop the job (log entry
    77). -/
def jobFits (b : Board) (s : State) (j : Job) : Bool :=
  match b.parts.find? fun p => p.hasCtx j.ctx with
  | none => false
  | some p => (maskSquares j.sqmask ++ jobSquares s j.id).all p.hasSq

/-- The jobs under a new board (R70): a running job whose squares fit goes on, any other ends with
    SWITCH, and so does one that has not started. -/
def switchJobs (b : Board) (s : State) : State :=
  s.jobs.foldl (fun s j =>
    if jobFits b s j then s
    else if j.waiting then endQueued j.id 7 0 s
    else if j.stage = .running then endJob j.id 7 0 0xFFFF 0 s
    else s) s

/-- The tender channels of a square whose context the new board takes from the square's partition stop (R48,
    R57). -/
def switchTenders (s : State) (sq : Nat) : State :=
  stopTenders sq (fun t => !(sqPart s sq).any fun p => p.hasCtx t.ctx) 6 s

/-- A square after a switch: PARKED when it is in no partition, IDLE when newly assigned; one that runs
    on under the brake has index 0 (R567). -/
def settleSquare (o : Board) (s : State) (i : Nat) : State :=
  let s1 := unquiesce s i
  let q := s1.sqr i
  if q.st = .failed then s1
  else if !q.assigned then s1.setSq i { q with st := .parked, policyParked := false, waking := false }
  else if q.st = .parked ∧ (boardPart o i).isNone then
    s1.setSq i (brakeHold s1 { q with st := .idle, policyParked := false })
  else if q.st = .parked then s1
  else s1.setSq i (brakeHold s1 q)

/-- Has a square no work that the switch would meet (R430 step 2)? -/
def settled (q : Square) : Bool :=
  q.st == .quiesced || q.st == .parked || q.st == .failed

/-- STRUCTURE_SWITCH: once the affected squares are quiesced, the ledger entry and steps 4 to 6; a job that has
    reserved its squares meanwhile starts. -/
def structureSwitch (s : State) : State :=
  match s.boot.next with
  | none => s
  | some b =>
    let o := s.board
    let hit := affectedSquares o b
    if !hit.all (fun i => settled (s.sqr i)) then hit.foldl quiesceSquare s
    else
      let data := leBytes 1 (if b.slotB then 1 else 0) ++ leBytes 4 b.arb.toNat ++
        leBytes 8 b.serial.toNat ++ leBytes 1 hit.length
      let s1 := logChange 0x36 (ascii "STRUCTURE") (hashBytes b.digest) data s
      let s2 := hit.foldl switchTenders (switchJobs b (changeDone (applySwitch b s1)))
      let s3 := hit.foldl (settleSquare o) s2
      let s4 := startReady (sweepQueued { s3 with boot := { s3.boot with next := none } })
      match s4.cmd.busy with
      | some ⟨_, _, _, .apply⟩ => answer 0 (leBytes 4 0) s4
      | _ => s4

/-- STRUCTURE_SWITCH (R430). -/
def execStructureSwitch (s : State) : Host.Outcome State Fault Refusal := .next (structureSwitch s)

end Sys2Proof.Machine
end

