-- ==== Sys2Proof/Machine/Spare.lean ====
section
/-! DEFINITION. Spare substitution (R11 to R13, R415 to R418, R431, R475). -/

namespace Sys2Proof.Machine

/-- The reason code of a SPARE entry (Table 12.9). -/
def reasonCode : SpareReason → Nat
  | .selfTest => 0
  | .errorRecurrence => 1
  | .gatingFault => 2
  | .spareNow => 3

/-- The logical engine a position carries, or one that became unavailable when it failed under the
    policy COMMAND and that SPARE_NOW may still move to the spare (R415). -/
def lostLogical (q : Square) (pos : Nat) : Option Nat :=
  match logicalOf q pos with
  | some n => some n
  | none => if !q.spareUsed && !q.retired.getLsbD 8 && posOf q pos == 15 then some pos else none

/-- The engine map with a logical engine at a position; 15 makes it unavailable (R12, R13). -/
def remapTo (n p : Nat) (q : Square) : Square :=
  let m : BitVec 32 := 15 <<< (4 * n)
  { q with map := (q.map &&& ~~~m) ||| BitVec.ofNat 32 (p <<< (4 * n)) }

/-- A position retired until the next power-on (R12, R13). -/
def retirePos (p : Nat) (q : Square) : Square := { q with retired := q.retired ||| (1 : BitVec 9) <<< p }

/-- The work of a square's failed engine ends: the square's job with a status, the engine's chain as
    if the engine had been reset, and the engine's state (R417 step 2, R418). -/
def stopEngine (sq pos : Nat) (status : Byte) (s : State) : State :=
  let e := sq * 9 + pos
  resetWithJobs [(s.sqr sq).job, (s.eng e).job].eraseDups [e] status (BitVec.ofNat 8 sq) (faultNum s e) s

/-- A logical engine is lost without a substitution (R13, R415).  The job of a square that loses its last one
    ends with SQFAILED (R42); else the status is one the spec does not state: a free value. -/
def loseEngine (sq pos n : Nat) (s : State) : State :=
  let st := if (availLogical (s.sqr sq)).all (· == n) then 4 else (Config.freeWord s.free).setWidth 8
  let s1 := stopEngine sq pos st { s with free := s.free + 1 }
  let s2 := saveSpare sq (s1.modSq sq fun q => retirePos pos (remapTo n 15 q))
  if (availLogical (s2.sqr sq)).isEmpty then squareFail sq s2 else sweepQueued s2

/-- The substitution of R417: ledger and health entries, the spare's self-test, and the remap; a spare
    that fails is abandoned with the failed engine. -/
def substitute (sq pos n reason : Nat) (selfTestOk : Bool) (s : State) : State :=
  let s1 := stopEngine sq pos 5 s
  let s2 := health 5 (BitVec.ofNat 16 (sq * 16 + pos)) []
    (logChange 0x40 (ascii "SPARE") [] (leBytes 1 sq ++ leBytes 1 pos ++ leBytes 1 reason) s1)
  if selfTestOk then
    let s3 := (clearEngine (sq * 9 + 8) s2).modSq sq fun q =>
      { retirePos pos (remapTo n 8 q) with spareUsed := true }
    sweepQueued (changeDone (saveSpare sq (clearTiles (sq * 9 + 8) (sq * 9 + 9) s3)))
  else
    let s4 := saveSpare sq ((abandonOpened s2).modSq sq fun q => retirePos 8 (retirePos pos (remapTo n 15 q)))
    if (availLogical (s4.sqr sq)).isEmpty then squareFail sq s4 else sweepQueued s4

/-- May the spare of a square be used (R13, R417)? -/
def spareFree (q : Square) : Bool := !q.spareUsed && !q.retired.getLsbD 8

/-- What the steward does about a failed engine (R415, R416): substitute, or make the engine
    unavailable. -/
def failEngine (sq pos : Nat) (reason : SpareReason) (selfTestOk : Bool) (s : State) : State :=
  let q := s.sqr sq
  let auto := s.board.spare == 0 || (s.board.spare == 1 && reason == .spareNow)
  if q.st = .failed then s
  else if auto && spareFree q then
    match lostLogical q pos with
    | some n => substitute sq pos n (reasonCode reason) selfTestOk s
    | none => s
  else
    match logicalOf q pos with
    | some n => loseEngine sq pos n s
    | none => s

/-- SPARE_SUBSTITUTION: it waits for a structure switch in progress (R431), and for SPARE_NOW it
    needs the command that asked for it. -/
def spareSubstitution (sq pos : Nat) (reason : SpareReason) (selfTestOk : Bool) (s : State) : State :=
  if s.boot.next.isSome then s
  else
    let asked := match s.cmd.busy with
      | some ⟨_, _, _, .spare i p⟩ => i == sq && p == pos
      | _ => false
    if reason = .spareNow then
      if asked then
        let s1 := failEngine sq pos reason selfTestOk s
        answer 0 (leBytes 8 (sqRead s1 sq 0x10).toNat) s1
      else s
    else failEngine sq pos reason selfTestOk s

/-- SPARE_SUBSTITUTION (R417), which the steward core does while it runs (R641). -/
def execSpareSubstitution (sq : SqId) (reason : SpareReason) (pos : Fin 9) (selfTestOk : Bool)
    (s : State) : Host.Outcome State Fault Refusal :=
  .next (if stewardRuns s then spareSubstitution sq.val pos.val reason selfTestOk s else s)

end Sys2Proof.Machine
end

