-- ==== Sys2Proof/Machine/Resets.lean ====
section
/-! DEFINITION. Firmware selection by the ROM, the steward's restart, and the resets of the part
(R452, R482 to R495, R586, R589 to R593, R613). -/

namespace Sys2Proof.Machine

/-! ### Firmware images (R487, R488, R491) -/

/-- LENGTH of a firmware image. -/
def fwLength (i : List Byte) : Nat := fieldAt i 0x14 4

/-- The signed part of a firmware image. -/
def fwSigned (i : List Byte) : List Byte := i.take (fwLength i - 1600)

/-- DIGEST of a firmware image. -/
def fwDigest (i : List Byte) : List Byte := bytesAt i (fwLength i - 1600) 64

/-- VKEY of a firmware image. -/
def fwVkey (i : List Byte) : List Byte := bytesAt i (fwLength i - 1536) 512

/-- Is LENGTH in range: a multiple of 8, at most 524,288, with room for header and trailer? -/
def fwLengthOk (i : List Byte) : Bool :=
  let n := fwLength i
  decide (n % 8 = 0 ∧ 1856 ≤ n ∧ n ≤ 524288 ∧ n ≤ i.length ∧
    fieldAt i 0x1C 4 + fieldAt i 0x20 4 ≤ n - 1600)

/-- Is a co-signature required and missing (code 7)? -/
def cosignBad (n : Nv) (i : List Byte) : Bool :=
  let key := n.keyAt 8
  n.isClaimed && !key.isEmpty &&
    !(fieldAt i 0x24 4 % 2 == 1 && pssVerify (leNat key) (bytesAt i (fwLength i - 512) 512) (fwSigned i))

/-- The check codes 2 to 8 of Table 12.5; a co-signature and the counter are left out for the factory
    image (R491). -/
def fwBodyCode (n : Nv) (factory : Bool) (i : List Byte) : Nat :=
  if bytesAt i 0 4 ≠ ascii "BNFW" ∨ fieldAt i 5 1 ≠ 1 ∨ fieldAt i 6 2 ≠ 0x9512 then 2
  else if !fwLengthOk i then 3
  else if fwDigest i ≠ sha512 (fwSigned i) then 4
  else if sha512 (fwVkey i) ≠ hashBytes Config.fwKeyHash then 5
  else if !pssVerify (leNat (fwVkey i)) (bytesAt i (fwLength i - 1024) 512) (fwSigned i) then 6
  else if !factory && cosignBad n i then 7
  else if !factory && fieldAt i 0x10 4 < n.fwCounter.toNat then 8
  else 0

/-- RECOVERY of an image. -/
def fwRecovery (i : List Byte) : Bool := fieldAt i 0x24 4 / 2 % 2 == 1

/-- The check code of a slot (Table 12.5). -/
def fwSlotCode (n : Nv) (x : ImgSlot) : Nat :=
  if !x.complete then 1
  else
    let c := fwBodyCode n false x.data
    if c ≠ 0 then c else if fwRecovery x.data then 9 else 0

/-- Does the factory image pass (R491)? -/
def factoryOk (n : Nv) : Bool :=
  fwBodyCode n true Config.factoryImage == 0 && fwRecovery Config.factoryImage

/-- Does slot B come before slot A (R489)? -/
def fwPreferB (a b : List Byte) : Bool :=
  if fieldAt a 0x10 4 ≠ fieldAt b 0x10 4 then decide (fieldAt a 0x10 4 < fieldAt b 0x10 4)
  else decide (fieldAt a 8 8 < fieldAt b 8 8)

/-- The slot the ROM selects by the check codes of both, B when true (R489). -/
def fwSelect (n : Nv) (ca cb : BitVec 4) : Option Bool :=
  if ca = 0 ∧ cb = 0 then some (fwPreferB (n.fwAt false).data (n.fwAt true).data)
  else if ca = 0 then some false
  else if cb = 0 then some true
  else none

/-! ### The steward core (R489, R491, R613) -/

/-- The steward runs an image that the ROM has copied into its SRAM. -/
def startSteward (i : List Byte) (s : State) : State :=
  { s with
    mg := { s.mg with running := true, sram := Mem.write [] 0 (i.take (fwLength i)), wdEn := true,
                      wdOpen := 0, wdClose := 100000, wdT := 0, wdBite := false, stewardExc := false }
    boot := { s.boot with fwDigest := hashWord (fwDigest i), fwArb := BitVec.ofNat 32 (fieldAt i 0x10 4),
                          fwVersion := BitVec.ofNat 32 (fieldAt i 0x18 4) } }

/-- The ROM stops (R491). -/
def romStop (s : State) : State :=
  { s with boot := { s.boot with step := 15 }, mg := { s.mg with running := false } }

/-- The steward core restarts after a second bite (R613): the copy in SRAM is checked again. -/
def restartSteward (s0 : State) : State :=
  let s := loseFlight 0 s0
  let i := s.mg.sram.bytes 0 1048576
  let s1 := { s with
    mg := { s.mg with remap := false, restarts := satInc s.mg.restarts, wdT := 0, wdBite := false,
                      stewardExc := false }
    cmd := {}
    ik := { s.ik with steward := s.ik.steward.resumed } }
  if fwBodyCode s.nv s.boot.recovery i = 0 then
    { s1 with mg := { s1.mg with running := true, wdEn := true, wdOpen := 0, wdClose := 100000 } }
  else romStop s1

/-- A bite of the steward watchdog (R613, R643): a frozen one does not bite. -/
def stewardBite (s : State) : State :=
  let d := s.ik.steward
  let s0 := { s with mg := { s.mg with wdT := 0 } }
  if stewardWdFrozen s then s
  else if d.halted then modSteward (fun d => { d with bites := if d.bites < 2 then d.bites + 1 else 2 }) s0
  else if s.mg.wdBite then restartSteward s0
  else { s0 with mg := { s0.mg with wdBite := true, stewardExc := true } }

/-- The halted steward core resumes (R643): one held bite is taken, two restart it. -/
def resumeSteward (s : State) : State :=
  let d := s.ik.steward
  if !d.halted then s
  else
    let s1 := corePacket 0xFFF0 3 0 d.pc (modSteward CoreDbg.resumed s)
    if d.bites.toNat = 2 then restartSteward s1
    else if d.bites = 1 then stewardBite s1
    else s1

/-! ### Steps 3 and 4 of a boot (R482, R489, R491, R495, R504, R586) -/

/-- The records of the counters region with no valid copy, which the health log names (R495). -/
def lostRecords (n : Nv) : Nat :=
  [(n.held 2 n.bootCount).count.isNone, (n.held 3 n.lockout).value.isNone, (n.held 4 n.claimed).value.isNone,
    (n.held 5 n.owner).value.isNone, (n.held 6 n.head).value.isNone, (n.held 7 n.archived).value.isNone].countP id

/-- The health entries of the images the ROM has refused: a slot that holds bytes (R425). -/
def refusal (slotB : Bool) (code : Nat) (x : ImgSlot) (s : State) : State :=
  if code = 0 ∨ x.data.isEmpty then s
  else health 8 0xFFFF (leBytes 1 code ++ leBytes 1 (if slotB then 1 else 0)) s

/-- The head record at a boot (R509): an entry in the next slot that goes on the recorded SEQ is chained in,
    any other content is a torn write, which the next entry is written over. -/
def acceptTail (s : State) : State :=
  let n := s.nv
  if n.tail.isEmpty || fieldAt n.tail 0 8 != n.nextSeq then s
  else nvRecordFrom 6 (fun r => { n with head := r }) (recorded n n.tail) n.head (headAfter n.headRec.head n.tail) s

/-- The ledger as a boot takes it: where the head record is rebuilt, entries that the chain does not reach are no
    part of it, and the next entry is written in the slot after the last that it reaches (Table 12.5a). -/
def chainedLedger (n : Nv) : Nv :=
  if (n.held 6 n.head).value.isSome then n
  else { n with ledger := n.ledger.dropWhile fun e => decide (n.headRec.seq < fieldAt e 0 8) }

/-- TIME of the last ledger entry that has one (R586): a CKSIG entry holds signature bytes there (R512), and an
    entry that an error spoils is not read. -/
def lastTime (n : Nv) : Nat :=
  match (n.ledger.map n.shown).find? fun e => entryType e != 0x52 && entryType e != 0xFFFF with
  | some e => fieldAt e 0x78 8
  | none => 0

/-- Is a latent error in a copy of a record of the counters region? -/
def NvFlaw.inCounters : NvFlaw → Bool
  | .counter _ _ => true
  | _ => false

/-- The counters region is read (R494): an error in it is met. -/
def meetCounters (s : State) : State := nvMeet ((s.nv.flaws.map Prod.fst).filter NvFlaw.inCounters) s

/-- Step 3: the head record, the changes that a loss of power has left open, the boot count, TIMEBASE at a
    power-on, the errors in the counters region, and the records without a valid copy.  Timing has started with
    VIN valid, `pre` ticks before a power-on's TIMEBASE (R482). -/
def romStart (s0 : State) : State :=
  let lost := lostRecords s0.nv
  let s := acceptTail { s0 with nv := chainedLedger s0.nv }
  let n := undone s.nv
  let time := if s.boot.first then BitVec.ofNat 64 (lastTime n) + 1 else s.mg.timebase
  let pre : Word := if s.boot.first then BitVec.ofNat 64 (1000 * s.boot.pre) else 0
  let s1 := nvRecord 2 (fun r => { n with bootCount := r }) n.bootCount (n.boots + 1) { s with
    nv := n
    mg := { s.mg with timebase := time }
    boot := { s.boot with step := 3, first := false, start := time - pre, pre := 0 } }
  (List.range lost).foldl (fun s _ => health 9 0xFFFF [] s) (meetCounters s1)

/-- The FIRMWARE entry (Table 12.9). -/
def firmwareEntry (slotB : Bool) (i : List Byte) (other : Nat) (s : State) : State :=
  romEntry 0x12 (ascii "STEWARD") (fwDigest i)
    (leBytes 1 (if slotB then 1 else 0) ++ leBytes 1 (fieldAt i 0x24 4 % 2) ++ leBytes 1 other ++
      bytesAt i 0x10 4 ++ bytesAt i 8 8 ++ bytesAt i 0x18 4) s

/-- The Frarix links train at power-on and at device reset (R539), once conversion is up; in recovery they stay
    inactive (R492). -/
def trainLinks (s : State) : State :=
  if !s.boot.conversion || s.boot.recovery then s
  else { s with frx := { s.frx with links := s.frx.links.map fun l => if l.st = 0 then { l with st := 1 } else l } }

/-- The step the steward waits in after step 4: step 5 once conversion is up, and step 2 until then. -/
def afterRom (s0 : State) : State :=
  let s := trainLinks s0
  { s with boot := { s.boot with step := if s.boot.recovery then 4 else
      if s.boot.conversion then 5 else 2 } }

/-- A flag as a byte of a ledger entry. -/
def bitByte (x : Bool) : List Byte := leBytes 1 (if x then 1 else 0)

/-- The entries BOOT and ROM of a boot. -/
def romEntries (s : State) : State :=
  let b := s.boot
  romEntry 0x11 (ascii "ROM" ++ leBytes 2 Config.romRevision.toNat) (hashBytes Config.romHash) []
    (romEntry 0x10 (ascii "BOOT") [] (leBytes 1 b.cause.toNat ++ bitByte s.pins.force ++ bitByte b.vaux) s)

/-- The check code of a firmware slot noted. -/
def setFwCode (slotB : Bool) (c : BitVec 4) (b : Boot) : Boot :=
  if slotB then { b with fwCodeB := c } else { b with fwCodeA := c }

/-- The check code of a firmware slot that the ROM has noted. -/
def Boot.fwCode (b : Boot) (slotB : Bool) : BitVec 4 := if slotB then b.fwCodeB else b.fwCodeA

/-- A firmware slot checked: its code noted, and a refused slot entered in the health log. -/
def romSlot (slotB : Bool) (s0 : State) : State :=
  let s := nvMeet [.firmware slotB] s0
  let c := fwSlotCode s.nv (s.nv.fwAt slotB)
  refusal slotB c (s.nv.fwAt slotB) { s with boot := setFwCode slotB (BitVec.ofNat 4 c) s.boot }

/-- Both firmware slots checked in step 4. -/
def romSlots (s : State) : State :=
  romSlot true (romSlot false { nvMeet [.key 8] s with boot := { s.boot with step := 4 } })

/-- The copy of a firmware slot in steward SRAM, checked again (R489).  One that an error has spoilt fails with a
    code of 2 to 8, which is a free value, and its slot with it. -/
def romCopy (slotB : Bool) (s : State) : State :=
  if s.nv.bad (.copy slotB) then
    let c := 2 + Config.freeNat s.free % 7
    refusal slotB c (s.nv.fwAt slotB)
      { s with free := s.free + 1, boot := setFwCode slotB (BitVec.ofNat 4 c) s.boot }
  else s

/-- The steward starts from a firmware slot. -/
def romFirmware (slotB : Bool) (s : State) : State :=
  let i := (s.nv.fwAt slotB).data
  let s1 := firmwareEntry slotB i (s.boot.fwCode (!slotB)).toNat s
  afterRom (startSteward i { s1 with boot := { s1.boot with fwslotB := slotB, recovery := false } })

/-- The steward starts from the factory image, as the recovery program. -/
def romRecovery (s : State) : State :=
  let i := Config.factoryImage
  let s1 := romEntry 0x13 (ascii "STEWARD") (fwDigest i)
    (leBytes 1 s.boot.fwCodeA.toNat ++ leBytes 1 s.boot.fwCodeB.toNat ++ bytesAt i 0x18 4) s
  afterRom (startSteward i { s1 with boot := { s1.boot with recovery := true } })

/-- What the ROM selects, with a copy in SRAM that passes; each of at most two selections copies a slot. -/
def romSelect : Nat → State → Option Bool × State
  | 0, s => (none, s)
  | fuel + 1, s =>
    match fwSelect s.nv s.boot.fwCodeA s.boot.fwCodeB with
    | none => (none, s)
    | some slotB =>
      let s1 := romCopy slotB s
      if s1.boot.fwCode slotB = 0 then (some slotB, s1) else romSelect fuel s1

/-- The ROM starts what it has selected: a firmware slot, the recovery program, or nothing.  Whether an error in
    the factory region spoils the factory image is a free value (log entry 12). -/
def romGo (slot : Option Bool) (s : State) : State :=
  match slot with
  | some slotB => romFirmware slotB s
  | none =>
    let s1 := nvMeet [.factory] { s with free := s.free + 1 }
    if factoryOk s1.nv && !(s1.nv.bad .factory && Config.freeBool s.free) then romRecovery s1 else romStop s1

/-- The ROM's work: entries, selection, and the start of the steward. -/
def romBoot (s : State) : State :=
  let (slot, s1) := romSelect 2 (romSlots (romEntries (romStart s)))
  romGo slot s1

/-- Is the part held in device reset by a pin or by VIN (R476, R558, R660)? -/
def heldReset (s : State) : Bool := !s.pins.resetN || s.pins.testen || s.boot.held

/-- A boot from step 3 runs unless device reset is held or the management domain is down. -/
def bootIfFree (s : State) : State :=
  if s.boot.powered && !heldReset s then romBoot s else s

/-! ### Device reset (R589) -/

/-- A tender channel after a device reset: a transfer has stopped with CODE 4 at its first uncommitted unit (R47,
    R48), and everything else is at its reset value. -/
def keptTender (t : Tender) : Tender :=
  if t.busy then { src := t.src, dst := t.dst, len := t.len, err := true, code := 4 } else {}

/-- A square after a device reset: its map, its retired positions and FAILED are kept. -/
def keptSquare (q : Square) : Square :=
  { map := q.map, retired := q.retired, spareUsed := q.spareUsed, tnd := q.tnd.map keptTender,
    st := if q.st = .failed then .failed else .parked }

/-- The hub after a device reset: the repairs that wait, the repairs of the part's life and the
    quarters withdrawn since power-on stay. -/
def keptHub (h : Hub) : Hub :=
  { sparePending := h.sparePending, spareRows := h.spareRows, spareHard := h.spareHard,
    unreachable := h.unreachable }

/-- The boot registers at the start of a device reset. -/
def keptBoot (cause : BitVec 4) (b : Boot) : Boot :=
  { powered := b.powered, first := b.first, vinValid := b.vinValid, vaux := b.vaux,
    conversion := b.conversion, held := b.held, step := 3,
    cause := if b.first then 0 else cause }

/-- The management registers a device reset keeps (Table 15.2); the lock of the management PLL is clock state and
    stays with it. -/
def keptMg (m : Mg) : Mg :=
  { timebase := m.timebase, refLock := m.refLock, nvBlock := m.nvBlock }

/-- A device reset lowers a level that is in force (R623), and its DEBUG entry is written before that (R628). -/
def resetLevel (s : State) : State :=
  if s.ik.level = 0 then s else debugEntry 0 [] 0xFF (leBytes 4 0) (leBytes 8 0) s

/-- The state of a device reset (R589, Table 15.2): everything at its reset value but what is kept.
    Every chain is aborted (R403), and the memories keep their contents until the zero fill of step 6 (R129). -/
def deviceState (cause : BitVec 4) (s0 : State) : State :=
  let s := abortNotices (resetLevel s0)
  drawNonce
    { squares := s.squares.map fun p => (p.1, keptSquare p.2), hub := keptHub s.hub, hbm := s.hbm,
      tile := s.tile, poison := s.poison, flaws := s.flaws, nextJob := s.nextJob,
      bellOrder := s.bellOrder, nextTag := s.nextTag, cxl := { perst := s.cxl.perst },
      boot := keptBoot cause s.boot, pins := s.pins, i3c := { da := s.i3c.da }, mg := keptMg s.mg,
      pw := { ratio := s.pw.ratio, brake := s.pins.pwrbrk }, nv := s.nv, nvWas := s.nvWas,
      free := s.free, out := s.out,
      pending := s.pending }

/-- A device reset with FORCE_OPENING sampled; the boot follows unless the reset is held. -/
def deviceReset (cause : BitVec 4) (force : Bool) (s : State) : State :=
  bootIfFree (deviceState cause { s with pins := { s.pins with force := force } })

/-! ### Rank, square and engine resets (R589 to R593) -/

/-- A tender channel of a reset square: a transfer stops with CODE 4 (R591), every other register is at
    its reset value. -/
def resetTenders (sq : Nat) (s : State) : State :=
  let busy := (s.sqr sq).tnd.toList.map Tender.busy
  let s1 := stopTenders sq (fun _ => true) 4 s
  let keep (q : Square) : Vector Tender 4 :=
    Vector.ofFn fun i => if busy.getD i.val false then q.tnd[i] else {}
  s1.modSq sq fun q => { q with tnd := keep q }

/-- A square of a reset returns to IDLE when it belongs to a partition, and to PARKED otherwise
    (R593); what Table 15.2 does not keep is at its reset value. -/
def returnSquare (s : State) (sq : Nat) : State :=
  let s1 := s.modSq sq fun q => { q with
    job := 0, back := .idle, cqlost := 0, traceQ := [], traceLost := false, waking := false, policyParked := false,
    st := if q.st = .failed then .failed else if q.assigned then .idle else .parked }
  { s1 with chst := s1.chst.filter fun p => p.1 / 8 ≠ sq }

/-- Squares reset by RESET_DOMAIN of a scope.  A job that waited for the wake of one starts (R63). -/
def resetSquares (sqs : List Nat) (scope : Byte) (s : State) : State :=
  let es := sqs.flatMap fun i => (List.range 9).map fun p => i * 9 + p
  let s1 := resetEngines es 9 scope 0xFFFF (sqs.foldl (fun s i => resetTenders i s) s)
  startReady (sqs.foldl returnSquare s1)

/-- The jobs that a rank controller coordinates end (R592). -/
def endHomeJobs (k : Nat) (s : State) : State :=
  s.jobs.foldl (fun s j =>
    if jobHome s j ≠ k then s
    else if j.waiting then endQueued j.id 9 1 s
    else endJob j.id 9 1 0xFFFF 0 s) s

/-- A rank controller after its reset: the firmware is loaded again. -/
def resetRankCore (k : Nat) (s : State) : State :=
  let clear (d : CoreDbg) : CoreDbg :=
    { d with halted := false, haltReq := false, step := false, rst := d.rst || d.halted }
  (loseFlight (k + 1) s).modRank k fun r => { fwver := r.fwver, ram := r.ram, dbg := clear r.dbg }

/-- What the controller of rank `k` has read or asked for of a ring is lost with it: it reads the ring from HEAD
    again (R592, R603). -/
def dropHomeRings (k : Nat) (s : State) : State :=
  (s.ctxs.map Prod.fst).foldl (fun s c =>
    let c : Byte := BitVec.ofNat 8 c
    if (ctxPart s c).map Partition.home = some k then dropRing c s else s) s

/-- The reset of rank `k`, counted from 0 (R589, R590, R592). -/
def resetRank (k : Nat) (s : State) : State :=
  let sqs := (((List.range 8).map fun f => k * 8 + f).flatMap (pairSquares s)).eraseDups
  resetRankCore k (resetSquares sqs 1 (dropHomeRings k (endHomeJobs k s)))

/-- The DOMAIN_RESET entry (R505). -/
def domainEntry (scope index : Nat) (s : State) : State :=
  changeDone <| logChange 0x41 (ascii "RESET") [] (leBytes 1 scope ++ leBytes 4 index) s

/-- The engine a RESET_DOMAIN of scope 3 names, if it is available (R593). -/
def resetTarget (s : State) (index : Nat) : Option Nat := if index < 512 then engOf s index else none

/-- RESET_DOMAIN of scope 1 to 3 on an index; `none` where R593 refuses it. -/
def resetDomain (scope index : Nat) (s : State) : Option State :=
  match scope with
  | 1 => if 1 ≤ index ∧ index ≤ 8 then some (resetRank (index - 1) (domainEntry 1 index s)) else none
  | 2 => if index < 64 then some (resetSquares (pairSquares s index) 2 (domainEntry 2 index s)) else none
  | 3 => (resetTarget s index).map fun e =>
      let s1 := domainEntry 3 index s
      resetEngines (resetScope s1 e) 9 3 (faultNum s1 e) s1
  | _ => none

end Sys2Proof.Machine
end

