-- ==== Sys2Proof/Machine/Boot.lean ====
section
/-! DEFINITION. Power, the boot steps and the reset pins (R426, R476, R482 to R506, R558 to R561, R586,
R613, R660). -/

namespace Sys2Proof.Machine

/-! ### Power -/

/-- The part without power: what the NV store, the repairs of the rows, the pins' levels and the model itself
    keep. -/
def unpowered (s : State) : State :=
  { pins := { s.pins with thermtrip := false }, cxl := { perst := s.cxl.perst }, nv := s.nv,
    hub := { spareHard := s.hub.spareHard, sparePending := s.hub.sparePending, spareRows := s.hub.spareRows },
    nextJob := s.nextJob, bellOrder := s.bellOrder, nextTag := s.nextTag, free := s.free, out := s.out,
    pending := s.pending }

/-- The management domain loses its supply.  Which of the words that the NV store was writing have landed is a
    free value: they land in order, each as a whole (R497). -/
def powerLoss (s : State) : State :=
  let n := Config.freeNat s.free % (s.nvWas.length + 1)
  unpowered { s with free := s.free + 1, nv := (s.nv :: s.nvWas).getD n s.nv }

/-- Power comes: the straps are sampled, the spare records are cleared (R11), a debug nonce is drawn
    (R626), and step 1 begins. -/
def powerOn (straps : Straps) (s : State) : State :=
  let s1 := unpowered s
  drawNonce { s1 with
    pins := { s1.pins with addrSel := straps.addrSel, force := straps.forceOpening }
    pw := { s1.pw with brake := s1.pins.pwrbrk }
    nv := { s1.nv with spares := [] }
    boot := { first := true } }

/-- Has the management domain a supply (R561)? -/
def supplied (s : State) : Bool := s.boot.vinValid || s.boot.vaux

/-- VIN rises above its valid threshold (R558, R483): a power-on, or with VAUX present the rest of the
    boot.  The device reset that VIN has held ends, and FORCE_OPENING is sampled for it (R476); stage 1 selects its ratio
    by Table 14.1 (R559). -/
def vinValid (mv : BitVec 16) (straps : Straps) (s : State) : State :=
  if s.boot.vinValid then s
  else
    let was := s.boot.held
    let s1 := if !supplied s then powerOn straps s
      else if was then { s with pins := { s.pins with force := straps.forceOpening } } else s
    let s2 := { s1 with boot := { s1.boot with vinValid := true, held := false },
                        pw := { s1.pw with ratio := ratioOf mv.toNat } }
    if was then bootIfFree s2
    else { s2 with boot := { s2.boot with start := s2.mg.timebase } }

/-- VIN_VALID (R558). -/
def execVinValid (mv : BitVec 16) (straps : Straps) (s : State) : Host.Outcome State Fault Refusal :=
  .next (vinValid mv straps s)

/-- Conversion stops: what is outside the management domain loses its state, READY falls, and the part
    waits in step 2. -/
def conversionStop (s : State) : State :=
  { s with
    engines := [], squares := s.squares.map fun p => (p.1, keptSquare p.2), ranks := [],
    hub := keptHub s.hub, hbm := [], tile := [], poison := [], flaws := {}, board := {}, jobs := [],
    ctxs := [], chains := [], chst := [], cxl := { perst := s.cxl.perst }, frx := {}, reqs := [],
    boot := { s.boot with conversion := false, ready := false, next := none, ranks := false,
                          step := if s.boot.step.toNat < 5 ∨ s.boot.step = 15 then s.boot.step else 2 } }

/-- VIN falls below its reset threshold (R558): conversion stops and device reset is held.  The cause
    that the next BOOT entry gives for it is not stated: a free value. -/
def vinReset (s : State) : State :=
  if !s.boot.vinValid then s
  else if !s.boot.vaux then powerLoss s
  else
    let c := BitVec.ofNat 4 (Config.freeNat s.free % 3)
    let s1 := conversionStop { s with free := s.free + 1 }
    deviceState c { s1 with boot := { s1.boot with vinValid := false, held := true }, pw := { s1.pw with ratio := 0 } }

/-- VIN_RESET (R558). -/
def execVinReset (s : State) : Host.Outcome State Fault Refusal := .next (vinReset s)

/-- VAUX becomes valid (R483, R561): a power-on when nothing else supplies the management domain. -/
def vauxValid (straps : Straps) (s : State) : State :=
  let s1 := if supplied s then s else powerOn straps s
  { s1 with boot := { s1.boot with vaux := true } }

/-- VAUX_VALID (R483). -/
def execVauxValid (straps : Straps) (s : State) : Host.Outcome State Fault Refusal :=
  .next (vauxValid straps s)

/-- VAUX is lost (R561): with VIN valid the management domain moves to VIN without a reset. -/
def vauxLoss (s : State) : State :=
  if s.boot.vinValid then { s with boot := { s.boot with vaux := false } }
  else if s.boot.vaux then powerLoss s
  else s

/-- VAUX_LOSS (R561). -/
def execVauxLoss (s : State) : Host.Outcome State Fault Refusal := .next (vauxLoss s)

/-- THERMTRIP (R476): THERMTRIP_N low, and conversion stops. -/
def thermtrip (s : State) : State :=
  conversionStop { s with pins := { s.pins with thermtrip := true } }

/-- THERMTRIP: Tj reaches 115 °C on a supplied part. -/
def execThermtrip (s : State) : Host.Outcome State Fault Refusal :=
  .next (if supplied s then thermtrip s else s)

/-! ### Boot steps -/

/-- Step 1 ends: the I3C target answers, and steps 3 and 4 follow (R452, R482). -/
def managementUp (s : State) : State :=
  if s.boot.powered || !supplied s then s
  else bootIfFree { s with boot := { s.boot with powered := true } }

/-- MANAGEMENT_DOMAIN_UP (R482). -/
def execManagementDomainUp (s : State) : Host.Outcome State Fault Refusal := .next (managementUp s)

/-- Step 2 ends: the rails are in regulation and REFCLK is locked (R482, R584); with the ROM done, the Frarix links
    train (R539). -/
def conversionUp (s : State) : State :=
  if !s.boot.vinValid || s.boot.conversion || s.pins.thermtrip then s
  else
    let s1 := { s with
      mg := { s.mg with refLock := true }
      boot := { s.boot with conversion := true,
                            step := if s.boot.step = 2 ∧ s.mg.running then 5 else s.boot.step } }
    if s1.boot.step = 5 then trainLinks s1 else s1

/-- CONVERSION_UP (R482). -/
def execConversionUp (s : State) : Host.Outcome State Fault Refusal := .next (conversionUp s)

/-- Does the boot stand in a step that the steward works on? -/
def inStep (n : BitVec 4) (s : State) : Bool :=
  s.boot.step == n && s.mg.running && s.boot.conversion && !s.boot.recovery && !s.boot.ready

/-- Step 5 ends: hard repair of every soft repair that waited (R128) and of the rows that training has found, the
    choice of the structure (R426), and the interleave that it brings (R76). -/
def trainingDone (rows : BitVec 16) (s : State) : State :=
  if !inStep 5 s then s
  else
    let (b, ca, cb) := selectStructure s
    let s0 := if s.pins.force then s else nvMeet [.structure_ false, .structure_ true] s
    let s1 := refusal true cb (s.nv.stAt true) (refusal false ca (s.nv.stAt false) s0)
    let c := b.getD openingBoard
    let hard := satAdd s1.hub.spareHard s1.hub.sparePending.toNat
    { s1 with
      hub := { s1.hub with spareHard := satAdd hard rows.toNat, sparePending := 0, spareRows := [],
                           ilvLocal := c.ilvLocal, chskew := c.chskew, bkskew := c.bkskew }
      boot := { s1.boot with step := 6, next := b, stCodeA := BitVec.ofNat 8 ca,
                             stCodeB := BitVec.ofNat 8 cb } }

/-- HBM_TRAINING_DONE (R482). -/
def execHbmTrainingDone (rowsRepaired : BitVec 16) (s : State) : Host.Outcome State Fault Refusal :=
  .next (trainingDone rowsRepaired s)

/-- The zero fill (R129): every memory and both map copies read 0, no sector is poisoned. -/
def zeroFill (s : State) : State :=
  { s with hbm := [], tile := [], poison := [], flaws := {},
           hub := { s.hub with live := [], shadow := [] } }

/-- The STRUCTURE or OPENING entry of step 7 (Table 12.9). -/
def structureEntry (s : State) : State :=
  let b := s.boot
  match b.next with
  | some x =>
    logEntry 0x14 (ascii "STRUCTURE") (hashBytes x.digest)
      (leBytes 1 (if x.slotB then 1 else 0) ++
        [if x.slotB then b.stCodeA else b.stCodeB] ++ leBytes 4 x.arb.toNat ++
        leBytes 8 x.serial.toNat) s
  | none =>
    logEntry 0x15 (ascii "OPENING") []
      (leBytes 1 (if s.pins.force then 0 else 1) ++ [b.stCodeA, b.stCodeB]) s

/-- The guardband and the limit of a square, from the NV store (R579, R580). -/
def restoreGuard (n : Nv) (i : Nat) (q : Square) : Square :=
  { q with guard := SMap.get 0 n.guards i, lifeMax := SMap.get 5 n.lifeMax i }

/-- The records of the user-calibration region that an error spoils are met as they are read, and what is read in
    their place is a free value (R499). -/
def meetCalibration (s : State) : State :=
  (s.nv.flaws.map Prod.fst).foldl (fun s f => match f with
    | .calibration k => nvMeet [f]
        { s with nv := spoilCalibration k (Config.freeWord s.free) s.nv, free := s.free + 1 }
    | _ => s) s

/-- A square in step 8, with its engines at index 0 while the brake is in force (R671). -/
def stepEight (s : State) (q : Square) : Square := brakeHold s q

/-- Steps 6 and 7 end: the memories are zero, the structure and the power policy apply, and the rank
    controllers run the firmware's rank code (R129, R426, R485). -/
def zeroFillDone (s : State) : State :=
  if !inStep 6 s then s
  else
    let s1 := structureEntry (meetCalibration (zeroFill s))
    let b := s1.boot.next.getD openingBoard
    let s2 := bootBoard b { s1 with boot := { s1.boot with next := none, step := 8, ranks := true } }
    let s3 := mapOpp (fun i q => stepEight s2 (restoreGuard s2.nv i q)) s2
    let s4 := (List.range 8).foldl (fun s k => s.modRank k fun r => { r with fwver := s.boot.fwVersion }) s3
    { s4 with pw := { s4.pw with policy := b.power, calApplied := s4.nv.cal }
              hub := { s4.hub with scrubPeriod := b.power.scrub } }

/-- ZERO_FILL_DONE (R129). -/
def execZeroFillDone (s : State) : Host.Outcome State Fault Refusal := .next (zeroFillDone s)

/-- A square is released at the end of step 8. -/
def releaseSquare (s : State) (_ : Nat) (q : Square) : Square :=
  stepEight s { q with st := if q.st = .failed then .failed else if q.assigned then .idle else .parked }

/-- The READY entry (Table 12.9). -/
def readyEntry (s : State) : State :=
  let sqs := (List.range 64).map s.sqr
  logEntry 0x16 (ascii "READY") []
    (leBytes 4 ((s.mg.timebase - s.boot.start).toNat / 1000000) ++
      leBytes 2 (sqs.countP Square.spareUsed) ++ leBytes 1 (sqs.countP fun q => q.st == .failed)) s

/-- An engine that has failed its self-test (R11, R416): one that carries no logical engine is found failed when
    its square's spare is next needed. -/
def selfTestFail (failed : List Eng) (s : State) (e : Eng) : State :=
  let sq := e.val / 9
  let pos := e.val % 9
  if (logicalOf (s.sqr sq) pos).isNone then s
  else failEngine sq pos .selfTest (!failed.any fun f => f.val == sq * 9 + 8) s

/-- Steps 8 and 9: a change that a loss of power has cut short is abandoned (R506), failed engines are
    substituted or lost (R416, R417), the READY entry is written, the firmware counter rises (R493), and READY
    goes high. -/
def selfTestDone (failed : List Eng) (s : State) : State :=
  if !inStep 8 s then s
  else
    let s1 := failed.foldl (selfTestFail failed) (abandonOpened s)
    let s2 := readyEntry (mapOpp (releaseSquare s1) s1)
    let arb := BitVec.ofNat 32 (Nat.max s2.nv.fwCounter.toNat s2.boot.fwArb.toNat)
    let s3 := nvRecord 0 (fun r => { s2.nv with fwArb := r }) s2.nv.fwArb arb s2
    { s3 with boot := { s3.boot with step := 9, ready := true } }

/-- SELF_TEST_DONE (R482). -/
def execSelfTestDone (failed : List Eng) (s : State) : Host.Outcome State Fault Refusal :=
  .next (selfTestDone failed s)

/-! ### Resets of the part -/

/-- DEVICE_RESET (R474, R589): the device reset that a RESET_DOMAIN of scope 0 has asked for; nothing else starts
    it. -/
def execDeviceReset (force : Bool) (s : State) : Host.Outcome State Fault Refusal :=
  .next (if s.boot.powered && s.boot.resetDue then deviceReset 2 force s else s)

/-- RESET_N (R476): a device reset that is held while the pin is low. -/
def execResetN (force : Bool) (s : State) : Host.Outcome State Fault Refusal :=
  let s1 := { s with pins := { s.pins with resetN := false } }
  .next (if s.boot.powered then deviceReset 1 force s1 else s1)

/-- RESET_N_RELEASE (R482): the held reset ends and the boot starts. -/
def execResetNRelease (s : State) : Host.Outcome State Fault Refusal :=
  if s.pins.resetN then .next s
  else .next (bootIfFree { s with pins := { s.pins with resetN := true } })

/-- TESTEN (R660): device reset is held.  The cause of the boot that follows is not stated, and the level of
    FORCE_OPENING that it samples is an input the command does not give (log entry 65): free values. -/
def execTesten (s : State) : Host.Outcome State Fault Refusal :=
  let c := BitVec.ofNat 4 (Config.freeNat s.free % 3)
  let s1 := { s with pins := { s.pins with testen := true }, free := s.free + 2 }
  .next (if s.boot.powered then deviceReset c (Config.freeBool (s.free + 1)) s1 else s1)

/-- TESTEN_RELEASE (R660). -/
def execTestenRelease (s : State) : Host.Outcome State Fault Refusal :=
  if s.pins.testen then .next (bootIfFree { s with pins := { s.pins with testen := false } })
  else .next s

/-! ### The steward's watchdog, REMAP and the NV refresh -/

/-- STEWARD_WATCHDOG_KICK (R609, R613): the key, the window, an early or a late bite. -/
def stewardKick (v : Word) (s : State) : State :=
  if !stewardRuns s || v.setWidth 16 != (0x4B1C#16) then s
  else if s.mg.wdOpen ≤ s.mg.wdT ∧ s.mg.wdT < s.mg.wdClose then
    { s with mg := { s.mg with wdT := 0, wdBite := false } }
  else stewardBite s

/-- STEWARD_WATCHDOG_KICK (R613). -/
def execStewardWatchdogKick (v : Word) (s : State) : Host.Outcome State Fault Refusal :=
  .next (stewardKick v s)

/-- STEWARD_WATCHDOG_EXPIRY (R613): the count reaches CLOSE. -/
def execStewardWatchdogExpiry (s : State) : Host.Outcome State Fault Refusal :=
  .next (if s.mg.running && decide (s.mg.wdClose ≤ s.mg.wdT) then stewardBite s else s)

/-- Is a latent error met in a 4 KiB block of the NV store (Table 12.6)?  Which word of an image slot or of a region
    without places it spoils is not held, and `there` says whether this block has it. -/
def inBlock (b : Nat) (there : Bool) : NvFlaw → Bool
  | .ledger k => decide (0x800 + k / 32 = b)
  | .firmware slotB => there && decide (b / 128 = if slotB then 3 else 2)
  | .structure_ slotB => there && decide (b / 512 = if slotB then 2 else 1)
  | .key _ => there && decide (b / 16 = 13)
  | .copy _ => false
  | .counter _ _ => there && decide (b / 16 = 14)
  | .calibration _ => there && decide (b / 16 = 12)
  | .health k => decide (0x600 + k / 64 = b)
  | .factory => there && decide (b < 192)

/-- NV_REFRESH (R498): the next block is read and written back with every correctable error removed; an
    uncorrectable error in it is met (R499). -/
def execNvRefresh (s : State) : Host.Outcome State Fault Refusal :=
  if !stewardRuns s then .next s
  else
    let wrap := s.mg.nvBlock == 0xFFF
    let here := inBlock s.mg.nvBlock.toNat (Config.freeBool s.free)
    .next (nvMeet ((s.nv.flaws.map Prod.fst).filter here) { s with
      free := s.free + 1
      nv := { s.nv with soft := s.nv.soft.filter fun f => !here f }
      mg := { s.mg with
        nvBlock := s.mg.nvBlock + 1
        nvPasses := if wrap then s.mg.nvPasses + 1 else s.mg.nvPasses } })

end Sys2Proof.Machine
end

