-- ==== Sys2Proof/Machine/Branch.lean ====
section
/-! DEFINITION. Branches, jumps and hardware loops (R160 to R174, R223 to R226). -/

namespace Sys2Proof.Machine

/-! ### The predictor (R164 to R166) -/

/-- A misprediction (Table 16.10, R166): one more mispredicted branch, and the wrong path. -/
def mispredicted (e : Nat) : EM Unit := do
  updE e fun x => { x with count := x.count.set 6 (x.count[6] + 1) }
  upd (strayIssued e)
  upd (wrongPath e)

/-- A taken branch with the predictor off (R165): in normal mode every branch is predicted not taken, so this
    one was mispredicted, with no wrong path; in fixed-timing mode the instructions behind its slot have been
    fetched. -/
def unpredicted (e : Nat) (pc : Word) : EM Unit := do
  let x ← engM e
  if x.mode.getLsbD 0 then
    let f ← fresh
    upd (wrongFetches e (Config.freeNat f) (ea48 (pc + 8)))
  else updE e fun x => { x with count := x.count.set 6 (x.count[6] + 1) }

/-- The predictor at a conditional branch.  R164 does not say which branches the counters serve: here the
    conditional ones alone, and with the predictor on BR, BRL and a jump through another register than g30
    are never mispredicted (log entry 22). -/
def predictCond (e : Nat) (pc : Word) (taken : Bool) : EM Unit := do
  let x ← engM e
  if predictorOn x then
    if (counterOf x pc).getLsbD 1 != taken then mispredicted e
    updE e (trainAt pc taken)
  else if taken then unpredicted e pc

/-- An unconditional branch or jump as the predictor meets it. -/
def predictJump (e : Nat) (pc : Word) : EM Unit := do
  if !predictorOn (← engM e) then unpredicted e pc

/-- The return stack at a branch that links (R164). -/
def pushReturn (e : Nat) (a : Word) : EM Unit := do
  if predictorOn (← engM e) then updE e (pushRet a)

/-- The return stack at an indirect jump through g30; empty, it predicts the address after the slot (R164). -/
def popReturn (e : Nat) (pc tgt : Word) : EM Unit := do
  let x ← engM e
  if predictorOn x then
    if x.caches.rets.headD (ea48 (pc + 8)) ≠ tgt then mispredicted e
    updE e popRet

/-- The slot of a branch that annuls it has issued (R651): whether it was a load or a store the command does
    not say, so that count is free. -/
def annulledSlot (e : Nat) : EM Unit := do
  let f ← fresh
  let access : Word := if Config.freeBool f then 1 else 0
  updE e fun x => { x with count := (x.count.set 0 (x.count[0] + 1)).set 4 (x.count[4] + access) }

/-! ### Shapes -/

/-- The target of a branch at `pc` (R223). -/
def branchTarget (pc disp : Word) : Word := ea48 (pc + 4 * disp)

/-- A conditional branch (R224). -/
def bccInst (e : Nat) (a : Bool) (cond : BitVec 4) (ra : Reg) (disp : BitVec 16) (test : Word → Bool) :
    Inst :=
  { word := wordB 0x22 a cond ra disp, slotBad := true, loopBad := true,
    run := do
      let x ← engM e
      let taken := test (x.reg ra)
      predictCond e x.pc taken
      if a && !taken then annulledSlot e
      return .branch taken a (branchTarget x.pc (disp.signExtend 64)) }

/-- Write the link register g30 := PC + 8. -/
def writeLink (e : Nat) (pc : Word) : EM Unit := do
  updE e fun x => x.setReg 30 (ea48 (pc + 8))
  pushReturn e (ea48 (pc + 8))

/-- JR and JRL (R225). -/
def jumpInst (e : Nat) (a link : Bool) (ra : Reg) : Inst :=
  { word := wordJR 0x23 a link ra, slotBad := true, loopBad := true,
    run := do
      let x ← engM e
      let tgt := ea48 (x.reg ra)
      predictJump e x.pc
      if ra = 30 then popReturn e x.pc tgt
      if link then writeLink e x.pc
      return .branch true a tgt }

/-! ### The instructions -/

/-- BR (R223). -/
def brInst (e : Nat) (a : Bool) (disp : BitVec 25) : Inst :=
  { word := wordJ 0x20 a disp, slotBad := true, loopBad := true,
    run := do
      let x ← engM e
      predictJump e x.pc
      return .branch true a (branchTarget x.pc (disp.signExtend 64)) }

/-- BR on an engine. -/
def execBr (e : Eng) (a : Bool) (disp : BitVec 25) (s : State) : Host.Outcome State Fault Refusal :=
  issueOut e (brInst e.val a disp) s

/-- BRL (R223): g30 := PC + 8. -/
def brlInst (e : Nat) (a : Bool) (disp : BitVec 25) : Inst :=
  { word := wordJ 0x21 a disp, slotBad := true, loopBad := true,
    run := do
      let x ← engM e
      predictJump e x.pc
      writeLink e x.pc
      return .branch true a (branchTarget x.pc (disp.signExtend 64)) }

/-- BRL on an engine. -/
def execBrl (e : Eng) (a : Bool) (disp : BitVec 25) (s : State) :
    Host.Outcome State Fault Refusal :=
  issueOut e (brlInst e.val a disp) s

/-- BEQZ (Table 4.12). -/
def beqzInst (e : Nat) (a : Bool) (ra : Reg) (disp : BitVec 16) : Inst :=
  bccInst e a 0 ra disp fun v => v == 0

/-- BEQZ on an engine. -/
def execBeqz (e : Eng) (a : Bool) (ra : Reg) (disp : BitVec 16) (s : State) :
    Host.Outcome State Fault Refusal :=
  issueOut e (beqzInst e.val a ra disp) s

/-- BNEZ (Table 4.12). -/
def bnezInst (e : Nat) (a : Bool) (ra : Reg) (disp : BitVec 16) : Inst :=
  bccInst e a 1 ra disp fun v => v != 0

/-- BNEZ on an engine. -/
def execBnez (e : Eng) (a : Bool) (ra : Reg) (disp : BitVec 16) (s : State) :
    Host.Outcome State Fault Refusal :=
  issueOut e (bnezInst e.val a ra disp) s

/-- BLTZ (Table 4.12). -/
def bltzInst (e : Nat) (a : Bool) (ra : Reg) (disp : BitVec 16) : Inst :=
  bccInst e a 2 ra disp fun v => decide (v.toInt < 0)

/-- BLTZ on an engine. -/
def execBltz (e : Eng) (a : Bool) (ra : Reg) (disp : BitVec 16) (s : State) :
    Host.Outcome State Fault Refusal :=
  issueOut e (bltzInst e.val a ra disp) s

/-- BGEZ (Table 4.12). -/
def bgezInst (e : Nat) (a : Bool) (ra : Reg) (disp : BitVec 16) : Inst :=
  bccInst e a 3 ra disp fun v => decide (0 ≤ v.toInt)

/-- BGEZ on an engine. -/
def execBgez (e : Eng) (a : Bool) (ra : Reg) (disp : BitVec 16) (s : State) :
    Host.Outcome State Fault Refusal :=
  issueOut e (bgezInst e.val a ra disp) s

/-- BGTZ (Table 4.12). -/
def bgtzInst (e : Nat) (a : Bool) (ra : Reg) (disp : BitVec 16) : Inst :=
  bccInst e a 4 ra disp fun v => decide (0 < v.toInt)

/-- BGTZ on an engine. -/
def execBgtz (e : Eng) (a : Bool) (ra : Reg) (disp : BitVec 16) (s : State) :
    Host.Outcome State Fault Refusal :=
  issueOut e (bgtzInst e.val a ra disp) s

/-- BLEZ (Table 4.12). -/
def blezInst (e : Nat) (a : Bool) (ra : Reg) (disp : BitVec 16) : Inst :=
  bccInst e a 5 ra disp fun v => decide (v.toInt ≤ 0)

/-- BLEZ on an engine. -/
def execBlez (e : Eng) (a : Bool) (ra : Reg) (disp : BitVec 16) (s : State) :
    Host.Outcome State Fault Refusal :=
  issueOut e (blezInst e.val a ra disp) s

/-- BODD (Table 4.12). -/
def boddInst (e : Nat) (a : Bool) (ra : Reg) (disp : BitVec 16) : Inst :=
  bccInst e a 6 ra disp fun v => v.getLsbD 0

/-- BODD on an engine. -/
def execBodd (e : Eng) (a : Bool) (ra : Reg) (disp : BitVec 16) (s : State) :
    Host.Outcome State Fault Refusal :=
  issueOut e (boddInst e.val a ra disp) s

/-- BEVEN (Table 4.12). -/
def bevenInst (e : Nat) (a : Bool) (ra : Reg) (disp : BitVec 16) : Inst :=
  bccInst e a 7 ra disp fun v => !v.getLsbD 0

/-- BEVEN on an engine. -/
def execBeven (e : Eng) (a : Bool) (ra : Reg) (disp : BitVec 16) (s : State) :
    Host.Outcome State Fault Refusal :=
  issueOut e (bevenInst e.val a ra disp) s

/-- JR (R225). -/
def jrInst (e : Nat) (a : Bool) (ra : Reg) : Inst :=
  jumpInst e a false ra

/-- JR on an engine. -/
def execJr (e : Eng) (a : Bool) (ra : Reg) (s : State) : Host.Outcome State Fault Refusal :=
  issueOut e (jrInst e.val a ra) s

/-- JRL (R225): g30 := PC + 8 after ga is read. -/
def jrlInst (e : Nat) (a : Bool) (ra : Reg) : Inst :=
  jumpInst e a true ra

/-- JRL on an engine. -/
def execJrl (e : Eng) (a : Bool) (ra : Reg) (s : State) : Host.Outcome State Fault Refusal :=
  issueOut e (jrlInst e.val a ra) s

/-- LOOP (R168, R169). -/
def loopInst (e : Nat) (rs : Reg) (disp : BitVec 21) : Inst :=
  { word := wordL 0x24 rs disp, slotBad := true, loopBad := true,
    run := do
      let x ← engM e
      let stop := branchTarget x.pc (disp.signExtend 64)
      let n := activeLevels x.loops.st
      if n = 4 ∨ disp.toInt < 1 then raise { code := 0x0C, faddr := stop }
      let count := (x.reg rs).setWidth 32
      if count = 0 then return .goto (ea48 (stop + 4))
      let st := (x.loops.st ||| ((1 : BitVec 16) <<< n)) &&& ~~~((3 : BitVec 16) <<< (8 + 2 * n))
      updE e fun x => { x with loops := {
        lps := x.loops.lps.setIfInBounds n (ea48 (x.pc + 4)),
        lpe := x.loops.lpe.setIfInBounds n stop,
        lpc := x.loops.lpc.setIfInBounds n count,
        st := st ||| ((x.trap.ring.setWidth 16) <<< (8 + 2 * n)) } }
      return .next }

/-- LOOP on an engine. -/
def execLoop (e : Eng) (rs : Reg) (disp : BitVec 21) (s : State) :
    Host.Outcome State Fault Refusal :=
  issueOut e (loopInst e.val rs disp) s

end Sys2Proof.Machine
end

