-- ==== Sys2Proof/Machine/Steps.lean ====
section
/-! DEFINITION. Integer division steps (R199 to R202). -/

namespace Sys2Proof.Machine

/-! ### One step (R200) -/

/-- The magnitude of a signed word. -/
def absW (a : Word) : Word := BitVec.ofNat 64 a.toInt.natAbs

/-- DSTEP on the pair: two quotient bits of a division by `d`. -/
def dstep (d r q : Word) : Word × Word :=
  let t := 4 * r.toNat + (q.extractLsb' 62 2).toNat
  let k := if 3 * d.toNat ≤ t then 3 else if 2 * d.toNat ≤ t then 2 else if d.toNat ≤ t then 1 else 0
  (BitVec.ofNat 64 (t - k * d.toNat), (q <<< 2) ||| BitVec.ofNat 64 k)

/-- DEND on the pair: the fix-up of a signed or an unsigned division of `a` by `b`. -/
def dend (sg : Bool) (a b r q : Word) : Word × Word :=
  if b = 0 then (a, 0xFFFFFFFFFFFFFFFF)
  else if sg then
    (if a.toInt < 0 then -r else r, if decide (a.toInt < 0) != decide (b.toInt < 0) then -q else q)
  else (r, q)

/-- An instruction on the pair gd (R188): a function of the engine's registers and of the pair. -/
def stepInst (e : Nat) (w : BitVec 32) (rd : Reg) (f : Engine → Word → Word → Word × Word) : Inst :=
  { word := w, illegal := !pairOk rd,
    run := do
      updE e fun x =>
        let p := f x (x.reg rd) (x.reg (nextReg rd))
        x.setPair rd p.1 p.2
      return .next }

/-! ### The instructions -/

/-- DSTART.S (R200): gd := 0, gd+1 := the magnitude of ga. -/
def dstartSInst (e : Nat) (rd ra : Reg) : Inst :=
  stepInst e (wordR 0x02 rd ra 0 0x010) rd fun x _ _ => (0, absW (x.reg ra))

/-- DSTART.S on an engine. -/
def execDstartS (e : Eng) (rd ra : Reg) (s : State) : Host.Outcome State Fault Refusal :=
  issueOut e (dstartSInst e.val rd ra) s

/-- DSTART.U (R200): gd := 0, gd+1 := ga. -/
def dstartUInst (e : Nat) (rd ra : Reg) : Inst :=
  stepInst e (wordR 0x02 rd ra 0 0x011) rd fun x _ _ => (0, x.reg ra)

/-- DSTART.U on an engine. -/
def execDstartU (e : Eng) (rd ra : Reg) (s : State) : Host.Outcome State Fault Refusal :=
  issueOut e (dstartUInst e.val rd ra) s

/-- DSTEP.S (R200): two quotient bits by the magnitude of gb. -/
def dstepSInst (e : Nat) (rd rb : Reg) : Inst :=
  stepInst e (wordR 0x02 rd 0 rb 0x012) rd fun x r q => dstep (absW (x.reg rb)) r q

/-- DSTEP.S on an engine. -/
def execDstepS (e : Eng) (rd rb : Reg) (s : State) : Host.Outcome State Fault Refusal :=
  issueOut e (dstepSInst e.val rd rb) s

/-- DSTEP.U (R200): two quotient bits by gb. -/
def dstepUInst (e : Nat) (rd rb : Reg) : Inst :=
  stepInst e (wordR 0x02 rd 0 rb 0x013) rd fun x r q => dstep (x.reg rb) r q

/-- DSTEP.U on an engine. -/
def execDstepU (e : Eng) (rd rb : Reg) (s : State) : Host.Outcome State Fault Refusal :=
  issueOut e (dstepUInst e.val rd rb) s

/-- DEND.S (R200): the signed fix-up. -/
def dendSInst (e : Nat) (rd ra rb : Reg) : Inst :=
  stepInst e (wordR 0x02 rd ra rb 0x014) rd fun x r q => dend true (x.reg ra) (x.reg rb) r q

/-- DEND.S on an engine. -/
def execDendS (e : Eng) (rd ra rb : Reg) (s : State) : Host.Outcome State Fault Refusal :=
  issueOut e (dendSInst e.val rd ra rb) s

/-- DEND.U (R200): the unsigned fix-up. -/
def dendUInst (e : Nat) (rd ra rb : Reg) : Inst :=
  stepInst e (wordR 0x02 rd ra rb 0x015) rd fun x r q => dend false (x.reg ra) (x.reg rb) r q

/-- DEND.U on an engine. -/
def execDendU (e : Eng) (rd ra rb : Reg) (s : State) : Host.Outcome State Fault Refusal :=
  issueOut e (dendUInst e.val rd ra rb) s

end Sys2Proof.Machine
end

