-- ==== Sys2Proof/Machine/Flags.lean ====
section
/-! DEFINITION. Binary floating point one operand at a time: values, rounding, flags and traps
(R355 to R368, R377, R378), for scalar and vector instructions alike. -/

namespace Sys2Proof.Machine

/-! ### Formats and values -/

/-- A binary interchange format: fraction bits, exponent bits. -/
structure FFmt where
  frac : Nat
  exp : Nat
  deriving DecidableEq, Repr

/-- binary64. -/
def f64 : FFmt := ⟨52, 11⟩

/-- binary32. -/
def f32 : FFmt := ⟨23, 8⟩

/-- The precision a bit P selects (R207). -/
def fmtOf (p : Bool) : FFmt := if p then f64 else f32

/-- The width of a format in bits. -/
def FFmt.width (f : FFmt) : Nat := 1 + f.exp + f.frac

/-- The exponent bias of a format; also its greatest exponent. -/
def FFmt.bias (f : FFmt) : Nat := 2 ^ (f.exp - 1) - 1

/-- A binary value: `fin neg m e` is ±m × 2^e with m not 0. -/
inductive FVal
  | nan (signalling : Bool)
  | inf (neg : Bool)
  | zero (neg : Bool)
  | fin (neg : Bool) (m : Nat) (e : Int)
  deriving DecidableEq, Repr

/-- The value of a bit pattern, and whether it is subnormal (R355, R357). -/
def FFmt.decode (f : FFmt) (n : Nat) : FVal × Bool :=
  let frac := n % 2 ^ f.frac
  let ex := n / 2 ^ f.frac % 2 ^ f.exp
  let neg := decide (n / 2 ^ (f.frac + f.exp) % 2 = 1)
  if ex = 2 ^ f.exp - 1 then
    if frac = 0 then (.inf neg, false) else (.nan (frac / 2 ^ (f.frac - 1) == 0), false)
  else if ex = 0 then
    if frac = 0 then (.zero neg, false) else (.fin neg frac (1 - f.bias - f.frac), true)
  else (.fin neg (2 ^ f.frac + frac) ((ex : Int) - f.bias - f.frac), false)

/-- The sign bit of a pattern. -/
def FFmt.sign (f : FFmt) (neg : Bool) : Nat := if neg then 2 ^ (f.frac + f.exp) else 0

/-- Infinity of a sign. -/
def FFmt.infinity (f : FFmt) (neg : Bool) : Nat := f.sign neg + (2 ^ f.exp - 1) * 2 ^ f.frac

/-- The largest finite value of a sign. -/
def FFmt.largest (f : FFmt) (neg : Bool) : Nat := f.infinity neg - 1

/-- The canonical NaN (R357). -/
def FFmt.canonical (f : FFmt) : Nat := (2 ^ f.exp - 1) * 2 ^ f.frac + 2 ^ (f.frac - 1)

/-- What an operation delivers: DENORM and no result, or a result and the flags it sets, in the
    order invalid, divide by zero, overflow, underflow, inexact from bit 0 (R363). -/
inductive FRes
  | denorm
  | val (n : Nat) (flags : BitVec 5)
  deriving DecidableEq, Repr

/-- invalid -/
def flagNV : BitVec 5 := 1
/-- divide by zero -/
def flagDZ : BitVec 5 := 2
/-- overflow -/
def flagOF : BitVec 5 := 4
/-- underflow -/
def flagUF : BitVec 5 := 8
/-- inexact -/
def flagNX : BitVec 5 := 16

/-! ### Rounding (R356, R360 to R363) -/

/-- Does rounding increase a magnitude whose discarded part is `rem` of `2^sh` (Table 8.1)?  The
    modes 5 to 7 round as mode 0. -/
def roundsUp (rm : BitVec 3) (neg odd : Bool) (rem sh : Nat) : Bool :=
  let twice := 2 * rem
  let whole := 2 ^ sh
  match rm.toNat with
  | 1 => false
  | 2 => neg && rem != 0
  | 3 => !neg && rem != 0
  | 4 => decide (whole ≤ twice)
  | _ => decide (whole < twice) || (twice == whole && odd)

/-- A magnitude of `m` without its low `sh` bits, rounded, and whether it was inexact. -/
def roundBits (rm : BitVec 3) (neg : Bool) (m sh : Nat) : Nat × Bool :=
  let q := m / 2 ^ sh
  let rem := m % 2 ^ sh
  (if roundsUp rm neg (q % 2 == 1) rem sh && rem != 0 then q + 1 else q, rem != 0)

/-- The overflow result of a sign (Table 8.3). -/
def FFmt.overflow (f : FFmt) (rm : BitVec 3) (neg : Bool) : Nat :=
  match rm.toNat with
  | 1 => f.largest neg
  | 2 => if neg then f.infinity true else f.largest false
  | 3 => if neg then f.largest true else f.infinity false
  | _ => f.infinity neg

/-- The delivered result of an exact magnitude m × 2^e, not 0, of a sign: rounded once, with
    overflow, tininess after rounding and DN applied (R360 to R363). -/
def FFmt.round (f : FFmt) (rm : BitVec 3) (dn neg : Bool) (m : Nat) (e : Int) : FRes :=
  let p := f.frac + 1
  let len := Nat.log2 m + 1
  let (q, nx) := if p < len then roundBits rm neg m (len - p) else (m * 2 ^ (p - len), false)
  let carry := decide (2 ^ p ≤ q)
  let sig := if carry then q / 2 else q
  let ex : Int := e + len - 1 + (if carry then 1 else 0)
  if (f.bias : Int) < ex then .val (f.overflow rm neg) (flagOF ||| flagNX)
  else if ex < 1 - (f.bias : Int) then
    if dn then .denorm else .val (f.sign neg) (flagUF ||| flagNX)
  else
    .val (f.sign neg + (ex + f.bias).toNat * 2 ^ f.frac + (sig - 2 ^ f.frac))
      (if nx then flagNX else 0)

/-- The zero of an exact zero sum of opposite signs, Z± (R359). -/
def zeroSum (rm : BitVec 3) : Bool := rm == 2

/-! ### Operands (R210, R360, R361) -/

/-- An operand under DN: `none` raises DENORM. -/
def FFmt.operand (f : FFmt) (dn : Bool) (n : Nat) : Option FVal :=
  match f.decode n with
  | (.fin neg _ _, true) => if dn then none else some (FVal.zero neg)
  | (v, _) => some v

/-- The bit pattern of an operand as it reads after R360; a NaN gives the canonical NaN. -/
def FFmt.pattern (f : FFmt) (v : FVal) : Nat :=
  match v with
  | .nan _ => f.canonical
  | .inf neg => f.infinity neg
  | .zero neg => f.sign neg
  | .fin neg m e => f.sign neg + (e + f.bias + f.frac).toNat * 2 ^ f.frac + (m - 2 ^ f.frac)

/-- Is a value a NaN? -/
def FVal.isNan : FVal → Bool
  | .nan _ => true
  | _ => false

/-- Is a value a signalling NaN? -/
def FVal.isSnan : FVal → Bool
  | .nan s => s
  | _ => false

/-- A value with its sign inverted. -/
def FVal.negate : FVal → FVal
  | .nan s => .nan s
  | .inf n => .inf (!n)
  | .zero n => .zero (!n)
  | .fin n m e => .fin (!n) m e

/-- The sign of a value. -/
def FVal.neg : FVal → Bool
  | .nan _ => false
  | .inf n => n
  | .zero n => n
  | .fin n _ _ => n

/-- A NaN result, with invalid where an operand is signalling. -/
def FFmt.nanRes (f : FFmt) (sig : Bool) : FRes := .val f.canonical (if sig then flagNV else 0)

/-- A result that is invalid. -/
def FFmt.invalid (f : FFmt) : FRes := .val f.canonical flagNV

/-! ### Arithmetic -/

/-- The exact sum of two dyadic numbers: sign, magnitude and exponent; magnitude 0 for a zero sum. -/
def dyadicSum (na : Bool) (ma : Nat) (ea : Int) (nb : Bool) (mb : Nat) (eb : Int) :
    Bool × Nat × Int :=
  let e := min ea eb
  let x : Int := (if na then -1 else 1) * (ma * 2 ^ (ea - e).toNat : Nat)
  let y : Int := (if nb then -1 else 1) * (mb * 2 ^ (eb - e).toNat : Nat)
  (decide (x + y < 0), (x + y).natAbs, e)

/-- a + b of operands after R360. -/
def FFmt.addV (f : FFmt) (rm : BitVec 3) (dn : Bool) (a b : FVal) : FRes :=
  match a, b with
  | .nan s, y => f.nanRes (s || y.isSnan)
  | x, .nan s => f.nanRes (s || x.isSnan)
  | .inf x, .inf y => if x = y then .val (f.infinity x) 0 else f.invalid
  | .inf x, _ => .val (f.infinity x) 0
  | _, .inf y => .val (f.infinity y) 0
  | .zero x, .zero y => .val (f.sign (if x = y then x else zeroSum rm)) 0
  | .zero _, y => .val (f.pattern y) 0
  | x, .zero _ => .val (f.pattern x) 0
  | .fin na ma ea, .fin nb mb eb =>
    match dyadicSum na ma ea nb mb eb with
    | (_, 0, _) => .val (f.sign (zeroSum rm)) 0
    | (neg, m, e) => f.round rm dn neg m e

/-- a × b of operands after R360. -/
def FFmt.mulV (f : FFmt) (rm : BitVec 3) (dn : Bool) (a b : FVal) : FRes :=
  let neg := a.neg != b.neg
  match a, b with
  | .nan s, y => f.nanRes (s || y.isSnan)
  | x, .nan s => f.nanRes (s || x.isSnan)
  | .inf _, .zero _ => f.invalid
  | .zero _, .inf _ => f.invalid
  | .inf _, _ => .val (f.infinity neg) 0
  | _, .inf _ => .val (f.infinity neg) 0
  | .zero _, _ => .val (f.sign neg) 0
  | _, .zero _ => .val (f.sign neg) 0
  | .fin _ ma ea, .fin _ mb eb => f.round rm dn neg (ma * mb) (ea + eb)

/-- a × b + c of operands after R360, rounded once (R208, R358, R366). -/
def FFmt.fmaV (f : FFmt) (rm : BitVec 3) (dn : Bool) (a b c : FVal) : FRes :=
  let neg := a.neg != b.neg
  let times0 := match a, b with
    | .inf _, .zero _ => true
    | .zero _, .inf _ => true
    | _, _ => false
  if times0 then f.invalid
  else if a.isNan || b.isNan || c.isNan then f.nanRes (a.isSnan || b.isSnan || c.isSnan)
  else
    match a, b with
    | .fin _ ma ea, .fin _ mb eb =>
      match c with
      | .fin nc mc ec =>
        match dyadicSum neg (ma * mb) (ea + eb) nc mc ec with
        | (_, 0, _) => .val (f.sign (zeroSum rm)) 0
        | (n, m, e) => f.round rm dn n m e
      | .zero _ => f.round rm dn neg (ma * mb) (ea + eb)
      | c => .val (f.pattern c) 0
    | .zero _, _ => f.addV rm dn (.zero neg) c
    | _, .zero _ => f.addV rm dn (.zero neg) c
    | _, _ => f.addV rm dn (.inf neg) c

/-- The exact order of two values that are not NaNs: a < b. -/
def FVal.lt (a b : FVal) : Bool :=
  match a, b with
  | .nan _, _ => false
  | _, .nan _ => false
  | .inf n, y => n && y != .inf true
  | x, .inf n => !n && x != .inf false
  | .zero _, .zero _ => false
  | .zero _, .fin n _ _ => !n
  | .fin n _ _, .zero _ => n
  | .fin na ma ea, .fin nb mb eb => (dyadicSum na ma ea (!nb) mb eb).1

/-- Equality of two values that are not NaNs; the zeros are equal. -/
def FVal.eqv (a b : FVal) : Bool :=
  match a, b with
  | .nan _, _ => false
  | _, .nan _ => false
  | .zero _, .zero _ => true
  | x, y => x == y

/-- FMIN, and FMAX with `big` (Table 4.7): a zero's sign orders it, one NaN gives the other
    operand. -/
def FFmt.minmaxV (f : FFmt) (big : Bool) (a b : FVal) : FRes :=
  let fl := if a.isSnan || b.isSnan then flagNV else 0
  match a, b with
  | .nan _, .nan _ => .val f.canonical fl
  | .nan _, y => .val (f.pattern y) fl
  | x, .nan _ => .val (f.pattern x) fl
  | x, y =>
    let less := x.lt y || (x.eqv y && x.neg && !y.neg)
    .val (f.pattern (if less != big then x else y)) fl

/-- A comparison: its condition, with invalid for the NaNs it names. -/
def cmpV (anyNan : Bool) (cond : Bool) (a b : FVal) : FRes :=
  .val (if cond then 1 else 0)
    (if a.isSnan || b.isSnan || (anyNan && (a.isNan || b.isNan)) then flagNV else 0)

/-! ### Conversions (R209, Tables 8.8 and 8.9) -/

/-- Conversion to another binary format. -/
def FFmt.cvtV (dst : FFmt) (rm : BitVec 3) (dn : Bool) (a : FVal) : FRes :=
  match a with
  | .nan s => dst.nanRes s
  | .inf n => .val (dst.infinity n) 0
  | .zero n => .val (dst.sign n) 0
  | .fin n m e => dst.round rm dn n m e

/-- A finite value rounded to an integer: its magnitude and whether that was inexact. -/
def roundInt (rm : BitVec 3) (neg : Bool) (m : Nat) (e : Int) : Nat × Bool :=
  if 0 ≤ e then (m * 2 ^ e.toNat, false) else roundBits rm neg m (-e).toNat

/-- Conversion to an integer of `w` bits, signed or not (R209): the limits for values that do not
    fit, 0 for a NaN. -/
def toIntV (rm : BitVec 3) (signed : Bool) (w : Nat) (a : FVal) : FRes :=
  let big (neg : Bool) : Nat :=
    if signed then (if neg then 2 ^ (w - 1) else 2 ^ (w - 1) - 1)
    else (if neg then 0 else 2 ^ w - 1)
  match a with
  | .nan _ => .val 0 flagNV
  | .inf n => .val (big n) flagNV
  | .zero _ => .val 0 0
  | .fin n m e =>
    let (k, nx) := roundInt rm n m e
    let fl := if nx then flagNX else 0
    if signed then
      if n then if k ≤ 2 ^ (w - 1) then .val ((2 ^ w - k) % 2 ^ w) fl else .val (big true) flagNV
      else if k < 2 ^ (w - 1) then .val k fl else .val (big false) flagNV
    else if n then if k = 0 then .val 0 fl else .val 0 flagNV
    else if k < 2 ^ w then .val k fl else .val (big false) flagNV

/-- Conversion from an integer. -/
def FFmt.ofInt (f : FFmt) (rm : BitVec 3) (dn : Bool) (n : Int) : FRes :=
  if n = 0 then .val 0 0 else f.round rm dn (decide (n < 0)) n.natAbs 0

/-! ### Step division and square root (R377, R378) -/

/-- E of R377: the quotient bits a full division develops, less 1. -/
def FFmt.quotBits (f : FFmt) : Nat := if f.frac = 52 then 55 else 25

/-- K of R378. -/
def FFmt.rootK (f : FFmt) : Nat := if f.frac = 52 then 54 else 25

/-- T of R378. -/
def FFmt.rootT (f : FFmt) : Nat := if f.frac = 52 then 56 else 26

/-- The significand of an operand; 0 unless it is a normal number (R377). -/
def FVal.sig : FVal → Nat
  | .fin _ m _ => m
  | _ => 0

/-- FDSTEP of R377 on a remainder and quotient bits: two quotient bits. -/
def divStep (mb : Nat) (r q : Word) : Word × Word :=
  let d := 2 * mb
  let t := 4 * r.toNat
  let k := if d = 0 then 3 else if 3 * d ≤ t then 3 else if 2 * d ≤ t then 2
    else if d ≤ t then 1 else 0
  (BitVec.ofNat 64 (t - k * d), BitVec.ofNat 64 (4 * q.toNat + k))

/-- An exact quotient num ÷ den × 2^e as a dyadic number that rounds alike: 128 more bits, and a last
    bit for what is left. -/
def quotient (num den : Nat) (e : Int) : Nat × Int :=
  let n := num * 2 ^ 128
  (2 * (n / den) + (if n % den = 0 then 0 else 1), e - 129)

/-- R213: a non-zero remainder counts as inexact. -/
def FRes.remainder (r : Word) (x : FRes) : FRes :=
  match x with
  | .denorm => .denorm
  | .val n fl => .val n (if r = 0 then fl else fl ||| flagNX)

/-- FDEND of R377 and R213. -/
def FFmt.divEnd (f : FFmt) (rm : BitVec 3) (dn : Bool) (a b : FVal) (r q : Word) : FRes :=
  let neg := a.neg != b.neg
  match a, b with
  | .nan s, y => f.nanRes (s || y.isSnan)
  | x, .nan s => f.nanRes (s || x.isSnan)
  | .zero _, .zero _ => f.invalid
  | .inf _, .inf _ => f.invalid
  | .fin _ _ _, .zero _ => .val (f.infinity neg) flagDZ
  | .inf _, _ => .val (f.infinity neg) 0
  | _, .inf _ => .val (f.sign neg) 0
  | .zero _, _ => .val (f.sign neg) 0
  | .fin _ _ ea, .fin _ mb eb =>
    let num := q.toNat * (2 * mb) + r.toNat
    if num = 0 then .val (f.sign neg) 0
    else
      let (m, e) := quotient num (2 * mb) (ea - eb - f.quotBits)
      (f.round rm dn neg m e).remainder r

/-- The exponent k of R378 with ga = x × 4^k and 1/4 ≤ x < 1, for a normal operand m × 2^e. -/
def FFmt.rootExp (f : FFmt) (e : Int) : Int := (e + f.frac + 2) / 2

/-- FSSTART of R378: the initial remainder. -/
def FFmt.rootStart (f : FFmt) (a : FVal) : Word :=
  match a with
  | .fin false m e => BitVec.ofNat 64 (m * 2 ^ (e - 2 * f.rootExp e + 2 + f.rootK).toNat)
  | _ => 0

/-- FSSTEP of R378: two root bits. -/
def FFmt.rootStep (f : FFmt) (r y : Word) : Word × Word :=
  let len := if y = 0 then 0 else Nat.log2 y.toNat + 1
  let h := f.rootK - 2 * ((len + 1) / 2)
  let cost (k : Nat) : Nat := (8 * y.toNat * k + k * k) * 2 ^ h
  let t := 4 * r.toNat
  let k := if cost 3 ≤ t then 3 else if cost 2 ≤ t then 2 else if cost 1 ≤ t then 1 else 0
  (BitVec.ofNat 64 (t - cost k), BitVec.ofNat 64 (4 * y.toNat + k))

/-- ρ of R378 when the remainder is not 0, in units of 2^-64: the spec allows any value between 0
    and 1 (log entry 3). -/
def rootRho (r y : Word) : Nat := 1 + Config.rootRho r y % (2 ^ 64 - 1)

/-- FSEND of R378 and R213. -/
def FFmt.rootEnd (f : FFmt) (rm : BitVec 3) (dn : Bool) (a : FVal) (r y : Word) : FRes :=
  match a with
  | .nan s => f.nanRes s
  | .zero n => .val (f.sign n) 0
  | .inf false => .val (f.infinity false) 0
  | .inf true => f.invalid
  | .fin true _ _ => f.invalid
  | .fin false _ e =>
    let m := y.toNat * 2 ^ 64 + (if r = 0 then 0 else rootRho r y)
    if m = 0 then .val (f.sign false) 0
    else (f.round rm dn false m (f.rootExp e - f.rootT - 64)).remainder r

/-! ### Operations on patterns, with DN applied to each operand -/

/-- An operation of one operand. -/
def fop1 (src : FFmt) (dn : Bool) (op : FVal → FRes) (a : Nat) : FRes :=
  match src.operand dn a with
  | some x => op x
  | none => .denorm

/-- An operation of two operands. -/
def fop2 (src : FFmt) (dn : Bool) (op : FVal → FVal → FRes) (a b : Nat) : FRes :=
  match src.operand dn a, src.operand dn b with
  | some x, some y => op x y
  | _, _ => .denorm

/-- An operation of three operands. -/
def fop3 (src : FFmt) (dn : Bool) (op : FVal → FVal → FVal → FRes) (a b c : Nat) : FRes :=
  match src.operand dn a, src.operand dn b, src.operand dn c with
  | some x, some y, some z => op x y z
  | _, _, _ => .denorm

/-- The rounding mode of FCTL. -/
def rmOf (fctl : Word) : BitVec 3 := fctl.setWidth 3

/-- DN of FCTL. -/
def dnOf (fctl : Word) : Bool := fctl.getLsbD 4

/-- TE of FCTL. -/
def teOf (fctl : Word) : BitVec 5 := fctl.extractLsb' 8 5

/-- a + b (Table 4.7). -/
def fadd (f : FFmt) (c : Word) : Nat → Nat → FRes := fop2 f (dnOf c) (f.addV (rmOf c) (dnOf c))
/-- a − b, exactly a + (−b) (Table 8.4). -/
def fsub (f : FFmt) (c : Word) : Nat → Nat → FRes :=
  fop2 f (dnOf c) fun a b => f.addV (rmOf c) (dnOf c) a b.negate
/-- a × b. -/
def fmul (f : FFmt) (c : Word) : Nat → Nat → FRes := fop2 f (dnOf c) (f.mulV (rmOf c) (dnOf c))
/-- The smaller operand. -/
def fmin (f : FFmt) (c : Word) : Nat → Nat → FRes := fop2 f (dnOf c) (f.minmaxV false)
/-- The larger operand. -/
def fmax (f : FFmt) (c : Word) : Nat → Nat → FRes := fop2 f (dnOf c) (f.minmaxV true)
/-- a with its sign cleared; a NaN gives the canonical NaN. -/
def fabs (f : FFmt) (c : Word) : Nat → FRes :=
  fop1 f (dnOf c) fun a => .val (f.pattern (if a.neg then a.negate else a)) 0
/-- a with its sign inverted; a NaN gives the canonical NaN. -/
def fneg (f : FFmt) (c : Word) : Nat → FRes := fop1 f (dnOf c) fun a => .val (f.pattern a.negate) 0
/-- 1 if a = b. -/
def feq (f : FFmt) (c : Word) : Nat → Nat → FRes :=
  fop2 f (dnOf c) fun a b => cmpV false (a.eqv b) a b
/-- 1 if a < b. -/
def flt (f : FFmt) (c : Word) : Nat → Nat → FRes :=
  fop2 f (dnOf c) fun a b => cmpV true (a.lt b) a b
/-- 1 if a ≤ b. -/
def fle (f : FFmt) (c : Word) : Nat → Nat → FRes :=
  fop2 f (dnOf c) fun a b => cmpV true (a.lt b || a.eqv b) a b
/-- 1 if either operand is a NaN. -/
def fun' (f : FFmt) (c : Word) : Nat → Nat → FRes :=
  fop2 f (dnOf c) fun a b => cmpV false (a.isNan || b.isNan) a b
/-- ±(a × b) ± c, by inverting the sign of a or of c (R367). -/
def ffma (negA negC : Bool) (f : FFmt) (ctl : Word) : Nat → Nat → Nat → FRes :=
  fop3 f (dnOf ctl) fun a b c =>
    f.fmaV (rmOf ctl) (dnOf ctl) (if negA then a.negate else a) b (if negC then c.negate else c)
/-- Conversion between the binary formats. -/
def fcvt (src dst : FFmt) (c : Word) : Nat → FRes := fop1 src (dnOf c) (dst.cvtV (rmOf c) (dnOf c))
/-- Conversion to an integer. -/
def ftoint (f : FFmt) (c : Word) (rm : BitVec 3) (signed : Bool) (w : Nat) : Nat → FRes :=
  fop1 f (dnOf c) (toIntV rm signed w)

end Sys2Proof.Machine
end

