-- ==== Sys2Proof/Machine/Operands.lean ====
section
/-! DEFINITION. Element types, stream descriptors and their fields, and the checks of a group at
commit (R273 to R289, R316, R320, R321, R348, Tables 6.1 to 6.7 and 7.16). -/

namespace Sys2Proof.Machine

/-! ### Element types (Tables 6.6 and 7.2, R321) -/

/-- The type of an element.  `record` is a step record. -/
inductive ETy
  | int (signed : Bool) (w : Nat)
  | f32
  | f64
  | p15
  | p31
  | bit
  | w62
  | record
  deriving DecidableEq, Repr

/-- The width of an element in bits. -/
def ETy.bits : ETy → Nat
  | .int _ w => w
  | .f32 => 32
  | .f64 => 64
  | .p15 => 64
  | .p31 => 128
  | .bit => 1
  | .w62 => 256
  | .record => 256

/-- The bytes of an element that is not a bit. -/
def ETy.bytes (t : ETy) : Nat := t.bits / 8

/-- The type of a type code (Table 7.2). -/
def tyOf (c : BitVec 4) : Option ETy :=
  match c.toNat with
  | 0 => some (.int true 8)
  | 1 => some (.int true 16)
  | 2 => some (.int true 32)
  | 3 => some (.int true 64)
  | 4 => some (.int false 8)
  | 5 => some (.int false 16)
  | 6 => some (.int false 32)
  | 7 => some (.int false 64)
  | 8 => some .f32
  | 9 => some .f64
  | 10 => some .p15
  | 11 => some .p31
  | 12 => some .bit
  | 13 => some .w62
  | _ => none

/-- The zero that an inactive element receives (R296): sign 0xC for a packed value. -/
def ETy.zero : ETy → Nat
  | .p15 => 0xC
  | .p31 => 0xC
  | .w62 => 0xC + 0xC * 2 ^ 128
  | _ => 0

/-! ### Descriptor fields (Tables 6.1 and 6.2) -/

/-- FORM of a descriptor (Table 6.4). -/
inductive Form
  | unit
  | struct
  | gather
  | scatter
  | queue
  | reg
  | scalar
  | link
  deriving DecidableEq, Repr

/-- FORM. -/
def VDesc.form (d : VDesc) : Form :=
  match field d.ctl 0 3 with
  | 0 => .unit
  | 1 => .struct
  | 2 => .gather
  | 3 => .scatter
  | 4 => .queue
  | 5 => .reg
  | 6 => .scalar
  | _ => .link

/-- NF: the fields of a record, less 1. -/
def VDesc.nf (d : VDesc) : Nat := field d.ctl 8 2
/-- FIELD. -/
def VDesc.fieldNo (d : VDesc) : Nat := field d.ctl 10 2
/-- ISD: the descriptor of the index stream. -/
def VDesc.isd (d : VDesc) : BitVec 4 := d.ctl.extractLsb' 12 4
/-- The width of an index: 32 bits, or 64 with IW. -/
def VDesc.iw (d : VDesc) : Nat := if d.ctl.getLsbD 18 then 64 else 32
/-- ISGN. -/
def VDesc.isgn (d : VDesc) : Bool := d.ctl.getLsbD 19
/-- SCALE. -/
def VDesc.scale (d : VDesc) : Nat := field d.ctl 20 3
/-- CQ: the queue, or the output as a destination. -/
def VDesc.cq (d : VDesc) : Nat := field d.ctl 24 2
/-- GRP: the first staging register. -/
def VDesc.grp (d : VDesc) : Nat := field d.ctl 26 3
/-- GREG. -/
def VDesc.greg (d : VDesc) : Reg := d.ctl.extractLsb' 29 5

/-- The decimal scale of an operand: DSCALE, or the scale of DCTL (R326, R372). -/
def VDesc.decScale (d : VDesc) (dctl : Word) : Nat :=
  if d.ctl.getLsbD 39 then field d.ctl 34 5 else field dctl 0 5

/-- Has the form an index stream? -/
def Form.indexed (f : Form) : Bool := f == .gather || f == .scatter

/-- Is the form a memory form? -/
def Form.memory (f : Form) : Bool := f == .unit || f == .struct || f.indexed

/-! ### Operations -/

/-- What an element operation may use beside its operands: FCTL and DCTL as captured, the element
    index, and the decimal scales of the sources and of the destination. -/
structure VEnv where
  fctl : Word
  dctl : Word
  i : Nat
  sa : Nat
  sb : Nat
  sd : Nat

/-- The result of an element and its flags, in the bit positions of VFLAGS (Table 6.9). -/
structure ERes where
  val : Nat
  flags : BitVec 9 := 0

/-- A reduction (R346): its partial results after b, after one more element, and its result. -/
structure VRed where
  start : VEnv → Nat → List Int × BitVec 9
  step : VEnv → List Int → Nat → List Int × BitVec 9
  finish : VEnv → List Int → ERes

/-- How an instruction maps elements to a result. -/
inductive VKind
  | elem (f : VEnv → Nat → Nat → Nat → ERes)
  | compress
  | expand
  | reduce (r : VRed)

/-- A streaming instruction: its pipe as EC_ERANGEp.PIPE numbers it, the types of its destination and
    of its sources, whether its third and fourth descriptor fields are used, and its work. -/
structure VOp where
  pipe : Nat
  d : ETy
  srcs : List ETy
  usesB : Bool := true
  usesX : Bool := false
  kind : VKind

/-- Is the operation a reduction? -/
def VOp.isReduce (o : VOp) : Bool := match o.kind with | .reduce _ => true | _ => false

/-- Is it VCOMPRESS? -/
def VOp.isCompress (o : VOp) : Bool := match o.kind with | .compress => true | _ => false

/-- Is it VEXPAND? -/
def VOp.isExpand (o : VOp) : Bool := match o.kind with | .expand => true | _ => false

/-! ### Fields of a streaming word (Table 7.1) -/

/-- The chain bit C. -/
def vC (w : BitVec 32) : Bool := w.getLsbD 25
/-- The mask register mK. -/
def vM (w : BitVec 32) : Nat := (w.extractLsb' 22 3).toNat
/-- sdD. -/
def vD (w : BitVec 32) : BitVec 4 := w.extractLsb' 18 4
/-- The descriptor of source `k`. -/
def vSrc (w : BitVec 32) (k : Nat) : BitVec 4 := w.extractLsb' (14 - 4 * k) 4

/-! ### Capture (R270) -/

/-- Words 0 and 1 of a descriptor as they stand. -/
def captureDesc (x : Engine) (n : BitVec 4) : VDesc :=
  { sd := n, base := x.vec.sd.toList.getD (4 * n.toNat) 0,
    ctl := x.vec.sd.toList.getD (4 * n.toNat + 1) 0 }

/-- An operand as it stands: its descriptor, its index descriptor, and a SCALAR's registers. -/
def captureOperand (x : Engine) (n : BitVec 4) : VOperand :=
  let d := captureDesc x n
  { desc := d
    idx := if d.form.indexed then captureDesc x d.isd else {}
    lo := if d.form = .scalar then x.reg d.greg else 0
    hi := if d.form = .scalar then x.reg (nextReg d.greg) else 0 }

/-- A member as it stands at commit. -/
def captureMember (x : Engine) (w : BitVec 32) (pc : Word) (o : VOp) : VMember :=
  let m : Byte := x.m.toList.getD (vM w) 0
  { word := w, pc := pc
    d := captureOperand x (vD w)
    srcs := (List.range o.srcs.length).map fun k => captureOperand x (vSrc w k)
    mask := if vM w = 0 then {} else captureDesc x (m.setWidth 4)
    mcfg := m }

/-! ### Checks of one operand (Tables 6.5 and 7.16) -/

/-- What the checks of a group know: VL, the group size G, and which outputs are wired. -/
structure GroupEnv where
  vl : Nat
  g : Nat
  wired : Nat → Bool

/-- Capacity of a register group for elements of `w` bits (Table 6.7, R321). -/
def capacity (g w : Nat) : Nat := 8192 * g / w

/-- REG: GRP a multiple of G, and VL within the capacity; `one` for an operand of one element. -/
def regOk (v : GroupEnv) (d : VDesc) (w : Nat) (one : Bool) : Bool :=
  d.grp % v.g == 0 && decide ((if one then 1 else v.vl) ≤ capacity v.g w)

/-- STRUCT: NF not 0, FIELD at most NF, no BIT elements. -/
def structOk (d : VDesc) (t : ETy) : Bool := d.nf != 0 && decide (d.fieldNo ≤ d.nf) && t != .bit

/-- The index stream of a GATHER or SCATTER; `prev` is the result type of the previous member. -/
def indexOk (v : GroupEnv) (prev : Option ETy) (o : VOperand) (t : ETy) : Bool :=
  decide (o.desc.scale ≤ 4) && o.desc.isd != o.desc.sd && t != .bit &&
    match o.idx.form with
    | .unit => true
    | .struct => structOk o.idx (.int false o.desc.iw)
    | .queue => true
    | .reg => regOk v o.idx o.desc.iw false
    | .link => match prev with
      | some (.int _ w) => w == o.desc.iw
      | _ => false
    | _ => false

/-- A source operand. -/
def sourceOk (v : GroupEnv) (prev : Option ETy) (one : Bool) (o : VOperand) (t : ETy) : Bool :=
  match o.desc.form with
  | .unit => true
  | .struct => structOk o.desc t
  | .gather => indexOk v prev o t
  | .scatter => false
  | .queue => true
  | .reg => regOk v o.desc t.bits one
  | .scalar =>
    t != .w62 && t != .record &&
      (t != .p31 || (!o.desc.greg.getLsbD 0 && decide (o.desc.greg.toNat ≤ 28)))
  | .link => prev.isSome

/-- The destination; `last` for the last member. -/
def destOk (v : GroupEnv) (prev : Option ETy) (last one : Bool) (o : VOperand) (t : ETy) : Bool :=
  match o.desc.form with
  | .unit => true
  | .struct => structOk o.desc t
  | .gather => false
  | .scatter => indexOk v prev o t
  | .queue => v.wired o.desc.cq
  | .reg => regOk v o.desc t.bits one
  | .scalar => false
  | .link => !last

/-- The mask stream: UNIT, QUEUE, REG of BIT elements, or LINK; 32-byte layouts are no mask. -/
def maskOk (v : GroupEnv) (prev : Option ETy) (d : VDesc) : Bool :=
  match d.form with
  | .unit => true
  | .queue => true
  | .reg => regOk v d 1 false
  | .link => match prev with
    | some t => t != .w62 && t != .record
    | none => false
  | _ => false

/-- VCOMPRESS writes, and VEXPAND reads, only forms whose elements can be packed (Table 7.16). -/
def packOk (o : VOp) (m : VMember) : Bool :=
  let d := m.d.desc.form
  let a := ((m.srcs.headD {}).desc).form
  (!o.isCompress || d == .unit || d == .struct || d == .scatter || d == .reg) &&
    (!o.isExpand || a == .unit || a == .struct || a == .gather || a == .reg)

/-- A reduction is last, and its sdB is not LINK (Table 7.16). -/
def reduceOk (o : VOp) (m : VMember) (last : Bool) : Bool :=
  !o.isReduce || (last && ((m.srcs.getD 1 {}).desc).form != .link)

/-- The sources of a member with their types. -/
def typedSrcs (m : VMember) (o : VOp) : List (VOperand × ETy) := m.srcs.zip o.srcs

/-- Every check of one member's own operands. -/
def memberOk (v : GroupEnv) (prev : Option ETy) (last : Bool) (m : VMember) (o : VOp) : Bool :=
  (vM m.word == 0 || maskOk v prev m.mask) &&
    (List.range m.srcs.length).all (fun k =>
      sourceOk v prev (o.isReduce && k == 1) (m.srcs.getD k {}) (o.srcs.getD k .bit)) &&
    destOk v prev last o.isReduce m.d o.d && packOk o m && reduceOk o m last

/-! ### Ports and queues of a group -/

/-- The streams of a member that a read port or a queue may serve: its mask, its sources, and the
    index streams of its sources and its destination. -/
def readStreams (m : VMember) : List VDesc :=
  (if vM m.word = 0 then [] else [m.mask]) ++
    m.srcs.flatMap (fun o => o.desc :: (if o.desc.form.indexed then [o.idx] else [])) ++
    (if m.d.desc.form.indexed then [m.d.idx] else [])

/-- The read ports of a member (Table 6.4). -/
def readPorts (m : VMember) : Nat :=
  ((readStreams m).filter fun d => d.form.memory || d.form == .queue).length

/-- The write ports of a member (Table 6.4). -/
def writePorts (m : VMember) : Nat :=
  if m.d.desc.form.memory || m.d.desc.form == .queue then 1 else 0

/-- The queues that sources of a member name. -/
def queuesOf (m : VMember) : List Nat :=
  ((readStreams m).filter fun d => d.form == .queue).map VDesc.cq

/-- Does a list name something twice? -/
def hasDup : List Nat → Bool
  | [] => false
  | a :: l => l.contains a || hasDup l

/-- The word of the first member that fails a check of Table 6.5 or 7.16: `reads`, `writes` and `qs`
    are what the members before it use. -/
def groupFault (v : GroupEnv) : Option ETy → Nat → Nat → List Nat → List (VMember × VOp) →
    Option (BitVec 32)
  | _, _, _, _, [] => none
  | prev, reads, writes, qs, (m, o) :: ms =>
    let qs := qs ++ queuesOf m
    let reads := reads + readPorts m
    let writes := writes + writePorts m
    if !memberOk v prev ms.isEmpty m o || hasDup qs || decide (3 < reads) || decide (1 < writes) then
      some m.word
    else groupFault v (some o.d) reads writes qs ms

/-! ### Strips (R286) -/

/-- The widths of everything a member reads and writes (R286). -/
def memberBits (m : VMember) (o : VOp) : List Nat :=
  (o.d :: o.srcs).map ETy.bits ++
    ((m.d :: m.srcs).filter fun p => p.desc.form.indexed).map (fun p => p.desc.iw)

/-- S: the elements of a strip. -/
def stripLen (ms : List (VMember × VOp)) : Nat :=
  2048 / ((ms.flatMap fun p => memberBits p.1 p.2).foldl max 1)

end Sys2Proof.Machine
end

