-- ==== Sys2Proof/Machine/VFloat.lean ====
section
/-! DEFINITION. Vector binary floating point (R325, R327 to R329): what each instruction computes for one element. -/

namespace Sys2Proof.Machine

/-! ### Shapes -/

/-- A binary floating-point element: its value and flags; DENORM writes the result of FCTL.DN = 0 and
    raises DENORM alone (R309, R325, R361). -/
def felem (f : Word → FRes) (c : Word) : ERes :=
  match f c with
  | .val n fl => ⟨n, fl.setWidth 9⟩
  | .denorm =>
    match f (c &&& ~~~0x10) with
    | .val n _ => ⟨n, 0x20⟩
    | .denorm => ⟨0, 0x20⟩

/-- The format of an F type code (Table 7.2). -/
def fty (t : BitVec 4) : Option (FFmt × ETy) :=
  match t.toNat with
  | 8 => some (f32, .f32)
  | 9 => some (f64, .f64)
  | _ => none

/-- The integer types of a conversion: I32, I64, U32, U64 (Tables 7.6 and 7.11): signed, width. -/
def cvtInt (t : BitVec 4) : Option (Bool × Nat) :=
  match t.toNat with
  | 2 => some (true, 32)
  | 3 => some (true, 64)
  | 6 => some (false, 32)
  | 7 => some (false, 64)
  | _ => none

/-- The value of an integer element of `w` bits. -/
def elemInt (sg : Bool) (w n : Nat) : Int := if sg then (BitVec.ofNat w n).toInt else n

/-- An operation of type F with two sources and a result type. -/
def vf2 (d : ETy → ETy) (t : BitVec 4) (f : FFmt → Word → Nat → Nat → FRes) : Option VOp :=
  (fty t).map fun p =>
    { pipe := 0, d := d p.2, srcs := [p.2, p.2],
      kind := .elem fun v a b _ => felem (fun c => f p.1 c a b) v.fctl }

/-- An operation of type F with one source. -/
def vf1 (t : BitVec 4) (f : FFmt → Word → Nat → FRes) : Option VOp :=
  (fty t).map fun p =>
    { pipe := 0, d := p.2, srcs := [p.2], usesB := false,
      kind := .elem fun v a _ _ => felem (fun c => f p.1 c a) v.fctl }

/-- A comparison of type F with a BIT result. -/
def vfcmp (t : BitVec 4) (f : FFmt → Word → Nat → Nat → FRes) : Option VOp := vf2 (fun _ => .bit) t f

/-- The format of the two-bit type field of opcode 0x32 and of binary steps (R329, Table 7.12). -/
def fty2 (t : BitVec 2) : Option (FFmt × ETy) :=
  match t.toNat with
  | 0 => some (f32, .f32)
  | 1 => some (f64, .f64)
  | _ => none

/-- An operation of opcode 0x32 (Table 7.7). -/
def vfma3 (negA negC : Bool) (t : BitVec 2) : Option VOp :=
  (fty2 t).map fun p =>
    { pipe := 0, d := p.2, srcs := [p.2, p.2, p.2], usesX := true,
      kind := .elem fun v a b c => felem (fun ctl => ffma negA negC p.1 ctl a b c) v.fctl }

/-- A conversion to an integer type in a rounding mode (R328). -/
def vfToInt (t u : BitVec 4) (rm : Word → BitVec 3) : Option VOp := do
  let (sg, w) ← cvtInt t
  let (f, ty) ← fty u
  return { pipe := 0, d := .int sg w, srcs := [ty],
           kind := .elem fun v a _ _ => felem (fun c => ftoint f c (rm c) sg w a) v.fctl }

/-- A conversion from an integer type (Table 7.6). -/
def vfFromInt (t u : BitVec 4) : Option VOp := do
  let (f, ty) ← fty t
  let (sg, w) ← cvtInt u
  return { pipe := 0, d := ty, srcs := [.int sg w],
           kind := .elem fun v a _ _ =>
             felem (fun c => f.ofInt (rmOf c) (dnOf c) (elemInt sg w a)) v.fctl }

/-- A conversion between the binary formats (Table 7.6). -/
def vfFromFloat (t u : BitVec 4) : Option VOp :=
  if t = u then none
  else do
    let (f, ty) ← fty t
    let (g, uy) ← fty u
    return { pipe := 0, d := ty, srcs := [uy],
             kind := .elem fun v a _ _ => felem (fun c => fcvt g f c a) v.fctl }

/-! ### Opcode 0x31 (Table 7.5) -/

/-- VFADD (Table 7.5). -/
def vfaddOp (t : BitVec 4) : Option VOp := vf2 id t fadd

/-- VFSUB (Table 7.5). -/
def vfsubOp (t : BitVec 4) : Option VOp := vf2 id t fsub

/-- VFMUL (Table 7.5). -/
def vfmulOp (t : BitVec 4) : Option VOp := vf2 id t fmul

/-- VFMIN (Table 7.5). -/
def vfminOp (t : BitVec 4) : Option VOp := vf2 id t fmin

/-- VFMAX (Table 7.5). -/
def vfmaxOp (t : BitVec 4) : Option VOp := vf2 id t fmax

/-- VFABS (Table 7.5). -/
def vfabsOp (t : BitVec 4) : Option VOp := vf1 t fabs

/-- VFNEG (Table 7.5). -/
def vfnegOp (t : BitVec 4) : Option VOp := vf1 t fneg

/-- VFEQ (Table 7.5). -/
def vfeqOp (t : BitVec 4) : Option VOp := vfcmp t feq

/-- VFLT (Table 7.5). -/
def vfltOp (t : BitVec 4) : Option VOp := vfcmp t flt

/-- VFLE (Table 7.5). -/
def vfleOp (t : BitVec 4) : Option VOp := vfcmp t fle

/-- VFUN (Table 7.5). -/
def vfunOp (t : BitVec 4) : Option VOp := vfcmp t fun'

/-- VCVT (R328, Table 7.6). -/
def vcvtOp (t u : BitVec 4) : Option VOp := vfFromFloat t u <|> vfFromInt t u <|> vfToInt t u rmOf

/-- VCVTZ (R328): rounded toward zero. -/
def vcvtzOp (t u : BitVec 4) : Option VOp := vfToInt t u fun _ => 1

/-! ### Opcode 0x32 (Table 7.7) -/

/-- VFMA (Table 7.7, R367). -/
def vfmaOp (t : BitVec 2) : Option VOp := vfma3 false false t

/-- VFMS (Table 7.7, R367). -/
def vfmsOp (t : BitVec 2) : Option VOp := vfma3 false true t

/-- VFNMA (Table 7.7, R367). -/
def vfnmaOp (t : BitVec 2) : Option VOp := vfma3 true false t

/-- VFNMS (Table 7.7, R367). -/
def vfnmsOp (t : BitVec 2) : Option VOp := vfma3 true true t

end Sys2Proof.Machine
end

