-- ==== Sys2Proof/Machine/VInt.lean ====
section
/-! DEFINITION. Vector integer and logic instructions (R330 to R332): what each computes for one element. -/

namespace Sys2Proof.Machine

/-! ### Shapes -/

/-- The signedness and width of an N type code (Table 7.2). -/
def ity (t : BitVec 4) : Option (Bool × Nat) :=
  match tyOf t with
  | some (.int sg w) => some (sg, w)
  | _ => none

/-- An integer wrapped to `w` bits. -/
def wrap (w : Nat) (z : Int) : Nat := (z % (2 ^ w : Nat)).toNat

/-- An integer saturated to the range of a type (R331). -/
def saturate (sg : Bool) (w : Nat) (z : Int) : Nat :=
  let lo : Int := if sg then -(2 ^ (w - 1) : Nat) else 0
  let hi : Int := if sg then (2 ^ (w - 1) : Nat) - 1 else (2 ^ w : Nat) - 1
  wrap w (if z < lo then lo else if hi < z then hi else z)

/-- An operation of type N with two sources and a result type. -/
def vi2 (d : ETy → ETy) (t : BitVec 4) (f : Bool → Nat → Nat → Nat → Nat) : Option VOp :=
  (ity t).map fun p =>
    { pipe := 1, d := d (.int p.1 p.2), srcs := [.int p.1 p.2, .int p.1 p.2],
      kind := .elem fun _ a b _ => ⟨f p.1 p.2 a b, 0⟩ }

/-- An operation of type N with one source. -/
def vi1 (t : BitVec 4) (f : Nat → Nat → Nat) : Option VOp :=
  (ity t).map fun p =>
    { pipe := 1, d := .int p.1 p.2, srcs := [.int p.1 p.2], usesB := false,
      kind := .elem fun _ a _ _ => ⟨f p.2 a, 0⟩ }

/-- A bitwise operation of type N or BIT. -/
def vlogic (t : BitVec 4) (f : Nat → Nat → Nat) : Option VOp :=
  if t = 12 then
    some { pipe := 1, d := .bit, srcs := [.bit, .bit], kind := .elem fun _ a b _ => ⟨f a b, 0⟩ }
  else vi2 id t fun _ _ => f

/-- Is a below b, as signed or unsigned values of `w` bits? -/
def below (sg : Bool) (w a b : Nat) : Bool := decide (elemInt sg w a < elemInt sg w b)

/-- The one bits of the low `n` bits of a number. -/
def popcount : Nat → Nat → Nat
  | 0, _ => 0
  | n + 1, v => v % 2 + popcount n (v / 2)

/-- The leading zero bits of a number of `w` bits. -/
def leadingZeros (w v : Nat) : Nat := if v = 0 then w else w - 1 - Nat.log2 v

/-! ### Opcode 0x33 (Table 7.8) -/

/-- VADD (Table 7.8): a + b modulo 2^w. -/
def vaddOp (t : BitVec 4) : Option VOp :=
  vi2 id t fun sg w a b => wrap w (elemInt sg w a + elemInt sg w b)

/-- VSUB (Table 7.8): a - b modulo 2^w. -/
def vsubOp (t : BitVec 4) : Option VOp :=
  vi2 id t fun sg w a b => wrap w (elemInt sg w a - elemInt sg w b)

/-- VMUL (Table 7.8): the low w bits of a × b. -/
def vmulOp (t : BitVec 4) : Option VOp := vi2 id t fun _ w a b => a * b % 2 ^ w

/-- VMULH (Table 7.8): the high w bits of a × b. -/
def vmulhOp (t : BitVec 4) : Option VOp :=
  vi2 id t fun sg w a b => wrap w (elemInt sg w a * elemInt sg w b / (2 ^ w : Nat))

/-- VAND (Table 7.8): a AND b. -/
def vandOp (t : BitVec 4) : Option VOp := vlogic t fun a b => a &&& b

/-- VOR (Table 7.8): a OR b. -/
def vorOp (t : BitVec 4) : Option VOp := vlogic t fun a b => a ||| b

/-- VXOR (Table 7.8): a XOR b. -/
def vxorOp (t : BitVec 4) : Option VOp := vlogic t fun a b => a ^^^ b

/-- VANDN (Table 7.8): a AND NOT b. -/
def vandnOp (t : BitVec 4) : Option VOp := vlogic t fun a b => a ^^^ (a &&& b)

/-- VSHL (Table 7.8): a shifted left by b mod w. -/
def vshlOp (t : BitVec 4) : Option VOp := vi2 id t fun _ w a b => a * 2 ^ (b % w) % 2 ^ w

/-- VSHR (Table 7.8): a shifted right by b mod w, arithmetic for I types. -/
def vshrOp (t : BitVec 4) : Option VOp :=
  vi2 id t fun sg w a b => wrap w (elemInt sg w a / (2 ^ (b % w) : Nat))

/-- VMIN (Table 7.8): the smaller of a and b. -/
def vminOp (t : BitVec 4) : Option VOp := vi2 id t fun sg w a b => if below sg w b a then b else a

/-- VMAX (Table 7.8): the larger of a and b. -/
def vmaxOp (t : BitVec 4) : Option VOp := vi2 id t fun sg w a b => if below sg w a b then b else a

/-- VCEQ (Table 7.8): 1 if a = b. -/
def vceqOp (t : BitVec 4) : Option VOp :=
  vi2 (fun _ => .bit) t fun _ _ a b => if a = b then 1 else 0

/-- VCLT (Table 7.8): 1 if a < b. -/
def vcltOp (t : BitVec 4) : Option VOp :=
  vi2 (fun _ => .bit) t fun sg w a b => if below sg w a b then 1 else 0

/-- VADDS (Table 7.8): a + b saturated. -/
def vaddsOp (t : BitVec 4) : Option VOp :=
  vi2 id t fun sg w a b => saturate sg w (elemInt sg w a + elemInt sg w b)

/-- VSUBS (Table 7.8): a - b saturated. -/
def vsubsOp (t : BitVec 4) : Option VOp :=
  vi2 id t fun sg w a b => saturate sg w (elemInt sg w a - elemInt sg w b)

/-- VPOPC (Table 7.8): the one bits of a. -/
def vpopcOp (t : BitVec 4) : Option VOp := vi1 t popcount

/-- VCLZ (Table 7.8): the leading zero bits of a. -/
def vclzOp (t : BitVec 4) : Option VOp := vi1 t leadingZeros

/-- VCVTI (R331): extended as the source type says, or cut to the low bits. -/
def vcvtiOp (t u : BitVec 4) : Option VOp :=
  do
  let (sg, w) ← ity t
  let (su, wu) ← ity u
  return { pipe := 1, d := .int sg w, srcs := [.int su wu],
           kind := .elem fun _ a _ _ => ⟨wrap w (elemInt su wu a), 0⟩ }

/-! ### Opcode 0x34 (Table 7.9) -/

/-- An operation of opcode 0x34 on elements of a type. -/
def vmac3 (ty : ETy) (f : Nat → Nat → Nat → Nat) : VOp :=
  { pipe := 1, d := ty, srcs := [ty, ty, ty], usesX := true, kind := .elem fun _ a b c => ⟨f a b c, 0⟩ }

/-- Byte `j` of a word, extended by its signedness. -/
def dotByte (sg : Bool) (v j : Nat) : Int := elemInt sg 8 (v / 2 ^ (8 * j) % 256)

/-- The dot product of R332: four byte products added to c, modulo 2^32. -/
def dot4 (sa sb : Bool) (a b c : Nat) : Nat :=
  wrap 32 ((List.range 4).foldl (fun acc j => acc + dotByte sa a j * dotByte sb b j) (c : Int))

/-- VMAC (Table 7.9): a × b + c modulo 2^w. -/
def vmacOp (t : BitVec 2) : Option VOp :=
  match t.toNat with
  | 0 => some (vmac3 (.int true 32) fun a b c => (a * b + c) % 2 ^ 32)
  | 1 => some (vmac3 (.int true 64) fun a b c => (a * b + c) % 2 ^ 64)
  | _ => none

/-- VDOT4 (Table 7.9). -/
def vdot4Op (t : BitVec 2) : Option VOp :=
  match t.toNat with
  | 0 => some (vmac3 (.int true 32) (dot4 true true))
  | 1 => some (vmac3 (.int true 32) (dot4 false false))
  | 2 => some (vmac3 (.int true 32) (dot4 true false))
  | _ => none

end Sys2Proof.Machine
end

