-- ==== Sys2Proof/Machine/VDec.lean ====
section
/-! DEFINITION. Vector decimal instructions (R322, R326, R333 to R338): what each computes for one element. -/

namespace Sys2Proof.Machine

/-! ### Packed elements (R322, R369 to R371) -/

/-- The decimal digits of a packed type. -/
def ETy.digits : ETy → Nat
  | .p15 => p15Digits
  | .p31 => p31Digits
  | _ => w62Digits

/-- The type of a D type code. -/
def dty (t : BitVec 4) : Option ETy :=
  match t.toNat with
  | 10 => some .p15
  | 11 => some .p31
  | _ => none

/-- Has a sign nibble the meaning negative (Table 8.12)? -/
def signNeg (v : Nat) : Bool := v % 16 == 0xB || v % 16 == 0xD

/-- The value of a packed element; `none` for an invalid digit or sign code, or for W62 halves whose
    signs have opposite meaning (R322, R370). -/
def readDec (t : ETy) (v : Nat) : Option Int :=
  match t with
  | .p15 => decRead p15Digits v
  | .p31 => decRead p31Digits v
  | _ =>
    let lo := v % 2 ^ 128
    let hi := v / 2 ^ 128
    match decRead p31Digits lo, decRead p31Digits hi with
    | some x, some y => if signNeg lo = signNeg hi then some (x + y * 10 ^ p31Digits) else none
    | _, _ => none

/-- A packed element: sign 0xC, or 0xD below zero; both halves of a W62 carry it (R322). -/
def writeDec (t : ETy) (x : Int) : Nat :=
  match t with
  | .p15 => decWrite p15Digits x
  | .p31 => decWrite p31Digits x
  | _ =>
    let s := if x < 0 then 0xD else 0xC
    let m := x.natAbs
    16 * toDigits p31Digits (m % 10 ^ p31Digits) + s +
      (16 * toDigits p31Digits (m / 10 ^ p31Digits) + s) * 2 ^ 128

/-- DOVF, DDATA and DINX in VFLAGS (Table 6.12). -/
def decFlags (r : DRes) : BitVec 9 :=
  (if r.dovf then 0x40 else 0) ||| (if r.ddata then 0x80 else 0) ||| (if r.dinx then 0x100 else 0)

/-- An element with DDATA: zero with sign 0xC (R309, R326). -/
def decInvalid (t : ETy) : ERes := ⟨t.zero, 0x80⟩

/-- The decimal rounding mode of DCTL. -/
def drmOf (dctl : Word) : BitVec 3 := dctl.extractLsb' 8 3

/-- An exact value at a scale delivered to a packed destination (R326). -/
def deliverDec (t : ETy) (v : VEnv) (scale : Nat) (x : Int) : ERes :=
  let r := decDeliver (drmOf v.dctl) t.digits scale v.sd x
  ⟨writeDec t r.val, decFlags r⟩

/-- Two values at their scales brought to the greater one (R336). -/
def aligned (v : VEnv) (x y : Int) : Int × Int × Nat :=
  let m := max v.sa v.sb
  (x * 10 ^ (m - v.sa), y * 10 ^ (m - v.sb), m)

/-- An operation on two valid packed elements of type D, with a result type. -/
def vd2 (d : ETy → ETy) (t : BitVec 4) (f : ETy → VEnv → Int → Int → ERes) : Option VOp :=
  (dty t).map fun ty =>
    { pipe := 2, d := d ty, srcs := [ty, ty],
      kind := .elem fun v a b _ =>
        match readDec ty a, readDec ty b with
        | some x, some y => f (d ty) v x y
        | _, _ => decInvalid (d ty) }

/-- A comparison of type D (R336). -/
def vdcmp (t : BitVec 4) (f : Int → Int → Bool) : Option VOp :=
  vd2 (fun _ => .bit) t fun _ v x y =>
    let (a, b, _) := aligned v x y
    ⟨if f a b then 1 else 0, 0⟩

/-! ### Opcode 0x35 (Table 7.10) -/

/-- VDADD (R326). -/
def vdaddOp (t : BitVec 4) : Option VOp :=
  vd2 id t fun ty v x y =>
    let (a, b, m) := aligned v x y
    deliverDec ty v m (a + b)

/-- VDSUB (R326). -/
def vdsubOp (t : BitVec 4) : Option VOp :=
  vd2 id t fun ty v x y =>
    let (a, b, m) := aligned v x y
    deliverDec ty v m (a - b)

/-- VDMUL (R334): the exact product, delivered to W62. -/
def vdmulOp (t : BitVec 4) : Option VOp :=
  vd2 (fun _ => .w62) t fun ty v x y => deliverDec ty v (v.sa + v.sb) (x * y)

/-- The source type of VDRESCALE: D or W62. -/
def rescaleSrc (u : BitVec 4) : Option ETy := if u = 13 then some .w62 else dty u

/-- VDRESCALE (R335). -/
def vdrescaleOp (t u : BitVec 4) : Option VOp :=
  do
  let ty ← dty t
  let uy ← rescaleSrc u
  return { pipe := 2, d := ty, srcs := [uy],
           kind := .elem fun v a _ _ =>
             match readDec uy a with
             | some x => deliverDec ty v v.sa x
             | none => decInvalid ty }

/-- VDCMP.EQ (R336). -/
def vdcmpEqOp (t : BitVec 4) : Option VOp := vdcmp t fun a b => a == b

/-- VDCMP.LT (R336). -/
def vdcmpLtOp (t : BitVec 4) : Option VOp := vdcmp t fun a b => decide (a < b)

/-- VDCMP.LE (R336). -/
def vdcmpLeOp (t : BitVec 4) : Option VOp := vdcmp t fun a b => decide (a ≤ b)

/-! ### VDCVT (R337, Table 7.11) -/

/-- An integer, a count of units, to a packed type. -/
def vdFromInt (t u : BitVec 4) : Option VOp := do
  let ty ← dty t
  let (sg, w) ← cvtInt u
  return { pipe := 2, d := ty, srcs := [.int sg w],
           kind := .elem fun v a _ _ => deliverDec ty v 0 (elemInt sg w a) }

/-- A rounded integer in the range of a type; outside it saturates with DOVF. -/
def limitInt (sg : Bool) (w : Nat) (z : Int) (dinx : Bool) : ERes :=
  let r := saturate sg w z
  ⟨r, decFlags { val := z, dinx := dinx, dovf := elemInt sg w r != z }⟩

/-- A packed value to an integer, in the decimal rounding mode of DCTL. -/
def vdToInt (t u : BitVec 4) : Option VOp := do
  let (sg, w) ← cvtInt t
  let uy ← dty u
  return { pipe := 2, d := .int sg w, srcs := [uy],
           kind := .elem fun v a _ _ =>
             match readDec uy a with
             | some x =>
               let k := 10 ^ v.sa
               let (n, nx) := decRound (drmOf v.dctl) (decide (x < 0)) (x.natAbs / k)
                 (x.natAbs % k) k
               limitInt sg w (signed (decide (x < 0)) n) nx
             | none => ⟨0, 0x80⟩ }

/-- A quotient with 256 more bits, and a last bit for what is left: it rounds as the exact value. -/
def wideQuotient (num den : Nat) : Nat × Int :=
  let n := num * 2 ^ 256
  (2 * (n / den) + (if n % den = 0 then 0 else 1), -257)

/-- A packed value to a binary format, in the mode of FCTL.RM. -/
def vdToFloat (t u : BitVec 4) : Option VOp := do
  let (f, ty) ← fty t
  let uy ← dty u
  return { pipe := 2, d := ty, srcs := [uy],
           kind := .elem fun v a _ _ =>
             match readDec uy a with
             | some x =>
               if x = 0 then ⟨0, 0⟩
               else
                 let (m, e) := wideQuotient x.natAbs (10 ^ v.sa)
                 felem (fun c => f.round (rmOf c) (dnOf c) (decide (x < 0)) m e) v.fctl
             | none => ⟨0, 0x80⟩ }

/-- A finite binary value delivered to a packed destination. -/
def decOfFloat (ty : ETy) (v : VEnv) (neg : Bool) (m : Nat) (e : Int) : ERes :=
  let num := m * 10 ^ v.sd * 2 ^ e.toNat
  let den := 2 ^ (-e).toNat
  let (d, nx) := decRound (drmOf v.dctl) neg (num / den) (num % den) den
  let r := decLimit ty.digits neg d nx
  ⟨writeDec ty r.val, decFlags r⟩

/-- A binary value to a packed type, in the decimal rounding mode of DCTL; NaN and infinity set NV. -/
def vdFromFloat (t u : BitVec 4) : Option VOp := do
  let ty ← dty t
  let (f, uy) ← fty u
  return { pipe := 2, d := ty, srcs := [uy],
           kind := .elem fun v a _ _ =>
             match f.operand (dnOf v.fctl) a with
             | none => ⟨ty.zero, 0x20⟩
             | some (.fin neg m e) => decOfFloat ty v neg m e
             | some (.zero _) => ⟨ty.zero, 0⟩
             | some _ => ⟨ty.zero, 1⟩ }

/-- VDCVT (R337). -/
def vdcvtOp (t u : BitVec 4) : Option VOp :=
  vdFromInt t u <|> vdToInt t u <|> vdToFloat t u <|> vdFromFloat t u

/-! ### VDRSUM (R338) -/

/-- A value and DDATA of an element of a decimal sum: an invalid one contributes zero. -/
def sumTerm (ty : ETy) (a : Nat) : Int × BitVec 9 :=
  match readDec ty a with
  | some x => (x, 0)
  | none => (0, 0x80)

/-- The sum reduction of a type: the sum of sdA and the initial value, each at its own scale. -/
def decSum (ty : ETy) : VRed :=
  { start := fun _ b => ([0, (sumTerm ty b).1], (sumTerm ty b).2)
    step := fun _ acc a => ([acc.getD 0 0 + (sumTerm ty a).1, acc.getD 1 0], (sumTerm ty a).2)
    finish := fun v acc =>
      let (x, y, m) := aligned v (acc.getD 0 0) (acc.getD 1 0)
      deliverDec ty v m (x + y) }

/-- VDRSUM (R338). -/
def vdrsumOp (t : BitVec 4) : Option VOp :=
  (dty t).map fun ty => { pipe := 2, d := ty, srcs := [ty, ty], kind := .reduce (decSum ty) }

end Sys2Proof.Machine
end

