-- ==== Sys2Proof/Machine/VStep.lean ====
section
/-! DEFINITION. Vector division and square-root steps (R339 to R342, R377 to R381): what each instruction computes for one element. -/

namespace Sys2Proof.Machine

/-! ### Records (R323, R339) -/

/-- The word of bytes 0 to 7 of a record. -/
def recLo (n : Nat) : Word := BitVec.ofNat 64 n
/-- The word of bytes 8 to 15 of a record. -/
def recHi (n : Nat) : Word := BitVec.ofNat 64 (n / 2 ^ 64)
/-- A record of the scalar pair. -/
def recOf (p : Word × Word) : Nat := p.1.toNat + p.2.toNat * 2 ^ 64

/-- A step repeated `n` times. -/
def iter {α : Type} (f : α → α) : Nat → α → α
  | 0, x => x
  | n + 1, x => iter f n (f x)

/-- The count n of a STEP instruction (R339). -/
def stepCount (x : BitVec 4) : Nat := x.toNat + 1

/-- A binary operand as a step reads it, with DENORM (R210, R342). -/
def stepOperand (f : FFmt) (c : Word) (n : Nat) : FVal × BitVec 9 :=
  match f.operand (dnOf c) n with
  | some x => (x, 0)
  | none => ((f.operand false n).getD (.zero false), 0x20)

/-- A step operation: its source types and its element function. -/
def vstep (d : ETy) (srcs : List ETy) (usesB usesX : Bool) (f : VEnv → Nat → Nat → Nat → ERes) : VOp :=
  { pipe := 4, d := d, srcs := srcs, usesB := usesB, usesX := usesX, kind := .elem f }

/-! ### Binary division and square root (R377, R378) -/

/-- VFDSTART (R377). -/
def vfdstartOp (t : BitVec 2) : Option VOp :=
  (fty2 t).map fun p => vstep .record [p.2, p.2] true false fun v a b _ =>
    let (x, fx) := stepOperand p.1 v.fctl a
    let (_, fy) := stepOperand p.1 v.fctl b
    ⟨recOf (BitVec.ofNat 64 x.sig, 0), fx ||| fy⟩

/-- VFDSTEP (R377): n steps. -/
def vfdstepOp (x : BitVec 4) (t : BitVec 2) : Option VOp :=
  (fty2 t).map fun p => vstep .record [.record, p.2] true true fun v r b _ =>
    let (y, fy) := stepOperand p.1 v.fctl b
    ⟨recOf (iter (fun q => divStep y.sig q.1 q.2) (stepCount x) (recLo r, recHi r)), fy⟩

/-- VFDEND (R377). -/
def vfdendOp (t : BitVec 2) : Option VOp :=
  (fty2 t).map fun p => vstep p.2 [.record, p.2, p.2] true true fun v r a b =>
    felem (fun c => fop2 p.1 (dnOf c)
      (fun x y => p.1.divEnd (rmOf c) (dnOf c) x y (recLo r) (recHi r)) a b) v.fctl

/-- VFSSTART (R378). -/
def vfsstartOp (t : BitVec 2) : Option VOp :=
  (fty2 t).map fun p => vstep .record [p.2] false false fun v a _ _ =>
    let (x, fx) := stepOperand p.1 v.fctl a
    ⟨recOf (p.1.rootStart x, 0), fx⟩

/-- VFSSTEP (R378): n steps. -/
def vfsstepOp (x : BitVec 4) (t : BitVec 2) : Option VOp :=
  (fty2 t).map fun p => vstep .record [.record] false true fun _ r _ _ =>
    ⟨recOf (iter (fun q => p.1.rootStep q.1 q.2) (stepCount x) (recLo r, recHi r)), 0⟩

/-- VFSEND (R378). -/
def vfsendOp (t : BitVec 2) : Option VOp :=
  (fty2 t).map fun p => vstep p.2 [.record, p.2] true false fun v r a _ =>
    felem (fun c => fop1 p.1 (dnOf c)
      (fun x => p.1.rootEnd (rmOf c) (dnOf c) x (recLo r) (recHi r)) a) v.fctl

/-! ### Integer division (R200, R339) -/

/-- The signedness of the two-bit type field of the integer steps: 0 I64, 1 U64. -/
def sty2 (t : BitVec 2) : Option Bool :=
  match t.toNat with
  | 0 => some true
  | 1 => some false
  | _ => none

/-- The divisor as a step uses it: its magnitude for I64. -/
def divisorOf (sg : Bool) (b : Nat) : Word :=
  if sg then absW (BitVec.ofNat 64 b) else BitVec.ofNat 64 b

/-- The fix-up of an END: remainder and quotient. -/
def idend (sg : Bool) (r a b : Nat) : Word × Word :=
  dend sg (BitVec.ofNat 64 a) (BitVec.ofNat 64 b) (recLo r) (recHi r)

/-- VIDSTART (R339, R323). -/
def vidstartOp (t : BitVec 2) : Option VOp :=
  (sty2 t).map fun sg => vstep .record [.int sg 64] false false fun _ a _ _ =>
    ⟨recOf (0, divisorOf sg a), 0⟩

/-- VIDSTEP (R339): n steps. -/
def vidstepOp (x : BitVec 4) (t : BitVec 2) : Option VOp :=
  (sty2 t).map fun sg => vstep .record [.record, .int sg 64] true true fun _ r b _ =>
    ⟨recOf (iter (fun q => dstep (divisorOf sg b) q.1 q.2) (stepCount x) (recLo r, recHi r)), 0⟩

/-- VIDEND (R342): the quotient. -/
def videndOp (t : BitVec 2) : Option VOp :=
  (sty2 t).map fun sg =>
    vstep (.int sg 64) [.record, .int sg 64, .int sg 64] true true fun _ r a b =>
      ⟨(idend sg r a b).2.toNat, 0⟩

/-- VIDREM (R342): the remainder. -/
def vidremOp (t : BitVec 2) : Option VOp :=
  (sty2 t).map fun sg =>
    vstep (.int sg 64) [.record, .int sg 64, .int sg 64] true true fun _ r a b =>
      ⟨(idend sg r a b).1.toNat, 0⟩

/-! ### Decimal division (R379 to R381) -/

/-- A decimal step record (Table 8.15); Z as 31 nibbles. -/
structure DecRec where
  rem : Nat
  j : Nat
  kd : Nat
  g : Nat
  st : Bool
  z : Nat
  deriving DecidableEq, Repr

/-- The fields of a decimal step record. -/
def DecRec.ofNat (n : Nat) : DecRec :=
  { rem := n % 2 ^ 104, j := n / 2 ^ 104 % 64, kd := n / 2 ^ 110 % 64, g := n / 2 ^ 116 % 16,
    st := n / 2 ^ 120 % 2 == 1, z := n / 2 ^ 128 % 16 ^ 31 }

/-- A decimal step record as 32 bytes. -/
def DecRec.toNat (r : DecRec) : Nat :=
  r.rem + r.j * 2 ^ 104 + r.kd * 2 ^ 110 + r.g * 2 ^ 116 + (if r.st then 2 ^ 120 else 0) +
    r.z * 2 ^ 128

/-- VDDSTEP of R380: one digit. -/
def DecRec.step (b : Nat) (r : DecRec) : DecRec :=
  let top := r.z / 16 ^ 30
  let t := 10 * r.rem + (if r.j < 31 then top else 0)
  let q := if b = 0 then 9 else min 9 (t / b)
  let r1 := { r with rem := (t - q * b) % 2 ^ 104, j := min (r.j + 1) 63 }
  if r.j < 31 || top == 0 then { r1 with z := r.z % 16 ^ 30 * 16 + q }
  else
    { r1 with g := if r.kd = 0 then q else r.g, st := r.st || (r.kd != 0 && q != 0),
              kd := min (r.kd + 1) 63 }

/-- The result of VDDEND (R381) for a valid dividend and a divisor that is not zero: the kept digits
    and the discarded fraction, then rounding and overflow. -/
def DecRec.finish (r : DecRec) (v : VEnv) (a b : Int) : DRes :=
  let neg := decide (a < 0) != decide (b < 0)
  let z := digitsOf 31 r.z
  let e : Int := (v.sa : Int) - v.sb + ((r.j : Int) - 31) - r.kd - v.sd
  if e < 0 then decLimit p31Digits neg (z * 10 ^ (-e).toNat) false
  else
    let k := 10 ^ e.toNat
    let tail := if r.kd = 0 then (r.rem, b.natAbs)
      else (2 * r.g + (if r.st || r.rem != 0 then 1 else 0), 20)
    let (d, nx) := decRound (drmOf v.dctl) neg (z / k) (z % k * tail.2 + tail.1) (k * tail.2)
    decLimit p31Digits neg d nx

/-- The two-bit type field of the decimal steps: 0 P31. -/
def pty2 (t : BitVec 2) : Option Unit := if t = 0 then some () else none

/-- VDDSTART (R380): an invalid operand makes the record all zero. -/
def vddstartOp (t : BitVec 2) : Option VOp :=
  (pty2 t).map fun _ => vstep .record [.p31, .p31] true false fun _ a b _ =>
    match readDec .p31 a, readDec .p31 b with
    | some x, some _ => ⟨(DecRec.mk 0 0 0 0 false (toDigits 31 x.natAbs)).toNat, 0⟩
    | _, _ => ⟨0, 0x80⟩

/-- VDDSTEP (R380): n steps; an invalid divisor makes the record all zero. -/
def vddstepOp (x : BitVec 4) (t : BitVec 2) : Option VOp :=
  (pty2 t).map fun _ => vstep .record [.record, .p31] true true fun _ r b _ =>
    match readDec .p31 b with
    | some y => ⟨(iter (DecRec.step y.natAbs) (stepCount x) (DecRec.ofNat r)).toNat, 0⟩
    | none => ⟨0, 0x80⟩

/-- VDDEND (R381). -/
def vddendOp (t : BitVec 2) : Option VOp :=
  (pty2 t).map fun _ => vstep .p31 [.record, .p31, .p31] true true fun v r a b =>
    match readDec .p31 a, readDec .p31 b with
    | some x, some y =>
      if y = 0 then ⟨writeDec .p31 (signed (decide (x < 0)) (10 ^ p31Digits - 1)), 0x40⟩
      else
        let d := (DecRec.ofNat r).finish v x y
        ⟨writeDec .p31 d.val, decFlags d⟩
    | _, _ => decInvalid .p31

end Sys2Proof.Machine
end

