-- ==== Sys2Proof/Machine/VMove.lean ====
section
/-! DEFINITION. Vector moves, permutes and reductions (R343 to R347): what each instruction computes. -/

namespace Sys2Proof.Machine

/-! ### Moves (R343 to R345) -/

/-- VMOV (R344): bit for bit. -/
def vmovOp (t : BitVec 4) : Option VOp :=
  (tyOf t).map fun ty =>
    { pipe := 3, d := ty, srcs := [ty], usesB := false, kind := .elem fun _ a _ _ => ⟨a, 0⟩ }

/-- VIOTA (R344): the element index added. -/
def viotaOp (t : BitVec 4) : Option VOp :=
  (ity t).map fun p =>
    { pipe := 3, d := .int p.1 p.2, srcs := [.int p.1 p.2], usesB := false,
      kind := .elem fun v a _ _ => ⟨(a + v.i) % 2 ^ p.2, 0⟩ }

/-- VCOMPRESS and VEXPAND of any type but BIT. -/
def vpack (t : BitVec 4) (k : VKind) : Option VOp :=
  match tyOf t with
  | some .bit => none
  | some ty => some { pipe := 3, d := ty, srcs := [ty], usesB := false, kind := k }
  | none => none

/-- VCOMPRESS (R345). -/
def vcompressOp (t : BitVec 4) : Option VOp := vpack t .compress

/-- VEXPAND (R345). -/
def vexpandOp (t : BitVec 4) : Option VOp := vpack t .expand

/-! ### Reductions (R346, R347) -/

/-- A reduction whose result does not depend on the order of combination. -/
def foldRed (f : Nat → Nat → Nat) : VRed :=
  { start := fun _ b => ([(b : Int)], 0)
    step := fun _ acc a => ([(f (acc.headD 0).toNat a : Int)], 0)
    finish := fun _ acc => ⟨(acc.headD 0).toNat, 0⟩ }

/-- x ⊕ y of R347, where −1 stands for an empty lane: a value and its flags. -/
def laneOp (f : Nat → Nat → ERes) (x y : Int) : Int × BitVec 9 :=
  if x < 0 then (y, 0) else if y < 0 then (x, 0)
  else
    let r := f x.toNat y.toNat
    ((r.val : Int), r.flags)

/-- One fold of the lanes: the low half combined with the high half, in ascending order. -/
def foldHalf (f : Nat → Nat → ERes) (w : Nat) (ls : List Int) (fl : BitVec 9) : List Int × BitVec 9 :=
  let rs := (List.range w).map fun j => laneOp f (ls.getD j (-1)) (ls.getD (j + w) (-1))
  (rs.map Prod.fst, rs.foldl (fun a r => a ||| r.2) fl)

/-- The folds with w = 2^k / 2, …, 1. -/
def foldLanes (f : Nat → Nat → ERes) : Nat → List Int → BitVec 9 → List Int × BitVec 9
  | 0, ls, fl => (ls, fl)
  | k + 1, ls, fl =>
    let p := foldHalf f (2 ^ k) ls fl
    foldLanes f k p.1 p.2

/-- A reduction in the lanes of R347: `k` is 5 for F64 and 6 for F32; b stands after the lanes. -/
def laneRed (k : Nat) (op : Word → Nat → Nat → FRes) : VRed :=
  let f (v : VEnv) (a b : Nat) : ERes := felem (fun c => op c a b) v.fctl
  { start := fun _ b => (List.replicate (2 ^ k) (-1) ++ [(b : Int)], 0)
    step := fun v acc a =>
      let j := v.i % 2 ^ k
      let r := laneOp (f v) (acc.getD j (-1)) a
      (acc.set j r.1, r.2)
    finish := fun v acc =>
      let p := foldLanes (f v) k (acc.take (2 ^ k)) 0
      let r := laneOp (f v) (acc.getD (2 ^ k) 0) (p.1.headD (-1))
      ⟨r.1.toNat, p.2 ||| r.2⟩ }

/-- A reduction of type F. -/
def vfred (t : BitVec 4) (op : FFmt → Word → Nat → Nat → FRes) : Option VOp :=
  (fty t).map fun p =>
    { pipe := 3, d := p.2, srcs := [p.2, p.2],
      kind := .reduce (laneRed (if p.2 = .f64 then 5 else 6) (op p.1)) }

/-- A reduction of type N. -/
def vired (t : BitVec 4) (f : Bool → Nat → Nat → Nat → Nat) : Option VOp :=
  (ity t).map fun p =>
    { pipe := 3, d := .int p.1 p.2, srcs := [.int p.1 p.2, .int p.1 p.2],
      kind := .reduce (foldRed (f p.1 p.2)) }

/-- A bitwise reduction of type N or BIT. -/
def vbred (t : BitVec 4) (f : Nat → Nat → Nat) : Option VOp :=
  if t = 12 then some { pipe := 3, d := .bit, srcs := [.bit, .bit], kind := .reduce (foldRed f) }
  else vired t fun _ _ => f

/-- VRSUM (R347). -/
def vrsumOp (t : BitVec 4) : Option VOp := vfred t fadd <|> vired t fun _ w a b => (a + b) % 2 ^ w

/-- VRMIN (R346). -/
def vrminOp (t : BitVec 4) : Option VOp :=
  vfred t fmin <|> vired t fun sg w a b => if below sg w b a then b else a

/-- VRMAX (R346). -/
def vrmaxOp (t : BitVec 4) : Option VOp :=
  vfred t fmax <|> vired t fun sg w a b => if below sg w a b then b else a

/-- VRAND (R346). -/
def vrandOp (t : BitVec 4) : Option VOp := vbred t fun a b => a &&& b

/-- VRIOR (R346). -/
def vriorOp (t : BitVec 4) : Option VOp := vbred t fun a b => a ||| b

/-- VRXOR (R346). -/
def vrxorOp (t : BitVec 4) : Option VOp := vbred t fun a b => a ^^^ b

/-- VRPOPC (Table 7.14): the 1 elements of a BIT stream, added to b. -/
def vrpopcOp (t : BitVec 4) : Option VOp :=
  if t = 12 then
    some { pipe := 3, d := .int false 64, srcs := [.bit, .int false 64],
           kind := .reduce (foldRed fun acc a => (acc + a) % 2 ^ 64) }
  else none

end Sys2Proof.Machine
end

