-- ==== Sys2Proof/Machine/VDecode.lean ====
section
/-! DEFINITION. The decoding of streaming vector words (R314 to R319, Tables 7.1 to 7.14). -/

namespace Sys2Proof.Machine

/-- Major opcode of a word. -/
def opcodeOf (w : BitVec 32) : Nat := (w.extractLsb' 26 6).toNat

/-- Functions of opcode 0x31: types t and u. -/
def vops31 (fn : Nat) (t u : BitVec 4) : Option VOp :=
  match fn with
  | 0x00 => vfaddOp t
  | 0x01 => vfsubOp t
  | 0x02 => vfmulOp t
  | 0x03 => vfminOp t
  | 0x04 => vfmaxOp t
  | 0x05 => vfabsOp t
  | 0x06 => vfnegOp t
  | 0x07 => vfeqOp t
  | 0x08 => vfltOp t
  | 0x09 => vfleOp t
  | 0x0A => vfunOp t
  | 0x10 => vcvtOp t u
  | 0x11 => vcvtzOp t u
  | _ => none

/-- Functions of opcode 0x33: types t and u. -/
def vops33 (fn : Nat) (t u : BitVec 4) : Option VOp :=
  match fn with
  | 0x00 => vaddOp t
  | 0x01 => vsubOp t
  | 0x02 => vmulOp t
  | 0x03 => vmulhOp t
  | 0x04 => vandOp t
  | 0x05 => vorOp t
  | 0x06 => vxorOp t
  | 0x07 => vandnOp t
  | 0x08 => vshlOp t
  | 0x09 => vshrOp t
  | 0x0A => vminOp t
  | 0x0B => vmaxOp t
  | 0x0C => vceqOp t
  | 0x0D => vcltOp t
  | 0x0E => vaddsOp t
  | 0x0F => vsubsOp t
  | 0x10 => vpopcOp t
  | 0x11 => vclzOp t
  | 0x12 => vcvtiOp t u
  | _ => none

/-- Functions of opcode 0x35: types t and u. -/
def vops35 (fn : Nat) (t u : BitVec 4) : Option VOp :=
  match fn with
  | 0x00 => vdaddOp t
  | 0x01 => vdsubOp t
  | 0x02 => vdmulOp t
  | 0x03 => vdrescaleOp t u
  | 0x04 => vdcmpEqOp t
  | 0x05 => vdcmpLtOp t
  | 0x06 => vdcmpLeOp t
  | 0x08 => vdcvtOp t u
  | 0x0C => vdrsumOp t
  | _ => none

/-- Functions of opcode 0x37: types t and u. -/
def vops37 (fn : Nat) (t _ : BitVec 4) : Option VOp :=
  match fn with
  | 0x00 => vmovOp t
  | 0x01 => viotaOp t
  | 0x02 => vcompressOp t
  | 0x03 => vexpandOp t
  | 0x10 => vrsumOp t
  | 0x11 => vrminOp t
  | 0x12 => vrmaxOp t
  | 0x13 => vrandOp t
  | 0x14 => vriorOp t
  | 0x15 => vrxorOp t
  | 0x16 => vrpopcOp t
  | _ => none

/-- Functions of opcode 0x32: the two-bit type and the field of sdC or the step count. -/
def vops32 (fn : Nat) (_ : BitVec 4) (t : BitVec 2) : Option VOp :=
  match fn with
  | 0 => vfmaOp t
  | 1 => vfmsOp t
  | 2 => vfnmaOp t
  | 3 => vfnmsOp t
  | _ => none

/-- Functions of opcode 0x34: the two-bit type and the field of sdC or the step count. -/
def vops34 (fn : Nat) (_ : BitVec 4) (t : BitVec 2) : Option VOp :=
  match fn with
  | 0 => vmacOp t
  | 1 => vdot4Op t
  | _ => none

/-- Functions of opcode 0x36: the two-bit type and the field of sdC or the step count. -/
def vops36 (fn : Nat) (x : BitVec 4) (t : BitVec 2) : Option VOp :=
  match fn with
  | 0 => vfdstartOp t
  | 1 => vfdstepOp x t
  | 2 => vfdendOp t
  | 3 => vfsstartOp t
  | 4 => vfsstepOp x t
  | 5 => vfsendOp t
  | 6 => vidstartOp t
  | 7 => vidstepOp x t
  | 8 => videndOp t
  | 9 => vidremOp t
  | 10 => vddstartOp t
  | 11 => vddstepOp x t
  | 12 => vddendOp t
  | _ => none

/-- The operation a streaming word spells; `none` for a reserved encoding (R317). -/
def vopOfWord (w : BitVec 32) : Option VOp :=
  let t := w.extractLsb' 6 4
  let u := w.extractLsb' 10 4
  let fn := (w.extractLsb' 0 6).toNat
  let fn4 := (w.extractLsb' 2 4).toNat
  let t2 := w.extractLsb' 0 2
  match opcodeOf w with
  | 0x31 => vops31 fn t u
  | 0x33 => vops33 fn t u
  | 0x35 => vops35 fn t u
  | 0x37 => vops37 fn t u
  | 0x32 => vops32 fn4 t t2
  | 0x34 => vops34 fn4 t t2
  | 0x36 => vops36 fn4 t t2
  | _ => none

/-- Is the word of VT format? -/
def isVT (w : BitVec 32) : Bool := opcodeOf w == 0x32 || opcodeOf w == 0x34 || opcodeOf w == 0x36

/-- Does a field that the operation does not use hold a value (R315)? -/
def unusedField (w : BitVec 32) (o : VOp) : Bool :=
  (!o.usesB && w.extractLsb' 10 4 != 0) || (isVT w && !o.usesX && w.extractLsb' 6 4 != 0)

/-- Is the word in the vector opcode space (0x30 to 0x3E)? -/
def isVectorOpcode (w : BitVec 32) : Bool := decide (0x30 ≤ opcodeOf w ∧ opcodeOf w ≤ 0x3E)

/-- Is a word of opcode 0x30 a control instruction that the table assigns (R317, R349)? -/
def vectorControl (w : BitVec 32) : Bool :=
  let sub := (w.extractLsb' 21 4).toNat
  decide (sub < 4) && !(sub == 0 && w.extractLsb' 0 3 == 7)

/-- Is a word a vector reserved encoding (R317)? -/
def vectorReserved (w : BitVec 32) : Bool :=
  isVectorOpcode w && (if opcodeOf w = 0x30 then !vectorControl w else (vopOfWord w).isNone)

end Sys2Proof.Machine
end

