-- ==== Sys2Proof/Machine/VCommit.lean ====
section
/-! DEFINITION. The commit of streaming vector instructions and chained groups (R270, R271, R285,
R290 to R292, R318). -/

namespace Sys2Proof.Machine

/-! ### Checks at commit (R292, R318) -/

/-- Is an output of an engine wired (R392, R393)?  A partner engine has its twin's wires (R411). -/
def outWired (s : State) (e n : Nat) : Bool :=
  match lengOf s e with
  | none => false
  | some l =>
    match wireOf s (mirrorOf s l) n with
    | some (.queue d _ _) => (engOf s d).isSome
    | some (.tunnel _) => true
    | none => false

/-- The first member that uses the pipe of a member before it; `used` are the pipes before. -/
def samePipe : List Nat → List (BitVec 32) → Option (BitVec 32)
  | _, [] => none
  | used, w :: ws =>
    match vopOfWord w with
    | some o => if used.contains o.pipe then some w else samePipe (o.pipe :: used) ws
    | none => samePipe used ws

/-- The group rules of R292, and LOOPEND for a member with C = 1 at the end of the innermost loop. -/
def groupRules (x : Engine) (pend : List (BitVec 32 × Word)) (w : BitVec 32) : EM Unit := do
  if vC w then raise (illegalEv w 0)
  match samePipe [] (pend.map Prod.fst) with
  | some v => raise (illegalEv v 0)
  | none => pure ()
  match pend.find? fun p => vC p.1 && atLoopEnd x.loops p.2 with
  | some p => raise { code := 0x0C, faddr := p.2 }
  | none => pure ()

/-- The members of a group as they stand, with their operations. -/
def captureGroup (x : Engine) (pend : List (BitVec 32 × Word)) : List (VMember × VOp) :=
  pend.filterMap fun p => (vopOfWord p.1).map fun o => (captureMember x p.1 p.2 o, o)

/-- What the checks of Tables 6.5 and 7.16 know on an engine. -/
def groupEnv (s : State) (e : Nat) : GroupEnv :=
  let v := (s.eng e).vec
  { vl := v.vl.toNat, g := 2 ^ v.gs.toNat, wired := outWired s e }

/-! ### The vector issue queue (Table 3.6, R152, R181) -/

/-- Instructions that wait in the vector issue queue: those of every group behind the head. -/
def queued (x : Engine) : Nat := ((x.vec.q.drop 1).map fun g => g.members.length).sum

/-- A vector instruction commits: an idle count starts afresh, and a VSU that is not on is woken, while which
    no later instruction commits (R180, R181). -/
def wakeVsu (v : VsuRegs) : VsuRegs :=
  match v.st with
  | .gated => { v with idle := 0, st := .waking, wakes := satInc v.wakes, stall := true }
  | .gating => { v with idle := 0, wakeReq := true, stall := true,
                        wakes := if v.wakeReq then v.wakes else satInc v.wakes }
  | _ => { v with idle := 0 }

/-- The counters for the members of a group before its last, which commit with it (R291). -/
def countMembers (n : Nat) (k : Vector Word 8) : Vector Word 8 :=
  (k.set 1 (k[1] + BitVec.ofNat 64 n)).set 3 (k[3] + BitVec.ofNat 64 n)

/-- A group commits (R270, R271): it captures VL, VPROG, VCFG, FCTL, DCTL, the mode and the ring, and
    VPROG becomes 0.  A VPROG that shows the stop point of a stopped group is no start element
    (log entry 30). -/
def commitGroup (ms : List (VMember × VOp)) (last : Word) (x : Engine) : Engine :=
  let v := x.vec
  let first := if v.stopped then 0 else v.vprog.toNat
  let g : VGroup :=
    { members := ms.map Prod.fst, strip := stripLen ms, vl := v.vl.toNat, gs := v.gs, fctl := x.fctl, dctl := x.dctl,
      mode := x.mode,
      ring := x.rights, start := first, prog := first, first := first }
  { x with
    pc := if x.vec.gpend.isEmpty then x.pc else last
    vec := { v with q := v.q ++ [g], gpend := [], vprog := if v.stopped then v.vprog else 0 }
    vsu := wakeVsu x.vsu
    count := countMembers v.gpend.length x.count }

/-- Does a frozen chain keep vector groups of an engine from committing (R555): its every local member
    is marked? -/
def commitHeld (s : State) (e : Nat) : Bool :=
  match (lengOf s e).bind (chainOf s) with
  | none => false
  | some c => (chainSt s c).frozen && (membersOf s c).all fun n => n ∈ (chainSt s c).marked

/-- The work of a streaming instruction: a member with C = 1 opens or continues a group; the last
    member commits it. -/
def streamRun (e : Nat) (w : BitVec 32) : EM Flow := do
  let x ← engM e
  let pend := x.vec.gpend ++ [(w, instPc x)]
  if vC w && x.slot.isNone && decide (pend.length < 4) then
    updE e fun x => { x with vec := { x.vec with gpend := pend }, vsu := { x.vsu with idle := 0 } }
    return .next
  if x.trap.vheld then raise (illegalEv ((pend.headD (w, 0)).1) 1)
  groupRules x pend w
  let ms := captureGroup x pend
  match groupFault (groupEnv (← get) e) none 0 0 [] ms with
  | some v => raise (illegalEv v 0)
  | none => pure ()
  if !x.vec.q.isEmpty && decide (8 < queued x + pend.length) then hold
  if commitHeld (← get) e then hold
  updE e (commitGroup ms (instPc x))
  return .next

/-- A streaming instruction: its decode faults and its work (R315, R317). -/
def streamInst (e : Nat) (w : BitVec 32) : Inst :=
  { word := w
    reserved := if (vopOfWord w).isNone then some 3 else none
    illegal := match vopOfWord w with
      | some o => unusedField w o
      | none => false
    streaming := true
    vector := true
    run := streamRun e w }

end Sys2Proof.Machine
end

