-- ==== Sys2Proof/Machine/Stream.lean ====
section
/-! DEFINITION. The elements of streams (R274 to R284, R294 to R303): where they lie, how they are
read, and how they are written. -/

namespace Sys2Proof.Machine

/-! ### Faults of a stream (R302) -/

/-- An event of an access of a descriptor: EC_CAUSE.SD names it, and EC_FADDR is the first byte of the
    element or of its part. -/
def ofStream {α : Type} (sd : BitVec 4) (high : Bool) (va : Word) (m : EM α) : EM α :=
  tryCatch m fun st =>
    match st with
    | .ev x => throw (.ev { x with sd := sd, high := high, faddr := va })
    | .wait => throw .wait

/-! ### Places of elements (R275 to R277) -/

/-- The group at the head of an engine's queue. -/
def headGroup (e : Nat) : EM VGroup := do
  match (← engM e).vec.q with
  | g :: _ => return g
  | [] => hold

/-- The translation of a port's page: its current page, or a fresh translation that becomes the
    current page (R86, R98). -/
def streamPage (e port : Nat) (ring : BitVec 2) (k : Acc) (need : Need) (va : Word) : EM Word := do
  let g ← headGroup e
  let page := va.toNat / 2 ^ 18
  match g.pages.find? fun r => r.port == port && r.page == page with
  | some r => if permOk r.entry ring need then return r.entry else raise (xlateEv k 5 va)
  | none =>
    let ent ← translate e ring k need va
    updE e (modHead fun g => { g with
      pages := { port := port, page := page, entry := ent } :: g.pages.filter fun r => r.port ≠ port })
    return ent

/-- The place of a part of a stream element (R276), and whether it lies in an NS page or a sibling window,
    where an element is read once (R301).  The window of a position without a logical engine is a bus error
    (R144), before its sanctuary. -/
def streamPlace (e port : Nat) (ring : BitVec 2) (k : Acc) (need : Need) (va : Word) (n : Nat) :
    EM (Place × Bool) := do
  match regionOf va with
  | .job =>
    let ent ← streamPage e port ring k need va
    return (placeOf (← get) ent va, entNs ent)
  | .own off =>
    if inSanctuary off n then raise (ringEv k va)
    return (.tile (e * 2 ^ 18 + off), false)
  | .sibling p off =>
    if (logicalOf ((← get).sqr (e / 9)) p).isNone then raise (busEv k va)
    if inSanctuary off n then raise (ringEv k va)
    return (.tile ((e / 9 * 9 + p) * 2 ^ 18 + off), true)
  | _ => raise (windowEv k ring need va)

/-- The parts of an element's bytes: one, or two where it crosses a page boundary (R277). -/
def pageParts (va : Word) (n : Nat) : List (Word × Nat × Bool) :=
  let r := 2 ^ 18 - va.toNat % 2 ^ 18
  if n ≤ r then [(va, n, false)]
  else [(va, r, false), (ea48 (va + BitVec.ofNat 64 r), n - r, true)]

/-- Bytes of an element inside one sector: the address of its part, whether that is the high part,
    its own address, its place, its length, and whether it is read once (R301). -/
structure Piece where
  part : Word
  high : Bool
  at_ : Word
  place : Place
  n : Nat
  once : Bool
  deriving DecidableEq, Repr

/-- A place some bytes further on. -/
def Place.shift (p : Place) (n : Nat) : Place :=
  match p with
  | .hbm pa => .hbm (pa + n)
  | .tile key => .tile (key + n)
  | .host a => .host (a + n)
  | .remote node pa => .remote node (pa + n)

/-- A part cut at sector boundaries; `fuel` bounds the pieces. -/
def cutSectors (part : Word) (high once : Bool) : Nat → Word → Place → Nat → List Piece
  | 0, _, _, _ => []
  | fuel + 1, va, p, n =>
    if n = 0 then []
    else
      let m := min n (64 - p.addr % 64)
      { part := part, high := high, at_ := va, place := p, n := m, once := once } ::
        cutSectors part high once fuel (va + BitVec.ofNat 64 m) (p.shift m) (n - m)

/-- The pieces of an element's bytes: every part passes its checks first (R277). -/
def elementPieces (e port : Nat) (ring : BitVec 2) (k : Acc) (need : Need) (sd : BitVec 4) (va : Word)
    (n : Nat) : EM (List Piece) := do
  let ps ← (pageParts va n).mapM fun q => do
    let (p, once) ← ofStream sd q.2.2 q.1 (streamPlace e port ring k need q.1 q.2.1)
    return cutSectors q.1 q.2.2 once 2 q.1 p q.2.1
  return ps.flatten

/-- The address of element `i` of a memory operand, `x` the index element of a GATHER or SCATTER
    (R275). -/
def elementAddr (d : VDesc) (t : ETy) (i : Nat) (x : Nat) : Word :=
  let z := t.bytes
  let off : Word := match d.form with
    | .unit => if t = .bit then BitVec.ofNat 64 (i / 8) else BitVec.ofNat 64 (i * z)
    | .struct => BitVec.ofNat 64 ((i * (d.nf + 1) + d.fieldNo) * z)
    | _ =>
      let ix : Word := if d.isgn && d.iw == 32 then (BitVec.ofNat 32 x).signExtend 64
        else BitVec.ofNat 64 x
      ix <<< d.scale
  ea48 (d.base + off)

/-! ### Old and new values (R298) -/

/-- The number of a byte of memory in a group's list of bytes it has written. -/
def undoKey : Place → Option Nat
  | .hbm pa => some pa
  | .tile key => some (2 ^ 40 + key)
  | _ => none

/-- The number of a byte of the staging registers in that list. -/
def regKey (byte : Nat) : Nat := 2 ^ 61 + byte

/-- A source byte that the group itself has written reads as the old or as the new value. -/
def mixByte (u : SMap Byte) (key : Nat) (b : Byte) : EM Byte := do
  match u.find? fun p => p.1 == key with
  | none => return b
  | some (_, old) =>
    let f ← fresh
    return if Config.freeBool f then old else b

/-- Bytes from a key, each old or new. -/
def mixBytes (u : SMap Byte) : Nat → List Byte → EM (List Byte)
  | _, [] => return []
  | key, b :: bs => do return (← mixByte u key b) :: (← mixBytes u (key + 1) bs)

/-- The bytes of a list of keys recorded with their values before the group, once each. -/
def recordUndo : SMap Byte → Nat → List Byte → SMap Byte
  | u, _, [] => u
  | u, key, b :: bs => recordUndo (if u.has key then u else u.put key b) (key + 1) bs

/-! ### Reading elements -/

/-- The result of a member for an element, as the next member's LINK takes it: its value, its type, and whether
    the element was active. -/
structure Link where
  val : Nat
  ty : ETy
  active : Bool

/-- What every access of an element needs: the engine, the ring of the group, the member's position, the result
    of the previous member for LINK, and whether a write stream may write a failing sector whole (R123). -/
structure VCtx where
  e : Nat
  ring : BitVec 2
  pos : Nat
  prev : Option Link
  fill : Bool := true

/-- A read of an NS page or a sibling window, kept until its element has committed: what waits in between does
    not read it again, and an answer with an error is the element's fault (R301, R302). -/
def readOnce (e : Nat) (p : Piece) : EM (List Byte) := do
  let off := p.place.addr % 64
  let key := respKey p.at_ (maskOf off p.n)
  match (← engM e).vec.resp.find? fun q => q.1 == key with
  | some (_, r) =>
    if r.status = 0 then return lineBytes r.data off p.n else raise (respEv .sread p.at_ r.status)
  | none =>
    let bs ← directBytes e .sread p.at_ p.place p.n
    updE e fun x => { x with vec := { x.vec with resp := x.vec.resp.put key ⟨0, lineWrite 0 off bs⟩ } }
    return bs

/-- Is a place in the memory of the host or of a remote device? -/
def Place.far : Place → Bool
  | .host _ | .remote _ _ => true
  | _ => false

/-- The sector of a host or remote place that a UNIT stream reads with one request, the bytes from `lo` up to `hi`
    of its engine addresses (R545): it serves the stream's elements there. -/
def readSpan (e port lo hi : Nat) (p : Piece) : EM (List Byte) := do
  let off := p.place.addr % 64
  let g ← headGroup e
  match g.lines.find? fun q => q.1 == port && q.2.1 == lineKey p.place with
  | some (_, _, w) => return lineBytes w off p.n
  | none =>
    let a := p.at_.toNat - off
    let from_ := max (min lo p.at_.toNat) a - a
    let w ← farLine e .sread p.at_ p.place (maskOf from_ (min (max hi (p.at_.toNat + p.n)) (a + 64) - a - from_))
    updE e (modHead fun g => { g with lines := g.lines.put port (lineKey p.place, w) })
    return lineBytes w off p.n

/-- The bytes of a piece, read at its memory; `span` are the addresses that its stream reads from end to end. -/
def pieceBytes (e port : Nat) (span : Option (Nat × Nat)) (p : Piece) : EM (List Byte) :=
  if p.once then readOnce e p
  else
    match p.place.far, span with
    | true, some (lo, hi) => readSpan e port lo hi p
    | _, _ => directBytes e .sread p.at_ p.place p.n

/-- The bytes of an element's pieces. -/
def readPieces (e port : Nat) (span : Option (Nat × Nat)) (sd : BitVec 4) (u : SMap Byte) :
    List Piece → EM (List Byte)
  | [] => return []
  | p :: ps => do
    let bs ← ofStream sd p.high p.part (pieceBytes e port span p)
    let bs ← match undoKey p.place with
      | some key => mixBytes u key bs
      | none => pure bs
    return bs ++ (← readPieces e port span sd u ps)

/-- The addresses that a stream reads from end to end: those of a UNIT stream whose every element is read.  A
    masked member reads the sources of its active elements alone (R295), and the initial value of a reduction is
    one element. -/
def unitSpan (g : VGroup) (pos port : Nat) (d : VDesc) (t : ETy) : Option (Nat × Nat) :=
  match g.members.drop pos with
  | [] => none
  | m :: _ =>
    let reduces := match (vopOfWord m.word).map VOp.kind with
      | some (.reduce _) => true
      | _ => false
    let whole := (port == 0 || decide (4 ≤ port) || vM m.word == 0) &&
      !(reduces && (port == 2 || port == 5 || port == 8))
    if d.form == .unit && whole then
      let b := d.base.toNat
      if t = .bit then some (b + g.start / 8, b + (g.vl + 7) / 8)
      else some (b + g.start * t.bytes, b + g.vl * t.bytes)
    else none

/-- Element `i` of a memory source. -/
def readMemory (c : VCtx) (port : Nat) (d : VDesc) (t : ETy) (i x : Nat) : EM Nat := do
  let n := if t = .bit then 1 else t.bytes
  let key := 16 * c.pos + port
  let ps ← elementPieces c.e key c.ring .sread .r d.sd (elementAddr d t i x) n
  let g ← headGroup c.e
  let v := leNat (← readPieces c.e key (unitSpan g c.pos port d t) d.sd g.undo ps)
  return if t = .bit then v / 2 ^ (i % 8) % 2 else v

/-- The staging registers of a group as bytes from a byte offset of v0. -/
def regBytes (x : Engine) (byte n : Nat) : List Byte :=
  (List.range n).map fun k =>
    (x.vec.v.toList.getD ((byte + k) / 1024) 0).extractLsb' (8 * ((byte + k) % 1024)) 8

/-- Element `i` of a REG source (R282). -/
def readStaging (c : VCtx) (d : VDesc) (t : ETy) (i : Nat) : EM Nat := do
  let bit := d.grp * 8192 + i * t.bits
  let n := if t = .bit then 1 else t.bytes
  let bs ← mixBytes (← headGroup c.e).undo (regKey (bit / 8)) (regBytes (← engM c.e) (bit / 8) n)
  let v := leNat bs
  return if t = .bit then v / 2 ^ (bit % 8) % 2 else v

/-- A SCALAR source (R283). -/
def scalarValue (o : VOperand) (t : ETy) : Nat :=
  match t with
  | .p31 => o.lo.toNat + o.hi.toNat * 2 ^ 64
  | t => o.lo.toNat % 2 ^ t.bits

/-- A LINK source (R284): the previous member's result, zero for an element inactive there (R296); in another
    width, a value the spec does not give. -/
def linkValue (c : VCtx) (t : ETy) : EM Nat := do
  match c.prev with
  | none => return 0
  | some l =>
    if l.ty.bits = t.bits then return l.val
    else if !l.active then return t.zero
    else
      let f ← fresh
      return (Config.freeNat f) % 2 ^ t.bits

/-- The group waits on an empty source queue or a full output: there it may stop (R306). -/
def starve {α : Type} (e : Nat) : EM α := do
  updE e fun x => { x with vec := { x.vec with starved := true } }
  hold

/-- The next element of a queue source (R281, R386 to R389). -/
def readQueue (c : VCtx) (d : VDesc) (t : ETy) : EM Nat := do
  let s ← get
  match (lengOf s c.e).bind fun l => threshOf s l d.cq with
  | none => starve c.e
  | some th =>
    let x := s.eng c.e
    match (x.cq.toList.getD d.cq {}).peek th t.bits with
    | .wait => starve c.e
    | .bad =>
      upd (detectChip 7 0 0 0)
      raise { code := 0x0B, acc := 5, sd := d.sd, faddr := 0 }
    | .got bits q =>
      updE c.e fun x => { x with cq := x.cq.setIfInBounds d.cq q }
      return natOfBits bits

/-- Element `i` of a source stream; `x` is the index element of a GATHER. -/
def readStream (c : VCtx) (port : Nat) (o : VOperand) (t : ETy) (i x : Nat) : EM Nat :=
  match o.desc.form with
  | .queue => readQueue c o.desc t
  | .reg => readStaging c o.desc t i
  | .scalar => pure (scalarValue o t)
  | .link => linkValue c t
  | _ => readMemory c port o.desc t i x

/-- Element `i` of the index stream of a GATHER or SCATTER (R279); 0 where there is none. -/
def readIndex (c : VCtx) (port : Nat) (o : VOperand) (i : Nat) : EM Nat :=
  if o.desc.form.indexed then readStream c port { desc := o.idx } (.int false o.desc.iw) i 0
  else pure 0

/-- Is element `i` active (R294)? -/
def readMask (c : VCtx) (m : VMember) (i : Nat) : EM Bool := do
  if vM m.word = 0 then return true
  let b ← readStream c 0 { desc := m.mask } .bit i 0
  return (b == 1) != m.mcfg.getLsbD 6

/-- The stream of a source delivers an element that no work uses (R295): a queue gives it up. -/
def skipSource (c : VCtx) (port : Nat) (o : VOperand) (t : ETy) (i : Nat) : EM Unit := do
  let _ ← readIndex c (port + 3) o i
  if o.desc.form = .queue then
    let _ ← readQueue c o.desc t

/-! ### Writing elements -/

/-- What a member writes for one element.  `old` is the byte of a BIT element as its merge read found it in the
    memory of the host or of a remote device (R296). -/
inductive Dest
  | none
  | memory (va : Word) (ps : List (Piece × Bool)) (bs : List Byte)
  | bit (va : Word) (p : Piece) (k : Nat) (v : Bool) (old : Byte)
  | reg (bit w v : Nat)
  | queue (out : Nat) (bits : List Bool) (last : Bool)
  deriving DecidableEq, Repr

/-- Does a member write every element of a UNIT destination: it has no mask, or writes zeros (R296)? -/
def VMember.unitWrite (m : VMember) : Bool :=
  m.d.desc.form == .unit && (vM m.word == 0 || m.mcfg.getLsbD 7)

/-- Does a UNIT write stream write every byte of a piece's HBM sector (R74, R442)?  Then the sector needs no
    merge. -/
def covers (g : VGroup) (m : VMember) (t : ETy) (p : Piece) : Bool :=
  let z := t.bytes
  let a := p.at_.toNat / 64 * 64
  m.unitWrite && t != .bit &&
    decide (m.d.desc.base.toNat + g.start * z ≤ a ∧ a + 64 ≤ m.d.desc.base.toNat + g.vl * z)

/-- Would a merge read of an HBM sector meet an error stored in it? -/
def sectorFlawed (s : State) (pa : Nat) : Bool :=
  !unreachable s.hub pa && (s.poison.contains (pa / 64) || (flawedSectors s.flaws).contains (pa / 64))

/-- Is a piece written without a merge: its stream covers the sector, or, over an error, may yet write every
    byte of it (R123, R442)?  On a paired square only the first (log entry 65). -/
def noMerge (c : VCtx) (g : VGroup) (m : VMember) (t : ETy) (packed : Bool) (p : Piece) (s : State) : Bool :=
  let unit := !packed && m.unitWrite
  let cov := unit && covers g m t p
  match p.place with
  | .hbm pa =>
    if sectorFlawed s pa || g.fill.has (pa / 64) then
      c.fill && (cov || (!unit && (twinOf s c.e).isNone))
    else cov
  | _ => false

/-- The merge read of a piece of a write, where one is needed (Table 2.7). -/
def probePiece (sd : BitVec 4) (covered : Bool) (p : Piece) (bs : List Byte) : EM Unit :=
  ofStream sd p.high p.part do
    match p.place, covered with
    | .hbm pa, true => if unreachable (← get).hub pa then raise (ueEv .swrite p.at_)
    | _, _ => probeTarget .swrite p.at_ p.place (enabled bs)

/-- The bytes of an element, piece by piece. -/
def probePieces (sd : BitVec 4) : List (Piece × Bool) → List Byte → EM Unit
  | [], _ => return ()
  | (p, cov) :: ps, bs => do
    probePiece sd cov p (bs.take p.n)
    probePieces sd ps (bs.drop p.n)

/-- The number of a byte of host or remote memory in a group's list of BIT bytes. -/
def farKey (p : Place) : Nat := lineKey p * 64 + p.addr % 64

/-- The merge read of a BIT element in the memory of the host or of a remote device (R296; log entry 18), done by
    the engine that writes.  A byte that the group has written before is known. -/
def mergeRead (c : VCtx) (g : VGroup) (sd : BitVec 4) (p : Piece) : EM Byte := do
  if !p.place.far || isPartner (← get) (c.e / 9) then return 0
  match g.bits.find? fun q => q.1 == farKey p.place with
  | some (_, b) => return b
  | none =>
    let off := p.place.addr % 64
    let w ← ofStream sd p.high p.part (farLine c.e .swrite p.at_ p.place (maskOf off 1))
    return w.extractLsb' (8 * off) 8

/-- The write of element `i` of a memory destination, checked but not performed. -/
def planMemory (c : VCtx) (g : VGroup) (m : VMember) (t : ETy) (i x v : Nat) (packed : Bool) :
    EM Dest := do
  let d := m.d.desc
  let va := elementAddr d t i x
  let n := if t = .bit then 1 else t.bytes
  let ps ← elementPieces c.e (16 * c.pos + 7) c.ring .swrite .w d.sd va n
  if t = .bit then
    match ps with
    | p :: _ =>
      match p.place with
      | .tile key =>
        let bad ← liftP (probeTile key 1)
        if bad then ofStream d.sd false va (raise (ueEv .swrite va))
      | _ => probePiece d.sd false p [0]
      return .bit va p (i % 8) (v % 2 == 1) (← mergeRead c g d.sd p)
    | [] => return .none
  else
    let bs := leBytes n v
    let s ← get
    let ps := ps.map fun p => (p, noMerge c g m t packed p s)
    probePieces d.sd ps bs
    return .memory va ps bs

/-- Does the partner engine leave a queue write at a pair exit to its twin (R412)? -/
def exitOf (s : State) (e out : Nat) : Bool :=
  match lengOf s e with
  | some l => pairExit s l out
  | none => false

/-- The write of a result as element `i` of a destination, checked but not performed.  An output
    whose buffer waits stalls the group (R385). -/
def planDest (c : VCtx) (g : VGroup) (m : VMember) (t : ETy) (i x v : Nat) (packed last : Bool) :
    EM Dest := do
  match m.d.desc.form with
  | .link => return .none
  | .reg => return .reg (m.d.desc.grp * 8192 + i * t.bits) t.bits v
  | .queue =>
    let s ← get
    let out := m.d.desc.cq
    let mine := !(exitOf s c.e out && isPartner s (c.e / 9))
    if mine && (((s.eng c.e).outs.toList.getD out {}).waiting).isSome then starve c.e
    return .queue out (bitsOfNat t.bits v) last
  | _ => planMemory c g m t i x v packed

/-- The bytes of a piece in local memory as they stand. -/
def placeBytes (s : State) (p : Place) (n : Nat) : List Byte :=
  match p with
  | .hbm pa => s.hbm.bytes pa n
  | .tile key => s.tile.bytes key n
  | _ => []

/-- Bytes about to be written recorded with their old values (R298). -/
def noteUndo (e : Nat) (p : Place) (n : Nat) (s : State) : State :=
  match undoKey p with
  | some key =>
    let bs := placeBytes s p n
    s.modEng e (modHead fun g => { g with undo := recordUndo g.undo key bs })
  | none => s

/-- A sector of HBM that has been written whole: poison and errors are gone (R121, R123). -/
def sectorWhole (sec : Nat) (s : State) : State :=
  { s with poison := s.poison.filter (· ≠ sec), flaws := { s.flaws with hbm := s.flaws.hbm.del sec } }

/-- A piece written without a merge over a sector with an error counts toward that sector. -/
def fillSector (e : Nat) (p : Piece) (s : State) : State :=
  match p.place, (s.eng e).vec.q with
  | .hbm pa, g :: _ =>
    let sec := pa / 64
    if sectorFlawed s pa || g.fill.has sec then
      s.modEng e (modHead fun g => { g with
        fill := g.fill.put sec (SMap.get 0 g.fill sec ||| maskOf (pa % 64) p.n) })
    else s
  | _, _ => s

/-- Has a group written every byte of every sector that it writes over an error? -/
def VGroup.filled (g : VGroup) : Bool := g.fill.all fun p => p.2 == BitVec.allOnes 64

/-- Those sectors are whole; `healed` remembers the ones that were poisoned or uncorrectable. -/
def finishFill (e : Nat) (s : State) : State :=
  match (s.eng e).vec.q with
  | [] => s
  | g :: _ =>
    let secs := g.fill.map Prod.fst
    let bad := secs.filter fun k => s.poison.contains k || s.flaws.hbmUe.contains k
    secs.foldl (fun s k => sectorWhole k s)
      (s.modEng e (modHead fun g => { g with fill := [], healed := g.healed ++ bad }))

/-- A member of a group that writes: the engine, the member's position, and whether its stream is a UNIT stream,
    which writes a sector of the host or of a remote device with one request. -/
structure VOut where
  e : Nat
  pos : Nat := 0
  unit : Bool := false

/-- Write one piece: the bytes, and the engine's own data-cache line invalidated (R108).  In an NS page every
    element is written by itself. -/
def commitPiece (w : VOut) (p : Piece) (covered : Bool) (bs : List Byte) (s : State) : State :=
  if p.place.far then dropLine w.e p.place (gatherFar w.e w.pos (w.unit && !p.once) p.at_ p.place bs s)
  else
    let s1 := if covered then fillSector w.e p s else s
    dropLine w.e p.place (writePlace w.e .swrite p.at_ p.place (enabled bs) (noteUndo w.e p.place p.n s1))

/-- Write the pieces of an element. -/
def commitPieces (w : VOut) : List (Piece × Bool) → List Byte → State → State
  | [], _, s => s
  | (p, cov) :: ps, bs, s => commitPieces w ps (bs.drop p.n) (commitPiece w p cov (bs.take p.n) s)

/-- The byte of a BIT element merged (R296). -/
def mergeBit (old : Byte) (k : Nat) (v : Bool) : Byte :=
  (old &&& ~~~((1 : Byte) <<< k)) ||| (if v then (1 : Byte) <<< k else 0)

/-- The old byte of a BIT element in memory: in host or remote memory the one that its merge read has found, or
    that another member has written since (R296). -/
def oldByte (s : State) (g : VGroup) (p : Place) (old : Byte) : Byte :=
  if p.far then SMap.get old g.bits (farKey p) else (placeBytes s p 1).headD 0

/-- A BIT element written: its byte merged, and one of host or remote memory remembered. -/
def commitBit (w : VOut) (p : Piece) (k : Nat) (v : Bool) (old : Byte) (s : State) : State :=
  match (s.eng w.e).vec.q with
  | [] => s
  | g :: _ =>
    let b := mergeBit (oldByte s g p.place old) k v
    let s1 := if p.place.far then
        s.modEng w.e (modHead fun g => { g with bits := g.bits.put (farKey p.place) b })
      else s
    commitPiece w p false [b] s1

/-- Staging-register bits written (R282). -/
def writeStaging (x : Engine) (bit w v : Nat) : Engine :=
  let r := bit / 8192
  let off := bit % 8192
  let old := x.vec.v.toList.getD r 0
  let mask : BitVec 8192 := BitVec.ofNat 8192 ((2 ^ w - 1) <<< off)
  let new := (old &&& ~~~mask) ||| BitVec.ofNat 8192 ((v % 2 ^ w) <<< off)
  { x with vec := { x.vec with v := x.vec.v.setIfInBounds r new } }

/-- Perform what a member writes for an element.  `perform` is false for a compared write that the
    primary performs (R412): it leaves the engine's own data cache as its own write stream does (R108). -/
def commitDest (w : VOut) (perform : Bool) (d : Dest) (s : State) : State :=
  match d with
  | .none => s
  | .memory _ ps bs =>
    if perform then commitPieces w ps bs s else ps.foldl (fun s p => dropLine w.e p.1.place s) s
  | .bit _ p k v old =>
    if perform then commitBit w p k v old s else dropLine w.e p.place s
  | .reg bit n v =>
    let k := (n + 7) / 8
    s.modEng w.e fun x =>
      writeStaging (modHead (fun g => { g with
        undo := recordUndo g.undo (regKey (bit / 8)) (regBytes x (bit / 8) k) }) x) bit n v
  | .queue out bits last =>
    if perform then
      s.modEng w.e fun x => { x with
        outs := x.outs.setIfInBounds out ((x.outs.toList.getD out {}).push bits last) }
    else s

end Sys2Proof.Machine
end

