-- ==== Sys2Proof/Machine/Vsu.lean ====
section
/-! DEFINITION. The VSU: a committed group advanced element by element through one strip (R293 to
R312, R324, R345 to R347), its completion, and its power states (R180 to R182). -/

namespace Sys2Proof.Machine

/-! ### Flags and records (R308 to R311) -/

/-- The flags that trap, in VFLAGS positions (Table 6.9). -/
def trapFlags (fctl dctl : Word) : BitVec 9 :=
  (teOf fctl).setWidth 9 ||| 0x20 ||| (if dctl.getLsbD 12 then 0x40 else 0) ||| 0x80

/-- An EC_ERANGE record (Table 6.14). -/
def erangeWord (trap : Bool) (pipe i : Nat) (fl : BitVec 9) : Word :=
  flag 63 true ||| flag 62 trap ||| place 56 3 pipe ||| place 40 9 fl.toNat ||| place 0 24 i

/-- A record after one more flagged element: the lowest with a trapping flag, or the lowest flagged
    while none traps (R311). -/
def noteRange (old : Word) (trap : Bool) (pipe i : Nat) (fl : BitVec 9) : Word :=
  let new := erangeWord trap pipe i fl
  if !old.getLsbD 63 then new
  else if old.getLsbD 62 != trap then (if trap then new else old)
  else if i < field old 0 24 then new
  else old

/-! ### One member at one element (R303, R324) -/

/-- What a member does for an element: the member after it, its write, the result it hands on, the flags, whether
    the element is active, and where its element lies in a memory destination. -/
structure Plan where
  m : VMember
  dest : Dest
  link : Nat
  flags : BitVec 9
  active : Bool := true
  addr : Word := 0
  deriving DecidableEq, Repr

/-- The captured values of a group that element operations use.  VDDEND names dividend and divisor as
    its second and third sources. -/
def vEnv (g : VGroup) (m : VMember) (i : Nat) : VEnv :=
  let scale (k : Nat) : Nat := ((m.srcs.getD k {}).desc).decScale g.dctl
  let steps := decide (opcodeOf m.word = 0x36)
  { fctl := g.fctl, dctl := g.dctl, i := i,
    sa := if steps then scale 1 else scale 0, sb := if steps then scale 2 else scale 1,
    sd := m.d.desc.decScale g.dctl }

/-- Record the flags of an element and stop a precise group at a trap (R308, R312): the flags of the
    trapping element go only to EC_ERANGE, whose record is then that element's. -/
def trapCheck (c : VCtx) (g : VGroup) (m : VMember) (o : VOp) (i : Nat) (fl : BitVec 9) :
    EM VMember := do
  if fl = 0 then return m
  let trap := decide (fl &&& trapFlags g.fctl g.dctl ≠ 0)
  let stop := trap && g.mode.getLsbD 2
  let m1 := { m with erange :=
    if stop then erangeWord true o.pipe i fl else noteRange m.erange trap o.pipe i fl }
  if stop then
    updE c.e (modHead fun g => { g with
      members := g.members.modify c.pos fun k => { k with erange := m1.erange } })
    raise { code := 0x10, detail := 1, faddr := m.pc }
  return m1

/-- The source elements of an active element, each index before its data (R303). -/
def readSources (c : VCtx) (m : VMember) (o : VOp) (i : Nat) : EM (List Nat) :=
  (List.range m.srcs.length).mapM fun k => do
    let v := m.srcs.getD k {}
    let x ← readIndex c (4 + k) v i
    readStream c (1 + k) v (o.srcs.getD k .bit) i x

/-- The sources of an inactive element. -/
def skipSources (c : VCtx) (m : VMember) (o : VOp) (i : Nat) : EM Unit :=
  (List.range m.srcs.length).forM fun k =>
    skipSource c (1 + k) (m.srcs.getD k {}) (o.srcs.getD k .bit) i

/-- Where element `i` of a member's destination lies in memory; 0 for any other destination. -/
def destAddr (m : VMember) (o : VOp) (i x : Nat) : Word :=
  match m.d.desc.form with
  | .queue | .reg | .scalar | .link => 0
  | _ => elementAddr m.d.desc o.d i x

/-- The write of an inactive element (R296): zero to a queue, and to memory or a register group when
    ZERO is set; else the old value stays.  With it comes where the element lies. -/
def inactiveDest (c : VCtx) (g : VGroup) (m : VMember) (o : VOp) (i : Nat) (last : Bool) :
    EM (Dest × Word) := do
  let x ← readIndex c 8 m.d i
  let a := destAddr m o i x
  if m.d.desc.form = .queue || m.mcfg.getLsbD 7 then return (← planDest c g m o.d i x o.d.zero false last, a)
  else return (.none, a)

/-- An ordinary instruction at an element (R324). -/
def planElem (c : VCtx) (g : VGroup) (m : VMember) (o : VOp) (f : VEnv → Nat → Nat → Nat → ERes)
    (i : Nat) (last : Bool) : EM Plan := do
  if ← readMask c m i then
    let vs ← readSources c m o i
    let r := f (vEnv g m i) (vs.getD 0 0) (vs.getD 1 0) (vs.getD 2 0)
    let m1 ← trapCheck c g m o i r.flags
    let x ← readIndex c 8 m.d i
    let d ← planDest c g m o.d i x r.val false last
    return ⟨m1, d, r.val, r.flags, true, destAddr m o i x⟩
  else
    skipSources c m o i
    let (d, a) ← inactiveDest c g m o i last
    return ⟨m, d, o.d.zero, 0, false, a⟩

/-- The active elements below the start of VCOMPRESS or VEXPAND that starts afresh (R345): counted from
    a mask in UNIT or REG form, 0 otherwise. -/
def countActive (c : VCtx) (m : VMember) : Nat → EM Nat
  | 0 => return 0
  | n + 1 => do
    let k ← countActive c m n
    return if ← readMask c m n then k + 1 else k

/-- The kept count as the instruction goes on. -/
def keptCount (c : VCtx) (m : VMember) (i : Nat) : EM VMember := do
  if m.started then return m
  let k ← if vM m.word = 0 then pure i
    else if m.mask.form = .unit || m.mask.form = .reg then countActive c m i
    else pure 0
  let m1 := { m with started := true, kept := k }
  updE c.e (modHead fun g => { g with members := g.members.set c.pos m1 })
  return m1

/-- The index element of packed element `j` at element `i` (R279, R345): index elements of a queue or
    of LINK come in order and wait; others are read where they lie. -/
def packIndex (c : VCtx) (port : Nat) (o : VOperand) (m : VMember) (i : Nat) (active : Bool) :
    EM (Nat × List Nat) := do
  if !o.desc.form.indexed then return (0, m.fifo)
  let x ← readIndex c port o i
  if o.idx.form = .queue || o.idx.form = .link then
    let l := m.fifo ++ [x]
    return if active then (l.headD 0, l.drop 1) else (0, l)
  else if active then return (← readIndex c port o m.kept, m.fifo)
  else return (0, m.fifo)

/-- VCOMPRESS at an element (R345).  What its LINK hands on is a value the spec does not give. -/
def planCompress (c : VCtx) (g : VGroup) (m0 : VMember) (o : VOp) (i : Nat) : EM Plan := do
  let m ← keptCount c m0 i
  let active ← readMask c m i
  if active then
    let vs ← readSources c m o i
    let (x, l) ← packIndex c 8 m.d m i true
    let v := vs.getD 0 0
    let d ← planDest c g m o.d m.kept x v true false
    let f ← fresh
    return ⟨{ m with kept := m.kept + 1, fifo := l }, d, Config.freeNat f % 2 ^ o.d.bits, 0, true,
      destAddr m o m.kept x⟩
  else
    skipSources c m o i
    let (_, l) ← packIndex c 8 m.d m i false
    return ⟨{ m with fifo := l }, .none, o.d.zero, 0, false, destAddr m o m.kept (l.headD 0)⟩

/-- VEXPAND at an element (R345). -/
def planExpand (c : VCtx) (g : VGroup) (m0 : VMember) (o : VOp) (i : Nat) (last : Bool) :
    EM Plan := do
  let m ← keptCount c m0 i
  let src := m.srcs.headD {}
  let active ← readMask c m i
  let (x, l) ← packIndex c 4 src m i active
  if active then
    let v ← readStream c 1 src (o.srcs.headD .bit) m.kept x
    let y ← readIndex c 8 m.d i
    let d ← planDest c g m o.d i y v false last
    return ⟨{ m with kept := m.kept + 1, fifo := l }, d, v, 0, true, destAddr m o i y⟩
  else
    let (d, a) ← inactiveDest c g m o i last
    return ⟨{ m with fifo := l }, d, o.d.zero, 0, false, a⟩

/-- The initial value of a reduction, read once and before the first element of sdA (R346): a stream keeps it
    while that element waits, a queue still has it. -/
def readBase (c : VCtx) (m : VMember) (o : VOp) : EM VMember := do
  if m.started || m.base.isSome then return m
  let b := m.srcs.getD 1 {}
  let x ← readIndex c 5 b 0
  let v ← readStream c 2 b (o.srcs.getD 1 .bit) 0 x
  let m1 := { m with base := some v }
  if b.desc.form ≠ .queue then updE c.e (modHead fun g => { g with members := g.members.set c.pos m1 })
  return m1

/-- The partial results of a reduction before an element: those it has kept, or what its initial value makes.
    The flags of that are posted at the element that the group started afresh at, and at no later one
    (R338). -/
def startReduce (g : VGroup) (m : VMember) (r : VRed) (i : Nat) : List Int × BitVec 9 :=
  if m.started then (m.acc, 0)
  else
    let (acc, fl) := r.start (vEnv g m i) (m.base.getD 0)
    (acc, if i = g.first then fl else 0)

/-- The initial value of a reduction before the element of sdA, its fault after that element's own (R303,
    R346). -/
def tryBase (c : VCtx) (m : VMember) (o : VOp) : EM (Except Ev VMember) :=
  tryCatch (do return .ok (← readBase c m o)) fun st =>
    match st with
    | .ev v => return .error v
    | .wait => throw .wait

/-- A reduction at an element: its result is element 0 of sdD, written with element VL − 1 (R346). -/
def planReduce (c : VCtx) (g : VGroup) (m0 : VMember) (o : VOp) (r : VRed) (i : Nat) (last : Bool) :
    EM Plan := do
  let active ← readMask c m0 i
  let base ← tryBase c m0 o
  let a := m0.srcs.headD {}
  let at_ := o.srcs.headD .bit
  let va ← if active then do
      let x ← readIndex c 4 a i
      readStream c 1 a at_ i x
    else do
      skipSource c 1 a at_ i
      pure 0
  let m ← match base with
    | .ok m => pure m
    | .error v => raise v
  let (acc0, fl0) := startReduce g m r i
  let (acc, fl1) := if active then r.step (vEnv g m i) acc0 va else (acc0, 0)
  let res := if last then r.finish (vEnv g m i) acc else ⟨0, 0⟩
  let fl := fl0 ||| fl1 ||| res.flags
  let m1 ← trapCheck c g m o i fl
  let m2 := { m1 with started := true, acc := acc, base := none }
  if last then
    let x ← readIndex c 8 m.d 0
    let d ← planDest c g m o.d 0 x res.val true true
    return ⟨m2, d, 0, fl, active, destAddr m2 o 0 x⟩
  else return ⟨m2, .none, 0, fl, active, 0⟩

/-- One member at one element: everything read and checked, nothing written. -/
def planMember (c : VCtx) (g : VGroup) (m : VMember) (o : VOp) (i : Nat) (last : Bool) :
    EM Plan :=
  match o.kind with
  | .elem f => planElem c g m o f i last
  | .compress => planCompress c g m o i
  | .expand => planExpand c g m o i last
  | .reduce r => planReduce c g m o r i last

/-- Every member of a group at one element, in group order (R303).  Where a member traps in precise mode, the
    flags of the members before it go to their EC_ERANGE records too (R311, R312). -/
def planMembers (c : VCtx) (g : VGroup) (i : Nat) (last : Bool) : Nat → Option Link → List (VMember × VOp) →
    EM (List Plan)
  | _, _, [] => return []
  | pos, prev, (m, o) :: ms => do
    let p ← planMember { c with pos := pos, prev := prev } g m o i last
    let rest := planMembers c g i last (pos + 1) (some ⟨p.link, o.d, p.active⟩) ms
    let ps ← tryCatch rest fun st => do
      match st with
      | .ev v => if v.code = 0x10 then
          updE c.e (modHead fun g => { g with
            members := g.members.modify pos fun k => { k with erange := p.m.erange } })
      | .wait => pure ()
      throw st
    return p :: ps

/-! ### Compared writes (R412, R413) -/

/-- What the twins compare of an element: its address, 0 at a pair exit, and its data. -/
def comparedDest (s : State) (e : Nat) (d : Dest) : Option (Word × Nat) :=
  match d with
  | .memory va _ bs => if comparedAt va then some (va, leNat bs) else none
  | .bit va _ _ v _ => if comparedAt va then some (va, if v then 1 else 0) else none
  | .queue out bits _ => if exitOf s e out then some (0, natOfBits bits) else none
  | _ => none

/-- What a member's element gives its twin to compare: its write, or that it writes nothing where its destination
    is a compared one. -/
def pairWrite (s : State) (e : Nat) (p : Plan) : Option PairWrite :=
  let d := p.m.d.desc
  match comparedDest s e p.dest with
  | some (a, v) => some ⟨a, true, v⟩
  | none =>
    let compares := match d.form with
      | .queue => exitOf s e d.cq
      | .reg | .scalar | .link => false
      | f => comparedAt d.base || f.indexed
    if compares then some ⟨p.addr, false, 0⟩ else none

/-- Do the twins agree on a compared write (R413): neither writes, or both write the same?  Where no element is
    written no address is compared. -/
def PairWrite.same (a b : PairWrite) : Bool := (!a.enable && !b.enable) || a == b

/-- A divergence of the twins at an element (R413): logged, held by the twin, and raised here. -/
def divergeAt {α : Type} (e t i : Nat) (a : Word) : EM α := do
  let ev : Ev := { code := 0x11, acc := 6, faddr := a }
  upd (health 4 (BitVec.ofNat 16 (e / 9 * 16 + e % 9)) [])
  upd fun s => if (s.eng t).run = .stopping then haltWork t s else holdVector t ev i 3 s
  updE e (modHead fun g => { g with prog := i })
  raise ev

/-- The address of the primary's first write that differs from its partner's. -/
def firstDiffering (primary partner : List PairWrite) : Word :=
  match (primary.zip partner).find? fun p => !p.1.same p.2 with
  | some p => p.1.addr
  | none => (primary.headD ⟨0, false, 0⟩).addr

/-- The compared writes of element `i` of a paired engine's stream, held against its twin's: it goes on once both
    have agreed. -/
def streamCompare (e i : Nat) (ws : List PairWrite) : EM Unit := do
  let s ← get
  match twinOf s e with
  | none => return ()
  | some t =>
    if ws.isEmpty || (s.eng e).dbg.feed then return ()
    let post (k : Option StreamTok) (x : Engine) : Engine := { x with vec := { x.vec with twin := k } }
    if ((s.eng e).vec.twin.any fun k => k.agreed && k.index == i) then
      updE e (post none)
      return ()
    match (s.eng t).vec.twin.filter fun u => !u.agreed with
    | none =>
      updE e (post (some ⟨i, ws, false⟩))
      hold
    | some u =>
      if u.index = i ∧ u.writes.length = ws.length ∧ (u.writes.zip ws).all fun p => p.1.same p.2 then
        updE t (post (some { u with agreed := true }))
        updE e (post none)
      else
        let a := if isPartner s (e / 9) then firstDiffering u.writes ws else firstDiffering ws u.writes
        divergeAt e t (min i u.index) a

/-! ### Elements and strips -/

/-- The members of a group with their operations. -/
def groupOps (g : VGroup) : List (VMember × VOp) :=
  g.members.filterMap fun m => (vopOfWord m.word).map fun o => (m, o)

/-- The chain queues that a group takes elements from. -/
def sourceQueues (g : VGroup) : List Nat :=
  (g.members.flatMap fun m => m.mask :: (m.d :: m.srcs).map VOperand.idx ++ m.srcs.map VOperand.desc).filterMap
    fun d => if d.form = .queue then some d.cq else none

/-- A queue takes nothing from an element that does not commit (R281), but a strip without data that the
    consumer has reached leaves it (R388). -/
def waitQueues (s : State) (e : Nat) (g : VGroup) (cq : Vector ChainQueue 4) : Vector ChainQueue 4 :=
  (sourceQueues g).foldl (fun cq i =>
    match (lengOf s e).bind fun l => threshOf s l i with
    | some th => cq.setIfInBounds i ((cq.toList.getD i {}).reach th)
    | none => cq) cq

/-- The strips that have left an engine's queues return their credits (R388, R552). -/
def leftQueues (e : Nat) (cq now : Vector ChainQueue 4) (s : State) : State :=
  (List.range 4).foldl (fun s i =>
    leaveQueue e i ((cq.toList.getD i {}).strips.length - (now.toList.getD i {}).strips.length) s) s

/-- What reads queues, done or undone: a stop takes nothing, and a corrected byte that is taken is counted
    (R281, R389). -/
def keepQueues {α : Type} (e : Nat) (m : EM α) : EM α := do
  let cq := (← engM e).cq
  let g ← headGroup e
  let a ← tryCatch m fun st => do
    let s ← get
    let now := waitQueues s e g cq
    updE e fun x => { x with cq := now }
    upd (leftQueues e cq now)
    throw st
  let now := (← engM e).cq
  upd (leftQueues e cq now)
  let n := ((List.range 4).map fun i => (cq.toList.getD i {}).fixesTo (now.toList.getD i {})).sum
  upd fun s => { s with hub := { s.hub with ceChip := satAdd s.hub.ceChip n } }
  return a

/-- An element has committed at every destination: flags, counters, and the group one element on. -/
def elementDone (g0 : VGroup) (ps : List Plan) (i : Nat) (x : Engine) : Engine :=
  let fl := ps.foldl (fun a p => a ||| p.flags) 0
  let y := modHead (fun g => { g with
    members := ps.map Plan.m, prog := i + 1,
    trapped := g.trapped || decide (fl &&& trapFlags g0.fctl g0.dctl ≠ 0) }) x
  { y with vec := { y.vec with vflags := y.vec.vflags ||| fl, resp := [] },
           count := y.count.set 7 (y.count[7] + 1) }

/-- The writes of an element performed: a compared one by the primary alone (R412). -/
def commitPlans (e : Nat) (ps : List Plan) (s0 : State) : State :=
  (ps.zipIdx).foldl (fun s (p, pos) =>
    let w : VOut := { e := e, pos := pos, unit := p.m.d.desc.form == .unit }
    commitDest w ((comparedDest s0 e p.dest).isNone || !isPartner s0 (e / 9)) p.dest s) s0

/-- One element of the head group: every member is checked, and then every member writes (R297,
    R302).  R300 lets a read stream read ahead of commit, and so poison a sector of elements that never commit:
    here none does (log entry 17).  `fill` says whether a sector that
    fails may be written whole by several elements (R123). -/
def runElement (e : Nat) (fill : Bool) (i : Nat) : EM Unit := do
  let g ← headGroup e
  let ps ← keepQueues e do
    let c : VCtx := { e := e, ring := g.ring, pos := 0, prev := none, fill := fill }
    let ps ← planMembers c g i (decide (i + 1 = g.vl)) 0 none (groupOps g)
    let s ← get
    streamCompare e i (ps.filterMap (pairWrite s e))
    return ps
  upd (commitPlans e ps)
  updE e (elementDone g ps i)

/-- Elements from `i` on, until every sector with an error that the group has begun to write is written whole;
    false where it comes to `last` first. -/
def fillSectors (e last : Nat) : Nat → Nat → EM Bool
  | 0, _ => return (← headGroup e).filled
  | fuel + 1, i => do
    if (← headGroup e).filled then return true
    if last ≤ i then return false
    runElement e true i
    fillSectors e last fuel (i + 1)

/-- The element up to which a group may go on to write a sector whole: a UNIT stream writes its elements end to
    end, and one of another form the elements of the strip. -/
def spanEnd (g : VGroup) (stop : Nat) : Nat :=
  if g.members.any fun m => m.d.desc.form == .unit then g.vl else stop

/-- Element `i`, and where it begins to write a sector of HBM over an error the elements that end the sector.
    Where they do not all commit, the write is a sub-sector write, which element `i` does not perform (R123,
    R302); what their reads have met stays (R124, R126).  A UNIT stream that covers the sector goes on beyond its
    strip, and waits with the error still there. -/
def runSpan (e stop i : Nat) : EM Unit := do
  let s0 ← get
  runElement e true i
  let g ← headGroup e
  if !g.fill.isEmpty && (twinOf s0 e).isNone then
    let sure := g.members.any VMember.unitWrite
    let last := spanEnd g stop
    let whole ← tryCatch (fillSectors e last (last - i) (i + 1)) fun st =>
      match st with
      | .wait => if sure then throw .wait else return false
      | .ev _ => return false
    if !whole then
      set (keepErrors (← get) s0)
      runElement e false i
  if (← headGroup e).filled then upd (finishFill e)

/-- Elements from where the group stands up to `stop`; `fuel` bounds them.  No stream reads ahead of what commits
    (R124, R300; log entry 17). -/
def runElements (e stop : Nat) : Nat → EM Unit
  | 0 => return ()
  | fuel + 1 => do
    let g ← headGroup e
    if g.prog < stop then
      runSpan e stop g.prog
      runElements e stop fuel

/-! ### Completion (R271, R310, R311, R384) -/

/-- Outputs of a group that its packet end still has to close. -/
def openOutputs (s : State) (e : Nat) (g : VGroup) : List Nat :=
  (g.members.filter fun m => m.d.desc.form == .queue &&
    !(exitOf s e m.d.desc.cq && isPartner s (e / 9))).map fun m => m.d.desc.cq

/-- EC_ERANGE written for a group (R311): all four records when it posts or holds a VARITH, else the
    flagged ones where no record is valid. -/
def writeRanges (all : Bool) (g : VGroup) (x : Engine) : Engine :=
  let rec_ (p : Nat) : Word :=
    let old := x.vec.erange.toList.getD p 0
    let new := (g.members.map VMember.erange).getD p 0
    if all then new else if new.getLsbD 63 && !old.getLsbD 63 then new else old
  { x with vec := { x.vec with erange := #v[rec_ 0, rec_ 1, rec_ 2, rec_ 3] } }

/-- The arithmetic trap of a completed group (R310): an imprecise VARITH unless one is pending.  A group that was
    held for a precise VARITH and resumed ends like one without a trap, and writes the records that software has
    cleared again: R311 does not say (log entry 19). -/
def postArith (g : VGroup) (x : Engine) : Engine :=
  if !g.trapped || g.mode.getLsbD 2 then writeRanges false g x
  else if !x.vec.imprecise.isEmpty then x
  else
    let pc := ((g.members.getLast?).map VMember.pc).getD 0
    let y := writeRanges true g x
    { y with vec := { y.vec with
      imprecise := [⟨{ code := 0x10, faddr := pc }, 0, g.mode, g.ring, false⟩] } }

/-- The head group leaves the VSU. -/
def popGroup (x : Engine) : Engine :=
  { x with vec := { x.vec with q := x.vec.q.drop 1, resp := [], twin := none } }

/-- A group whose elements are done completes.  `closed` says that its last element has ended its
    packets; otherwise they end now, once no buffer waits. -/
def completeGroup (e : Nat) (closed : Bool) : EM Unit := do
  let g ← headGroup e
  let s ← get
  if !closed then
    let os := openOutputs s e g
    if os.any fun o => (((s.eng e).outs.toList.getD o {}).waiting).isSome then hold
    updE e fun x => { x with outs := os.foldl (fun v o =>
      v.setIfInBounds o ((x.outs.toList.getD o {}).push [] true)) x.outs }
  upd (flushFar e)
  updE e fun x => popGroup (postArith g x)

/-! ### VSU_STRIP -/

/-- Is a group stopped in place (R306): a halt, a quiesce or a freeze of its chain? -/
def stopCause (s : State) (e : Nat) : Bool :=
  (s.eng e).dbg.halted || (s.sqr (e / 9)).st == .quiescing || (s.sqr (e / 9)).st == .quiesced ||
    chainFrozen s e

/-- A stopped group goes on in place: VPROG returns to 0 (R306). -/
def continueGroup (e : Nat) (s : State) : State :=
  s.modEng e fun x => { x with vec := { x.vec with
    stopped := false, starved := false, vprog := if x.vec.stopped then 0 else x.vec.vprog } }

/-- The end of the strip that a group is in (R286). -/
def stripEnd (g : VGroup) : Nat := min g.vl ((g.prog / g.strip + 1) * g.strip)

/-- At the end of a strip what its streams have written in a sector of the host or of a remote device leaves.
    A fed instruction keeps it to its end. -/
def stripSent (e : Nat) (s : State) : State := if (s.eng e).dbg.feed then s else flushFar e s

/-- The strip of the head group at its next element, or its completion (R293, R324). -/
def stripBody (e : Nat) : EM Unit := do
  let g ← headGroup e
  if g.vl ≤ g.prog then completeGroup e false
  else
    runElements e (stripEnd g) (stripEnd g - g.prog)
    if (← headGroup e).prog = g.vl then completeGroup e true
    else upd (stripSent e)

/-- The cause of a chain freeze for a held event (Table 9.15). -/
def freezeCause (code : Byte) : BitVec 4 := if code = 0x10 then 2 else if code = 0x11 then 3 else 1

/-- A held event of the head group at its current element (R302, R312). -/
def holdHead (e : Nat) (v : Ev) (s : State) : State :=
  match (s.eng e).vec.q with
  | [] => s
  | g :: _ =>
    let s1 := if v.code = 0x10 then s.modEng e (writeRanges true g) else s
    holdVector e v g.prog (freezeCause v.code) s1

/-- Can the VSU of an engine work on its head group: it is on, not held, and not stopped? -/
def vsuReady (x : Engine) : Bool := x.vsu.st == .on && !x.trap.vheld && !x.vec.q.isEmpty

/-- The VSU advances its group through one strip (R293), and stops it at the strip's end, or where it waits on a
    queue, when the engine is to stop (R306).  After the end of its job it goes no further than that (R68). -/
def vsuStrip (e : Nat) (s : State) : State :=
  let ends := decide ((s.eng e).run = .stopping)
  let stops (s : State) : Bool := (ends || stopCause s e) && canStop (s.eng e)
  let stop (s : State) : State := if ends then haltWork e s else groupStops e s
  if !vsuReady (s.eng e) || ((s.eng e).vec.stopped && stopCause s e) then s
  else if stops s then stop s
  else
    match (stripBody e).run (continueGroup e s) with
    | .ok _ s' => if stops s' then stop s' else s'
    | .error .wait s' => if stops s' then stop s' else s'
    | .error (.ev v) s' => if ends then haltWork e s' else holdHead e v s'

/-- VSU_STRIP (R293). -/
def execVsuStrip (e : Eng) (s : State) : Host.Outcome State Fault Refusal :=
  .next (vsuStrip e.val s)

/-! ### Power (R180 to R182) -/

/-- The VSU has been idle for 4,096 ECLK and starts gating (R180); a halted engine's idle count stands
    (R633). -/
def vsuIdleExpiry (x : Engine) : Engine :=
  let v := x.vsu
  if v.st == .on && !x.mode.getLsbD 4 && x.vec.q.isEmpty && x.vec.gpend.isEmpty && !x.dbg.halted then
    { x with vsu := { v with st := .gating, idle := 4096 } }
  else x

/-- Gating has finished; a wake that waits for it starts (R180, R181). -/
def vsuGated (x : Engine) : Engine :=
  let v := x.vsu
  match v.st with
  | .gating => { x with vsu := { v with st := if v.wakeReq then .waking else .gated, wakeReq := false } }
  | _ => x

/-- A wake has ended (R181). -/
def vsuWakeDone (x : Engine) : Engine :=
  match x.vsu.st with
  | .waking => { x with vsu := { x.vsu with st := .on, stall := false } }
  | _ => x

/-- VSU_IDLE_EXPIRY (R180). -/
def execVsuIdleExpiry (e : Eng) (s : State) : Host.Outcome State Fault Refusal :=
  .next (s.modEng e.val vsuIdleExpiry)

/-- VSU_GATED (R180). -/
def execVsuGated (e : Eng) (s : State) : Host.Outcome State Fault Refusal :=
  .next (s.modEng e.val vsuGated)

/-- VSU_WAKE_DONE (R181). -/
def execVsuWakeDone (e : Eng) (s : State) : Host.Outcome State Fault Refusal :=
  .next (s.modEng e.val vsuWakeDone)

end Sys2Proof.Machine
end

