-- ==== Sys2Proof/Machine/Chain.lean ====
section
/-! DEFINITION. The movement of strips through wires and tunnels, and stalemate (R383 to R391, R407,
R408, R411, R551, R552). -/

namespace Sys2Proof.Machine

/-! ### Destinations of a wire -/

/-- The physical engines whose queue a strip from a logical engine lands in: the destination, and its
    twin when the strip comes from outside the pair (R411). -/
def wireDests (s : State) (src dst : Nat) : List Nat :=
  match engOf s dst with
  | none => []
  | some d =>
    if (s.sqr (dst / 8)).paired && dst / 8 ≠ src / 8 then d :: (twinOf s d).toList else [d]

/-- May a strip pass between two engines by their jobs' contexts (R390)? -/
def sameCtx (a b : Engine) : Bool := inJob a && inJob b && a.ctx == b.ctx

/-- Is strip movement of an engine's queues frozen by debug (R642)? -/
def cqFrozen (x : Engine) : Bool := x.dbg.halted && x.dbg.frz.getLsbD 3

/-- Has queue `q` of an engine an empty stage beside the strips on the wire to it (R385)? -/
def queueRoom (x : Engine) (q onWire : Nat) : Bool :=
  decide ((x.cq.toList.getD q {}).strips.length + onWire < 8)

/-- May the jobs of an engine use a tunnel by its LCTX (R390)? -/
def tunnelCtx (x : Engine) (t : Tunnel) : Bool :=
  inJob x && (t.lctx == 0xFF || t.lctx == x.ctx)

/-! ### Sending (R385, R390, R551, R552) -/

/-- An output of an engine. -/
def outOf (x : Engine) (n : Nat) : CqOutput := x.outs.toList.getD n {}

/-- The state with an output changed. -/
def modOut (e n : Nat) (f : CqOutput → CqOutput) (s : State) : State :=
  s.modEng e fun x => { x with outs := x.outs.setIfInBounds n (f (outOf x n)) }

/-- The 16-bit tag of a strip (Table 9.1). -/
def stripTag (t : Strip) : Nat :=
  (if t.eop then 0x8000 else 0) + t.pseq.toNat * 512 + t.nbytes.toNat

/-- The strip of an output leaves through a tunnel that has a credit and a link.  The tunnel checks the code
    of every byte: a double-bit error sets POISON (R551), a corrected one is counted (log entry 62). -/
def sendTunnel (e n : Nat) (t : Strip) (x : Tunnel) (s : State) : State :=
  let used := SMap.get 0 s.frx.used x.num
  let tag := BitVec.ofNat 32 (stripTag t + x.num * 65536)
  let bad := t.flaws.any fun f => f.2.bad
  let p := packet s x.node 7 (if bad then 1 else 0) tag 0 t.data
  match tunnelSend x x.cls.toNat p s with
  | (false, s1) => s1
  | (true, s1) =>
    modOut e n (fun o => { o with waiting := none })
      { s1 with hub := { s1.hub with ceChip := satAdd s1.hub.ceChip (t.flaws.filter (!·.2.bad)).length }
                frx := { s1.frx with used := s1.frx.used.put x.num (used + 1) } }

/-- Has the destination of an output of logical engine `l` room for a strip, and do its engines run a job of
    the same context (R385, R390)? -/
def outputOpen (s : State) (e l n : Nat) : Bool :=
  match wireOf s l n with
  | some (.queue d q _) =>
    let ds := wireDests s l d
    !ds.isEmpty && ds.all fun k =>
      sameCtx (s.eng e) (s.eng k) && queueRoom (s.eng k) q (outOf (s.eng e) n).wire.length
  | some (.tunnel k) =>
    match tunnelOf s k with
    | some x => decide (SMap.get 0 s.frx.used x.num < 8) && tunnelCtx (s.eng e) x &&
        !s.frx.notices.any fun n => n.1 == x.num
    | none => false
  | none => false

/-- A waiting buffer of an output leaves when the destination has room (R385): onto the wire to the
    destination queue, or through the tunnel. -/
def outputSend (e n : Nat) (s : State) : State :=
  match (outOf (s.eng e) n).waiting, lengOf s e with
  | some t, some l =>
    if chainStopped s l || cqFrozen (s.eng e) || !outputOpen s e l n then s
    else
      match wireOf s l n with
      | some (.queue d _ _) =>
        if (wireDests s l d).all fun k => !cqFrozen (s.eng k) then
          modOut e n (fun o => { o with waiting := none, wire := o.wire ++ [t] }) s
        else s
      | some (.tunnel k) =>
        match tunnelOf s k with
        | some x => sendTunnel e n t x s
        | none => s
      | none => s
  | _, _ => s

/-- CQ_OUTPUT_SEND (R385). -/
def execCqOutputSend (e : Eng) (n : Fin 4) (s : State) : Host.Outcome State Fault Refusal :=
  .next (outputSend e.val n.val s)

/-! ### Arrival (R383, R446) -/

/-- A strip falls into the first empty stage of a queue. -/
def landStrip (q : Nat) (t : Strip) (s : State) (e : Nat) : State :=
  s.modEng e fun x =>
    let c := x.cq.toList.getD q {}
    { x with cq := x.cq.setIfInBounds q { c with strips := c.strips ++ [t] } }

/-- Is strip movement on the wires of a logical engine's chain barred by an ABORTED member (R406)? -/
def chainAborted (s : State) (n : Nat) : Bool :=
  match chainOf s n with
  | none => false
  | some c => !(chainSt s c).aborted.isEmpty

/-- The strips of an inbound tunnel pass into its queue while its engines run a job of the tunnel's
    context and the queue has room (R390, R553).  Strips in flight land also during a freeze (R400). -/
def tunnelPass (x : Tunnel) : Nat → State → State
  | 0, s => s
  | fuel + 1, s =>
    let (l, q) := inboundEnd x
    match SMap.get [] s.frx.inWait x.num with
    | [] => s
    | t :: ts =>
      let ds := wireDests s 512 l
      let ok (k : Nat) : Bool :=
        tunnelCtx (s.eng k) x && !cqFrozen (s.eng k) && queueRoom (s.eng k) q 0
      if !ds.isEmpty && ds.all ok && !chainAborted s l then
        let s1 := { s with frx := { s.frx with inWait := SMap.set [] s.frx.inWait x.num ts } }
        tunnelPass x fuel (ds.foldl (landStrip q t) s1)
      else s

/-- The oldest strip on the wire to queue `q` of an engine lands in it, also during a freeze (R400), while
    both engines still run jobs of one context (R390) and debug does not freeze the queue (R642); strips
    that wait at an inbound tunnel pass on. -/
def stripArrive (e q : Nat) (s : State) : State :=
  match lengOf s e with
  | none => s
  | some l =>
    match feederOf s l q with
    | none =>
      match inboundOf s l q with
      | some x => tunnelPass x 8 s
      | none => s
    | some (f, o) =>
      match engOf s f with
      | none => s
      | some src =>
        match (outOf (s.eng src) o).wire with
        | [] => s
        | t :: ts =>
          let ds := wireDests s f l
          if ds.all fun d => sameCtx (s.eng src) (s.eng d) && !cqFrozen (s.eng d) then
            ds.foldl (landStrip q t) (modOut src o (fun k => { k with wire := ts }) s)
          else s

/-- CQ_STRIP_ARRIVE (R446). -/
def execCqStripArrive (e : Eng) (n : Fin 4) (s : State) : Host.Outcome State Fault Refusal :=
  .next (stripArrive e.val n.val s)

/-! ### Stalemate (R407, R408) -/

/-- Does a queue operand of `bits` bits find too little in its queue (R386, R387)? -/
def sourceStalled (s : State) (e l : Nat) (d : VDesc) (bits : Nat) : Bool :=
  d.form == .queue &&
    match threshOf s l d.cq with
    | none => true
    | some th =>
      match ((s.eng e).cq.toList.getD d.cq {}).peek th bits with
      | .wait => true
      | _ => false

/-- Does an operand with its index stream stall? -/
def operandStalled (s : State) (e l : Nat) (o : VOperand) (bits : Nat) : Bool :=
  sourceStalled s e l o.desc bits ||
    (o.desc.form.indexed && sourceStalled s e l o.idx o.desc.iw)

/-- Is a member of a group stalled on a QUEUE source or destination? -/
def memberStalled (s : State) (e l : Nat) (m : VMember) (o : VOp) : Bool :=
  ((List.range m.srcs.length).any fun k =>
      operandStalled s e l (m.srcs.getD k {}) (o.srcs.getD k .bit).bits) ||
    (vM m.word != 0 && sourceStalled s e l m.mask 1) ||
    (m.d.desc.form.indexed && sourceStalled s e l m.d.idx m.d.desc.iw) ||
    (m.d.desc.form == .queue && (outOf (s.eng e) m.d.desc.cq).waiting.isSome &&
      !outputOpen s e l m.d.desc.cq)

/-- May a waiting output of a logical engine's leave now?  Its strip will have left, and entered its queue or passed
    its tunnel, within the time of R407. -/
def stripLeaving (s : State) (l : Nat) : Bool :=
  match engOf s l with
  | none => false
  | some e => (List.range 4).any fun n => (outOf (s.eng e) n).waiting.isSome && outputOpen s e l n

/-- Is a strip on its way to a queue of a logical engine or from one of its outputs: waiting in an output that is
    open, on the wire, or at an inbound tunnel whose queue may take it?  It will have entered the queue within the
    time of R407. -/
def stripComing (s : State) (l : Nat) : Bool :=
  stripLeaving s l || (List.range 4).any fun q =>
    match feederOf s l q with
    | some (f, o) => match engOf s f with
      | some src => !(outOf (s.eng src) o).wire.isEmpty
      | none => false
    | none => match inboundOf s l q with
      | some x => !(SMap.get [] s.frx.inWait x.num).isEmpty &&
          (wireDests s 512 l).all fun k => tunnelCtx (s.eng k) x && queueRoom (s.eng k) q 0
      | none => false

/-- Is the group of a logical engine stalled (R407)? -/
def groupStalled (s : State) (l : Nat) : Bool :=
  match runningEng s l with
  | none => false
  | some e =>
    !(s.eng e).trap.vheld &&
      match (s.eng e).vec.q with
      | [] => false
      | g :: _ => (groupOps g).any fun p => memberStalled s e l p.1 p.2

/-- Is a member that is not stalled no bar to a stalemate: it runs no job of the context, or has
    stopped at JEND (R407)? -/
def outOfPlay (s : State) (ctx : Byte) (l : Nat) : Bool :=
  match engOf s l with
  | none => true
  | some e => (s.eng e).run != .running || (s.eng e).ctx != ctx

/-- Is a member halted by debug, which suspends the detection (R644)? -/
def memberHalted (s : State) (l : Nat) : Bool :=
  match engOf s l with
  | none => false
  | some e => (s.eng e).dbg.halted

/-- The health entry of a stalemate: where its lowest stalled member stands, and the chain. -/
def staleLog (c l : Nat) (s : State) : State :=
  let e := (engOf s l).getD 0
  health 10 (BitVec.ofNat 16 (e / 9 * 16 + e % 9)) [BitVec.ofNat 8 c] s

/-- A stalled member takes STALE at its stall point (R408). -/
def takeStale (s : State) (l : Nat) : State :=
  match engOf s l with
  | none => s
  | some e =>
    match (s.eng e).vec.q with
    | [] => s
    | g :: _ => holdVector e { code := 0x13 } g.prog 4 s

/-- The home rank controller declares a stalemate where the conditions of R407 hold. -/
def stalemate (c : Nat) (s : State) : State :=
  let ms := membersOf s c
  let stalled := ms.filter (groupStalled s)
  match stalled with
  | [] => s
  | l :: _ =>
    let ctx := ((engOf s l).map fun e => (s.eng e).ctx).getD 0
    if chainStopped s l || ms.any (memberHalted s) || ms.any (stripComing s) ||
        !(ms.all fun k => stalled.contains k || outOfPlay s ctx k) then s
    else
      let s1 := staleLog c l (s.modRank (chainHome s c) fun r => { r with stale := satInc r.stale })
      stalled.foldl takeStale s1

/-- STALEMATE (R407, R408). -/
def execStalemate (chain : Byte) (s : State) : Host.Outcome State Fault Refusal :=
  .next (stalemate chain.toNat s)

end Sys2Proof.Machine
end

