-- ==== Sys2Proof/Machine/Command.lean ====
section
/-! DEFINITION. The command set of the control plane: frames and their checks, sessions, keys, the
ledger, loads, policies, contexts, debug unlock, resets and sparing (R453 to R478, R514 to R517, R575,
R576, R578, R625 to R629). -/

namespace Sys2Proof.Machine

/-! ### Frames (R453, R454, R457 to R460, R464) -/

/-- What a command's own work comes to. -/
inductive Reply
  | ok (payload : List Byte)
  | no (status : Byte) (detail : Nat)
  | later (w : Work)
  deriving DecidableEq, Repr

/-- REFUSED with a DETAIL. -/
def refuse (d : Nat) : Reply := .no 0x0D d

/-- A row of Table 11.6: the opcode, the slots whose role may issue it (none: no session), whether the
    payload length is right, the FLAGS bits it uses, and the payload bytes that must be 0. -/
structure CmdRow where
  op : Byte
  slots : Option (List Nat) := none
  len : Byte → List Byte → Bool
  flags : Byte := 0
  zero : List (Nat × Nat) := []

/-- The payload of a frame. -/
def payloadOf (f : Frame) : List Byte := f.body.take f.length.toNat

/-- The bytes of a command frame before its TAG. -/
def signedFrame (op : Byte) (f : Frame) : List Byte :=
  op :: f.flags :: leBytes 2 f.length.toNat ++ leBytes 4 f.seq.toNat ++ payloadOf f

/-- Is the byte count 24 + LENGTH, with LENGTH at most 4,096 (R453)? -/
def countOkFrame (f : Frame) : Bool :=
  decide (f.length.toNat ≤ 4096) && f.body.length == f.length.toNat + 16

/-- May a session of a slot issue a command: none of the role's, or a SERVICE session that the owner
    policy no longer allows (R459)?  0 where it may. -/
def roleCode (s : State) (slots : List Nat) : Byte :=
  if !s.nv.isClaimed then 0x09
  else match s.session with
    | none => 0x06
    | some x =>
      if !slots.contains x.slot.toNat then 0x06
      else if x.slot = 3 ∧ !s.nv.ownerPolicy.getLsbD 0 then 0x0B
      else 0

/-- Does the TAG of a frame verify (R454, R460)? -/
def tagOk (r : CmdRow) (f : Frame) (s : State) : Bool :=
  let tag := f.body.drop f.length.toNat
  match r.slots, s.session with
  | some _, some x => tag == (hmac512 x.key (signedFrame r.op f)).take 16
  | _, _ => tag.all (· == 0)

/-- Is the SEQ the expected one (R460, R464)? -/
def seqOk (r : CmdRow) (f : Frame) (s : State) : Bool :=
  match s.session with
  | none => true
  | some x => if r.slots.isSome then f.seq == x.seq else f.seq == 0

/-- The status of the common checks in the order of R458; 0 where all pass. -/
def frameStatus (r : CmdRow) (f : Frame) (s : State) : Byte :=
  let p := payloadOf f
  let role := match r.slots with | some l => roleCode s l | none => 0
  if !countOkFrame f || !r.len f.flags p then 0x02
  else if role ≠ 0 then role
  else if !tagOk r f s then 0x04
  else if !seqOk r f s then 0x05
  else if f.flags &&& ~~~r.flags ≠ 0 ∨ r.zero.any fun z => !zeros p z.1 z.2 then 0x03
  else 0

/-- The session after the common checks of a frame (R464): BAD_TAG counted, the third in a row closes
    it, and SEQ rises with a tagged command that passes the SEQ check. -/
def sessionAfter (r : CmdRow) (f : Frame) (st : Byte) (s : State) : State :=
  match s.session with
  | none => s
  | some x =>
    if st = 0x04 then
      { s with session := if 2 ≤ x.badTags then none else some { x with badTags := x.badTags + 1 } }
    else
      let pass := r.slots.isSome && (st == 0 || st == 0x03)
      { s with session := some { x with badTags := 0, seq := if pass then f.seq + 1 else x.seq } }

/-- The key a response is tagged with (R454): the session's when the frame came, none for OPEN and
    CLAIM. -/
def replyKey (r : CmdRow) (s : State) : Option (List Byte) :=
  if r.op = 0x02 ∨ r.op = 0x04 then none else s.session.map Session.key

/-- A reply becomes a response, or the command stays in progress. -/
def finishReply (r : CmdRow) (f : Frame) (key : Option (List Byte)) (a : Reply) (s : State) : State :=
  match a with
  | .ok p => respond r.op 0 f.seq p key s
  | .no st d => respond r.op st f.seq (leBytes 4 d) key s
  | .later w => { s with cmd := { s.cmd with busy := some ⟨r.op, f.seq, key, w⟩ } }

/-- Does the part take no private write now (R452, R455): the steward does not run, or the command slot is
    taken? -/
def nacks (s : State) : Bool := !stewardRuns s || s.cmd.busy.isSome || s.cmd.response.isSome

/-- A command frame (R450, R452, R455, R458): not the part's at another address; NACKed while the steward does
    not run or a command is in progress; else checked, performed and answered.  A tagged command with the last
    SEQ closes the session. -/
def command (r : CmdRow) (f : Frame) (own : List Byte → State → Reply × State) (s : State) : State :=
  if f.addr ≠ targetAddr s then s
  else if nacks s then s.emit .i3cNack
  else
    let st := frameStatus r f s
    let key := replyKey r s
    let s1 := sessionAfter r f st s
    if st ≠ 0 then
      let s2 := respond r.op st f.seq (leBytes 4 0) key s1
      if st = 0x03 ∧ r.slots.isSome ∧ f.seq = 0xFFFFFFFF then { s2 with session := none } else s2
    else
      let (a, s2) := own (payloadOf f) s1
      let opened := r.op == 0x02 && f.flags == 1 && s2.session.isSome && s1.session.isNone
      let key := if opened then s2.session.map Session.key else key
      let s3 := if r.slots.isSome ∧ f.seq = 0xFFFFFFFF then { s2 with session := none } else s2
      finishReply r f key a s3

/-- A payload of exactly `n` bytes. -/
def len (n : Nat) : Byte → List Byte → Bool := fun _ p => p.length == n

/-- `n` bytes that nothing constrains (log entry 2). -/
def freeBytes (n : Nat) (s : State) : List Byte × State :=
  ((List.range n).map fun i => (Config.freeWord (s.free + i)).setWidth 8, { s with free := s.free + n })

/-- The slot of the open session. -/
def sessionSlot (s : State) : Nat := (s.session.map fun x => x.slot.toNat).getD 0

/-! ### GET_INFO, OPEN, CLOSE (R459 to R466) -/

/-- GET_INFO's page (Table 11.7). -/
def infoPage (p : List Byte) (s : State) : Reply × State :=
  let n := fieldAt p 0 1
  (if n = 0 then
    .ok (leBytes 8 0xBA719512400808B0 ++ leBytes 16 Config.serial.toNat ++
      leBytes 1 (if s.nv.isClaimed then 1 else 0) ++ leBytes 4 s.nv.boots.toNat ++
      leBytes 4 s.boot.fwVersion.toNat ++ leBytes 8 s.board.serial.toNat)
  else if n ≤ 3 then .ok ((Config.attestCert.drop (4096 * (n - 1))).take 4096)
  else if n = 4 then .ok (leBytes 512 Config.transportModulus.toNat ++ leBytes 4 65537)
  else refuse 1, s)

/-- GET_INFO (R466). -/
def execGetInfo (f : Frame) (s : State) : Host.Outcome State Fault Refusal :=
  .next (command { op := 0x01, len := len 1 } f infoPage s)

/-- The key of a slot. -/
def slotKey (s : State) (slot : Nat) : List Byte := s.nv.keyAt slot

/-- The lockout of a slot. -/
def lockoutOf (s : State) (slot : Nat) : Lockout := s.nv.lockouts.toList.getD slot {}

/-- The lockout of a slot written. -/
def setLockout (slot : Nat) (l : Lockout) (s : State) : State :=
  nvRecord 3 (fun r => { s.nv with lockout := r }) s.nv.lockout (s.nv.lockouts.setIfInBounds slot l) s

/-- OPEN phase 1 (R461, R462): a fresh nonce. -/
def openFirst (slot : Nat) (s : State) : Reply × State :=
  let l := lockoutOf s slot
  if (slotKey s slot).isEmpty then (.no 0x08 0, s)
  else if l.left ≠ 0 then (.no 0x07 ((l.left + 999999999) / 1000000000), s)
  else if slot = 3 ∧ !s.nv.ownerPolicy.getLsbD 0 then (.no 0x0B 0, s)
  else
    let np := Config.random s.free
    (.ok (leBytes 32 np.toNat),
      { s with free := s.free + 1, np := some ⟨BitVec.ofNat 2 slot, np⟩ })

/-- The seconds the k-th consecutive failed open locks a slot (R463). -/
def lockSeconds (k : Nat) : Nat := min (2 ^ (k - 1)) 3600

/-- A failed open (R463): the slot is locked. -/
def failedOpen (slot : Nat) (s : State) : State :=
  let k := (lockoutOf s slot).fails + 1
  alert 0x20 (setLockout slot ⟨k, lockSeconds k * 1000000000⟩ s)

/-- OPEN phase 2 (R461 to R463): the proof, the session and the part's own proof. -/
def openSecond (slot : Nat) (p : List Byte) (s : State) : Reply × State :=
  match s.np with
  | some x =>
    let key := slotKey s slot
    if x.slot.toNat ≠ slot ∨ key.isEmpty then (refuse 1, s)
    else
      let np := leBytes 32 x.np.toNat
      let nh := bytesAt p 4 32
      let sb := leBytes 1 slot
      let s1 := { s with np := none }
      if bytesAt p 36 64 ≠ hmac512 key (np ++ nh ++ sb) then (refuse 3, failedOpen slot s1)
      else
        let sk := hmac512 key (ascii "BNSK" ++ np ++ nh ++ sb)
        (.ok (hmac512 key (nh ++ np ++ sb)),
          { setLockout slot {} s1 with session := some ⟨BitVec.ofNat 2 slot, sk, 1, 0⟩ })
  | none => (refuse 1, s)

/-- OPEN (R461, R462): FLAGS tells the phase. -/
def openCommand (f : Frame) (s : State) : State :=
  command { op := 0x02, len := fun fl p => p.length == if fl.getLsbD 0 then 100 else 1, flags := 1 } f
    (fun p s =>
      let slot := fieldAt p 0 1
      if 3 < slot ∨ (f.flags.getLsbD 0 ∧ !zeros p 1 3) then (.no 0x03 0, s)
      else if s.session.isSome then (refuse 2, s)
      else
        let s1 := nvMeet [.key slot] s
        if f.flags.getLsbD 0 then openSecond slot p s1 else openFirst slot s1) s

/-- OPEN phase 1 (R461). -/
def execOpenPhase1 (f : Frame) (s : State) : Host.Outcome State Fault Refusal := .next (openCommand f s)

/-- OPEN phase 2 (R461). -/
def execOpenPhase2 (f : Frame) (s : State) : Host.Outcome State Fault Refusal := .next (openCommand f s)

/-- CLOSE (R465). -/
def execClose (f : Frame) (s : State) : Host.Outcome State Fault Refusal :=
  .next (command { op := 0x03, slots := some [0, 1, 2, 3], len := len 0 } f
    (fun _ s => (.ok [], { s with session := none })) s)

/-! ### CLAIM and SET_KEY (R467, R468) -/

/-- A key slot written. -/
def Nv.setKey (n : Nv) (i : Nat) (k : List Byte) : Nv :=
  { n.renewed (.key i) with keys := n.keys.setIfInBounds i k }

/-- The words of a key of 512 bytes but the last, as they land one after the other in its slot (R497). -/
def keyWords (i : Nat) (k : List Byte) (s : State) : State :=
  let old := padTo 512 (s.nv.keys.toList.getD i [])
  (List.range (k.length / 64 - 1)).foldl (fun s j =>
    nvSet (s.nv.setKey i (k.take (64 * (j + 1)) ++ old.drop (64 * (j + 1)))) s) s

/-- CLAIM (R467): the entry, then the key and the claim state (R506). -/
def claim (p : List Byte) (s : State) : Reply × State :=
  if s.nv.isClaimed then (.no 0x0A 0, s)
  else match Config.oaepUnwrap (BitVec.ofNat 4096 (beNat (bytesAt p 0 512))) with
    | none => (refuse 1, s)
    | some k =>
      if k.length ≠ 64 then (refuse 1, s)
      else
        let s1 := logKeyed (some (0, s.nv.keys[0])) 0x30 (ascii "CLAIM") (sha512 (ascii "BNKM" ++ k)) [] s
        let n := s1.nv.setKey 0 k
        (.ok (hmac512 k (ascii "BNCL" ++ leBytes 16 Config.serial.toNat)),
          nvRecord 4 (fun r => { n.closed with claimed := r }) n.claimed true (nvSet n s1))

/-- CLAIM (R467). -/
def execClaim (f : Frame) (s : State) : Host.Outcome State Fault Refusal :=
  .next (command { op := 0x04, len := len 512 } f claim s)

/-- SET_KEY (R468).  The measurement of an emptied slot is not stated: a free value. -/
def setKey (seq : BitVec 32) (p : List Byte) (s : State) : Reply × State :=
  let id := fieldAt p 0 1
  let n := fieldAt p 4 4
  let raw := bytesAt p 8 n
  if 8 < id ∨ (n ≠ 0 ∧ n ≠ (if id < 4 then 64 else 512)) then (.no 0x03 0, s)
  else if n = 0 ∧ id = 0 then (refuse 0, s)
  else
    let sk := (s.session.map Session.key).getD []
    let mask := hmac512 sk (ascii "BNKW" ++ leBytes 4 seq.toNat)
    let key := if id < 4 ∧ n ≠ 0 then List.zipWith (· ^^^ ·) raw mask else raw
    let (gap, s0) := freeBytes 64 s
    let meas := if n = 0 then gap
      else if id < 4 then sha512 (ascii "BNKM" ++ key) else sha512 key
    let s1 := logKeyed (some (id, s.nv.keys.toList.getD id [])) 0x31 (leBytes 1 id) meas
      (leBytes 1 (sessionSlot s) ++ leBytes 4 n) s0
    (.ok meas, nvSet (s1.nv.setKey id key).closed (keyWords id key s1))

/-- The length rule of SET_KEY. -/
def keyLen : Byte → List Byte → Bool := fun _ p =>
  decide (8 ≤ p.length) && p.length == 8 + fieldAt p 4 4

/-- SET_KEY (R468). -/
def execSetKey (f : Frame) (s : State) : Host.Outcome State Fault Refusal :=
  .next (command { op := 0x05, slots := some [0], len := keyLen, zero := [(1, 3)] } f
    (fun p s => if s.boot.recovery then (.no 0x0C 0, s) else setKey f.seq p s) s)

/-! ### The ledger (R514 to R517) -/

/-- The retained entries of SEQ `lo` to `hi` are read, and a latent error in one of them is met (R499). -/
def meetEntries (lo hi : Nat) (s : State) : State :=
  let top := s.nv.headRec.seq
  let there (f : NvFlaw) : Bool := match f with
    | .ledger k =>
      let q := top - (top + ringSlots - k) % ringSlots
      decide (lo ≤ q ∧ q ≤ hi)
    | _ => false
  nvMeet ((s.nv.flaws.map Prod.fst).filter there) s

/-- GET_LEDGER (R514). -/
def getLedger (p : List Byte) (s : State) : Reply × State :=
  let first := fieldAt p 0 8
  let count := fieldAt p 8 1
  let n := s.nv
  if count = 0 ∨ 31 < count then (.no 0x03 0, s)
  else if n.nextSeq < first then (refuse 2, s)
  else if first < oldestSeq n then (refuse 1, s)
  else
    let k := min count (n.nextSeq - first)
    (.ok (leBytes 4 k ++ (List.range k).flatMap fun i => entryOf n (first + i)),
      meetEntries first (first + k - 1) s)

/-- GET_LEDGER (R514). -/
def execGetLedger (f : Frame) (s : State) : Host.Outcome State Fault Refusal :=
  .next (command { op := 0x10, len := len 9 } f getLedger s)

/-- ARCHIVE_LEDGER (R515). -/
def archiveLedger (p : List Byte) (s : State) : Reply × State :=
  let l := fieldAt p 0 8
  let n := s.nv
  match chainBase n with
  | none => (refuse 1, s)
  | some base =>
    if l < base.1 then (refuse 1, s)
    else if n.nextSeq ≤ l then (refuse 2, s)
    else if l < n.lastArchived then (refuse 3, s)
    else
      let s1 := logChange 0x50 (ascii "ARCHIVE") (hashBytes (headAt n base l))
        (leBytes 8 l ++ leBytes 8 n.lastArchived) (meetEntries base.1 l s)
      (.ok (hashBytes s1.nv.headRec.head),
        nvRecord 7 (fun r => { s1.nv.closed with archived := r }) s1.nv.archived l s1)

/-- ARCHIVE_LEDGER (R515). -/
def execArchiveLedger (f : Frame) (s : State) : Host.Outcome State Fault Refusal :=
  .next (command { op := 0x11, slots := some [0, 2], len := len 8 } f archiveLedger s)

/-- QUOTE (R516, R517): the body is taken at once, and its signing goes on. -/
def execQuote (f : Frame) (s : State) : Host.Outcome State Fault Refusal :=
  .next (command { op := 0x12, len := len 32 } f
    (fun p s => (.later (.quote (quoteBody (BitVec.ofNat 256 (fieldAt p 0 32)) s)), s)) s)

/-- The signing of a quote ends (R516). -/
def quoteSigned (s : State) : State :=
  match s.cmd.busy with
  | some ⟨_, _, _, .quote b⟩ => answer 0 (b ++ attest b s) { s with free := s.free + 1 }
  | _ => s

/-- QUOTE_SIGNED (R516). -/
def execQuoteSigned (s : State) : Host.Outcome State Fault Refusal :=
  .next (if stewardRuns s then quoteSigned s else s)

/-! ### Loads and structures (R469 to R471, R490) -/

/-- The length rule of a load chunk. -/
def loadLen : Byte → List Byte → Bool := fun _ p => decide (9 ≤ p.length ∧ p.length ≤ 4096)

/-- A chunk of a slot (R469): its bytes are appended, or restart the slot. -/
def chunk (x : ImgSlot) (off : Nat) (d : List Byte) (last : Bool) : ImgSlot :=
  if off = 0 then ⟨d, last⟩ else ⟨x.data ++ d, x.complete || last⟩

/-- The LOADED entry of a complete image, before its last chunk (R505, R506). -/
def loadedEntry (name : String) (slot : Nat) (y : ImgSlot) (last : Bool) (s : State) : State :=
  if last then
    logChange 0x35 (ascii name) (sha512 y.data) (leBytes 1 slot ++ leBytes 4 y.data.length) s
  else s

/-- The NV store with the change of a LOADED entry complete, which the last chunk alone has. -/
def loadClosed (last : Bool) (n : Nv) : Nv := if last then n.closed else n

/-- A chunk that restarts a slot writes it afresh, without its latent error. -/
def restarted (off : Nat) (f : NvFlaw) (n : Nv) : Nv := if off = 0 then n.renewed f else n

/-- LOAD_STRUCTURE (R469). -/
def loadStructure (last : Bool) (p : List Byte) (s : State) : Reply × State :=
  let slot := fieldAt p 0 1
  let off := fieldAt p 4 4
  let d := p.drop 8
  let x := s.nv.st.toList.getD slot {}
  if 1 < slot then (.no 0x03 0, s)
  else if (off ≠ 0 ∧ off ≠ x.data.length) ∨ 2097152 < off + d.length then (refuse 1, s)
  else
    let y := chunk x off d last
    let s1 := loadedEntry "STRUCTURE" slot y last s
    let n := restarted off (.structure_ (slot == 1)) s1.nv
    (.ok (leBytes 4 y.data.length),
      nvSet { loadClosed last n with st := n.st.setIfInBounds slot y } s1)

/-- LOAD_STRUCTURE (R469). -/
def execLoadStructure (f : Frame) (s : State) : Host.Outcome State Fault Refusal :=
  .next (command { op := 0x20, slots := some [0], len := loadLen, flags := 1, zero := [(1, 3)] } f
    (fun p s => if s.boot.recovery then (.no 0x0C 0, s) else loadStructure (f.flags.getLsbD 0) p s) s)

/-- LOAD_FIRMWARE (R471, R490). -/
def loadFirmware (last : Bool) (p : List Byte) (s : State) : Reply × State :=
  let slot := fieldAt p 0 1
  let off := fieldAt p 4 4
  let d := p.drop 8
  let x := s.nv.fw.toList.getD slot {}
  if 1 < slot then (.no 0x03 0, s)
  else if !s.boot.recovery ∧ slot = (if s.boot.fwslotB then 1 else 0) then (refuse 2, s)
  else if (off ≠ 0 ∧ off ≠ x.data.length) ∨ 524288 < off + d.length then (refuse 1, s)
  else
    let y := chunk x off d last
    let s1 := loadedEntry "FIRMWARE" slot y last s
    let n := restarted off (.firmware (slot == 1)) s1.nv
    (.ok (leBytes 4 y.data.length),
      nvSet { loadClosed last n with fw := n.fw.setIfInBounds slot y } s1)

/-- LOAD_FIRMWARE (R490). -/
def execLoadFirmware (f : Frame) (s : State) : Host.Outcome State Fault Refusal :=
  .next (command { op := 0x22, slots := some [0], len := loadLen, flags := 1, zero := [(1, 3)] } f
    (loadFirmware (f.flags.getLsbD 0)) s)

/-- APPLY_STRUCTURE (R470): the checks, and the switch. -/
def applyStructure (p : List Byte) (s : State) : Reply × State :=
  let slot := fieldAt p 0 1
  if 1 < slot then (.no 0x03 0, s)
  else if !s.boot.ready then (.no 0x0C 0, s)
  else
    let s1 := nvMeet [.structure_ (slot == 1)] s
    match imageCheck s1 true (slot == 1) (s1.nv.stAt (slot == 1)) with
    | (_, some b) => (.later .apply, startSwitch b s1)
    | (c, none) =>
      (refuse c, health 8 0xFFFF (leBytes 1 c ++ leBytes 1 slot) s1)

/-- APPLY_STRUCTURE (R470). -/
def execApplyStructure (f : Frame) (s : State) : Host.Outcome State Fault Refusal :=
  .next (command { op := 0x21, slots := some [0], len := len 1 } f applyStructure s)

/-! ### Policies, calibration, health and sensors (R472, R478, R575 to R578, R582) -/

/-- The power-policy record of a policy (Table 14.6). -/
def policyRecord (x : PowerPolicy) : List Byte :=
  leBytes 2 x.plimit.toNat ++ leBytes 2 x.pceil.toNat ++ [x.twarn, x.tthrot, x.scrub, x.pmode] ++
    leBytes 1 (if x.turbo then 1 else 0) ++ [x.parkidle] ++ leBytes 6 0 ++ leBytes 8 x.pmaxop.toNat ++
    leBytes 8 0

/-- Does a policy differ from another in a field that only the owner may set (Table 14.6, R576)? -/
def ownerFieldsDiffer (x y : PowerPolicy) : Bool :=
  x.pceil != y.pceil || x.tthrot != y.tthrot || x.scrub != y.scrub || x.turbo != y.turbo

/-- The POLICY entry (R472). -/
def policyEntry (id : Nat) (rec0 : List Byte) (s : State) : State :=
  logChange 0x32 (leBytes 1 id) (sha512 rec0) (leBytes 1 (sessionSlot s)) s

/-- SET_POLICY (R472, R575, R576, R629). -/
def setPolicy (p : List Byte) (s : State) : Reply × State :=
  let id := fieldAt p 0 1
  let r := p.drop 8
  if id = 0 then
    let w := BitVec.ofNat 64 (leNat r)
    if w &&& ~~~7 ≠ 0 then (.no 0x03 0, s)
    else if s.nv.ownerPolicy.getLsbD 1 ∧ !w.getLsbD 1 then (refuse 1, s)
    else
      let s1 := policyEntry 0 r s
      let s2 := nvRecord 5 (fun r => { s1.nv.closed with owner := r }) s1.nv.owner w s1
      (.ok [], if w.getLsbD 1 ∧ s2.ik.level = 2 then lowerLevel resumeSteward 1 s2 else s2)
  else if id = 1 then
    let x := policyOf r
    if !policyOk r then (.no 0x03 0, s)
    else if sessionSlot s = 1 ∧ ownerFieldsDiffer x s.pw.policy then (refuse 2, s)
    else
      let s1 := changeDone (policyEntry 1 r s)
      (.ok [], { s1 with pw := { s1.pw with nextPolicy := x } })
  else (.no 0x03 0, s)

/-- The length rule of SET_POLICY: the record has the length its policy ID asks for. -/
def policyLen : Byte → List Byte → Bool := fun _ p =>
  decide (8 ≤ p.length) && p.length == 8 + fieldAt p 4 4 &&
    (match fieldAt p 0 1 with
      | 0 => fieldAt p 4 4 == 8
      | 1 => fieldAt p 4 4 == 32
      | _ => true)

/-- SET_POLICY (R472): OPERATOR may set policy 1 alone. -/
def execSetPolicy (f : Frame) (s : State) : Host.Outcome State Fault Refusal :=
  let slots := if fieldAt (payloadOf f) 0 1 = 1 then [0, 1] else [0]
  .next (command { op := 0x30, slots := some slots, len := policyLen, zero := [(1, 3)] } f
    (fun p s => if s.boot.recovery then (.no 0x0C 0, s) else setPolicy p s) s)

/-- GET_POLICY (R466). -/
def getPolicy (p : List Byte) (s : State) : Reply × State :=
  (match fieldAt p 0 1 with
    | 0 => .ok (leBytes 8 s.nv.ownerPolicy.toNat)
    | 1 => .ok (policyRecord s.pw.policy)
    | _ => .no 0x03 0, s)

/-- GET_POLICY (R466). -/
def execGetPolicy (f : Frame) (s : State) : Host.Outcome State Fault Refusal :=
  .next (command { op := 0x31, slots := some [0, 1, 2, 3], len := len 1 } f
    (fun p s => if s.boot.recovery then (.no 0x0C 0, s) else getPolicy p s) s)

/-- The brake sum of the applied structure in whole watts, rounded up. -/
def brakeSum (s : State) : Nat := (1850 + ((List.range 64).map (brakeCharge s.board)).sum + 9) / 10

/-- The bounds of a calibration item (Table 14.7). -/
def calBounds (s : State) (item : Nat) : Option (Int × Int) :=
  match item with
  | 0 => some (-200, 200)
  | 1 => some (-50, 50)
  | 2 => some (((s.nv.cal[3]).toNat : Int), 1000)
  | 3 => some ((brakeSum s : Int), 300)
  | _ => none

/-- SET_CALIBRATION (R472, R578): clamped, entered, stored, and in force from the next period. -/
def setCalibration (p : List Byte) (s : State) : Reply × State :=
  let item := fieldAt p 0 1
  let v := BitVec.ofNat 32 (fieldAt p 4 4)
  match calBounds s item with
  | none => (refuse 1, s)
  | some (lo, hi) =>
    let w := BitVec.ofInt 32 (max lo (min hi v.toInt))
    let s1 := logChange 0x33 (leBytes 1 item) []
      (leBytes 1 (sessionSlot s) ++ leBytes 4 v.toNat ++ leBytes 4 w.toNat) s
    (.ok (leBytes 4 w.toNat), nvSet { (s1.nv.closed).renewed (.calibration (item + 3)) with
      cal := s1.nv.cal.setIfInBounds item w } s1)

/-- SET_CALIBRATION (R578). -/
def execSetCalibration (f : Frame) (s : State) : Host.Outcome State Fault Refusal :=
  .next (command { op := 0x32, slots := some [0, 1], len := len 8, zero := [(1, 3)] } f
    (fun p s => if s.boot.recovery then (.no 0x0C 0, s) else setCalibration p s) s)

/-- A health-log entry (Table 12.7). -/
def healthBytes (h : HealthEntry) : List Byte :=
  leBytes 8 h.seq ++ leBytes 8 h.time.toNat ++ leBytes 4 h.boot.toNat ++ leBytes 2 h.code.toNat ++
    leBytes 2 h.wher.toNat ++ padTo 40 h.data

/-- The retained health entries from a SEQ modulo 2^32 on, oldest first, at most `count` (R500). -/
def healthFrom (n : Nv) (first count : Nat) : List HealthEntry :=
  ((n.health.filter fun h => decide (((h.seq + 2 ^ 32 - first) % 2 ^ 32) < count)).reverse).take count

/-- Tj as the latest sensor record has it, in 0.1 °C (Table 14.9). -/
def recordedTj (s : State) : Int := (BitVec.ofNat 16 (fieldAt s.pw.sensors 16 2)).toInt

/-- Is an input limit in force: the bound that the VIN of the latest period gives (R562)? -/
def inputLimited (s : State) : Bool :=
  s.pw.vin != 0 && decide (105 * s.pw.vin.toNat / 1000 < boardLimit s)

/-- The alert bits whose cause still holds (R478). -/
def alertHolds (s : State) : BitVec 6 :=
  (if 58983 ≤ unarchived s.nv then 1 else 0) |||
    (if 10 * (s.pw.policy.twarn.toNat : Int) ≤ recordedTj s then 8 else 0) |||
    (if s.pw.brake || s.pw.guard || inputLimited s then 0x10 else 0)

/-- The alert status after the bits of a mask are cleared: a cause that still holds sets its bit again. -/
def keptAlerts (mask : BitVec 6) (s : State) : BitVec 6 :=
  (s.mg.alert &&& ~~~mask) ||| (s.mg.alert &&& alertHolds s)

/-- A health entry as it is read: one that an error spoils is met (R499), and what is read of it is a free value. -/
def healthRead (acc : List Byte × State) (h : HealthEntry) : List Byte × State :=
  let (out, s) := acc
  let f := NvFlaw.health (h.seq % 32768)
  if s.nv.bad f then
    let (b, s1) := freeBytes 64 s
    (out ++ b, nvMeet [f] s1)
  else (out ++ healthBytes h, s)

/-- READ_HEALTH (R478, R500). -/
def readHealth (ack : Bool) (p : List Byte) (s : State) : Reply × State :=
  let count := fieldAt p 4 1
  if 63 < count then (.no 0x03 0, s)
  else
    let old := s.mg.alert
    let a := if ack then keptAlerts (BitVec.ofNat 6 (fieldAt p 8 4)) s else old
    let s1 := { s with mg := { s.mg with alert := a } }
    let (out, s2) := (healthFrom s.nv (fieldAt p 0 4) count).foldl healthRead ([], s1)
    (.ok (leBytes 4 old.toNat ++ out), if a = old then s2 else raiseIbi 0xA2 s2)

/-- READ_HEALTH (R478). -/
def execReadHealth (f : Frame) (s : State) : Host.Outcome State Fault Refusal :=
  .next (command { op := 0x40, slots := some [0, 1, 2, 3], len := len 12, flags := 1, zero := [(5, 3)] } f
    (readHealth (f.flags.getLsbD 0)) s)

/-- READ_SENSORS (R582). -/
def execReadSensors (f : Frame) (s : State) : Host.Outcome State Fault Refusal :=
  .next (command { op := 0x41, len := len 0 } f (fun _ s => (.ok s.pw.sensors, s)) s)

/-! ### Contexts (R69, R473, R528) -/

/-- Is a number a power of 2 from 16 to 65,536? -/
def ringSize (n : Nat) : Bool := (List.range 13).any fun i => n == 2 ^ (i + 4)

/-- GRANT_CONTEXT (R473, R528). -/
def grantContext (p : List Byte) (s : State) : Reply × State :=
  let c : Byte := BitVec.ofNat 8 (fieldAt p 0 1)
  let vec := fieldAt p 2 2
  let n := fieldAt p 4 4
  let base := fieldAt p 8 8
  if 255 < vec ∨ !ringSize n ∨ base % 64 ≠ 0 ∨ 2 ^ 39 ≤ base then (.no 0x03 0, s)
  else if !s.boot.ready then (.no 0x0C 0, s)
  else if (ctxPart s c).isNone then (refuse 1, s)
  else if (s.ctx c).granted ∧ s.jobs.any fun j => j.ctx == c && j.stage != .ended then (refuse 2, s)
  else
    (.ok [], (dropRing c s).modCtx c fun x => { x with
      granted := true, base := BitVec.ofNat 64 base, n := BitVec.ofNat 32 n,
      vec := BitVec.ofNat 8 vec, head := 0, tail := 0, measured := false })

/-- GRANT_CONTEXT (R473). -/
def execGrantContext (f : Frame) (s : State) : Host.Outcome State Fault Refusal :=
  .next (command { op := 0x50, slots := some [0, 1], len := len 16, zero := [(1, 1)] } f grantContext s)

/-- The jobs of a revoked context end (R69). -/
def revokeJobs (c : Byte) (s : State) : State :=
  s.jobs.foldl (fun s j =>
    if j.ctx ≠ c then s
    else if j.waiting then endQueued j.id 6 0 s
    else endJob j.id 6 0 0xFFFF 0 s) s

/-- REVOKE_CONTEXT (R69, R473). -/
def revokeContext (p : List Byte) (s : State) : Reply × State :=
  let c : Byte := BitVec.ofNat 8 (fieldAt p 0 1)
  if !s.boot.ready then (.no 0x0C 0, s)
  else if !(s.ctx c).granted then (.ok [], s)
  else
    let s1 := revokeJobs c ((dropRing c s).modCtx c fun x => { x with granted := false })
    let s2 := (List.range 64).foldl (fun s i => stopTenders i (fun t => t.ctx == c) 5 s) s1
    if s2.jobs.any fun j => j.ctx == c then (.later (.revoke c), s2) else (.ok [], s2)

/-- REVOKE_CONTEXT (R69). -/
def execRevokeContext (f : Frame) (s : State) : Host.Outcome State Fault Refusal :=
  .next (command { op := 0x51, slots := some [0, 1], len := len 1 } f revokeContext s)

/-! ### Debug unlock (R625 to R628) -/

/-- The first check of R627 that a certificate fails; 0 where all pass. -/
def certCode (p : List Byte) (s : State) : Nat :=
  let level := fieldAt p 6 1
  let akey := bytesAt p 0x80 512
  if p.length ≠ 1152 ∨ bytesAt p 0 4 ≠ ascii "BNDC" ∨ fieldAt p 4 2 ≠ 0x100 ∨ (level ≠ 1 ∧ level ≠ 2) ∨
      !zeros p 7 1 ∨ !zeros p 0x3C 4 ∨ !zeros p 0x68 24 then 1
  else if fieldAt p 8 16 ≠ Config.serial.toNat then 2
  else if fieldAt p 0x18 32 ≠ s.ik.nonce.toNat then 3
  else if sha512 akey ≠ hashBytes Config.dbgKeyHash then 4
  else if !pssVerify (beNat akey) (bytesAt p 0x280 512) (p.take 0x280) then 5
  else if level = 2 ∧ s.nv.ownerPolicy.getLsbD 1 then 6
  else 0

/-- DEBUG_UNLOCK (R626 to R628). -/
def debugUnlock (p : List Byte) (s : State) : Reply × State :=
  let c := certCode p s
  let s1 := drawNonce s
  if c ≠ 0 then (refuse c, s1)
  else
    let level : BitVec 2 := BitVec.ofNat 2 (fieldAt p 6 1)
    let s2 := debugEntry level (sha512 p) (BitVec.ofNat 8 (sessionSlot s)) (bytesAt p 0x38 4)
      (bytesAt p 0x40 8) s1
    let s3 := { s2 with ik := { s2.ik with openCtx := BitVec.ofNat 256 (fieldAt p 0x48 32),
                                           duration := BitVec.ofNat 32 (fieldAt p 0x38 4),
                                           unlocked := s2.mg.timebase } }
    (.ok (leBytes 1 level.toNat), setLevel resumeSteward level s3)

/-- DEBUG_UNLOCK (R627): a payload of another length is the command's own check 1. -/
def execDebugUnlock (f : Frame) (s : State) : Host.Outcome State Fault Refusal :=
  .next (command { op := 0x60, slots := some [0, 3], len := fun _ _ => true } f
    (fun p s => if s.boot.recovery then (.no 0x0C 0, s) else debugUnlock p s) s)

/-! ### Resets and sparing (R474, R475, R593) -/

/-- RESET_DOMAIN (R474, R593): the payload names the scope. -/
def resetCommand (p : List Byte) (s : State) : Reply × State :=
  let scope := fieldAt p 0 1
  let index := fieldAt p 4 4
  if 3 < scope then (.no 0x03 0, s)
  else if scope = 0 then (.ok [], { s with boot := { s.boot with resetDue := true } })
  else if !s.boot.ready then (.no 0x0C 0, s)
  else match resetDomain scope index s with
    | some s1 => (.ok [], s1)
    | none => (refuse 1, s)

/-- The row of RESET_DOMAIN. -/
def resetRow : CmdRow := { op := 0x61, slots := some [0, 1], len := len 8, zero := [(1, 3)] }

/-- RESET_DOMAIN of scope 0 (R474). -/
def execResetDomainDevice (f : Frame) (s : State) : Host.Outcome State Fault Refusal :=
  .next (command resetRow f resetCommand s)

/-- RESET_DOMAIN of scope 1 (R474). -/
def execResetDomainRank (f : Frame) (s : State) : Host.Outcome State Fault Refusal :=
  .next (command resetRow f resetCommand s)

/-- RESET_DOMAIN of scope 2 (R474). -/
def execResetDomainSquare (f : Frame) (s : State) : Host.Outcome State Fault Refusal :=
  .next (command resetRow f resetCommand s)

/-- RESET_DOMAIN of scope 3 (R474). -/
def execResetDomainEngine (f : Frame) (s : State) : Host.Outcome State Fault Refusal :=
  .next (command resetRow f resetCommand s)

/-- SPARE_NOW (R415, R418, R475). -/
def spareNow (p : List Byte) (s : State) : Reply × State :=
  let sq := fieldAt p 0 1
  let pos := fieldAt p 1 1
  if 63 < sq ∨ 7 < pos then (.no 0x03 0, s)
  else if !s.boot.ready then (.no 0x0C 0, s)
  else
    let q := s.sqr sq
    if s.board.spare = 2 ∨ !spareFree q ∨ q.st = .failed ∨ (lostLogical q pos).isNone then (refuse 0, s)
    else (.later (.spare sq pos), s)

/-- SPARE_NOW (R475). -/
def execSpareNow (f : Frame) (s : State) : Host.Outcome State Fault Refusal :=
  .next (command { op := 0x62, slots := some [0, 1], len := len 2 } f spareNow s)

/-! ### Unknown opcodes, responses and time (R455, R457, R462, R463, R465) -/

/-- The opcodes of Table 11.6. -/
def knownOpcodes : List Byte :=
  [0x01, 0x02, 0x03, 0x04, 0x05, 0x10, 0x11, 0x12, 0x20, 0x21, 0x22, 0x30, 0x31, 0x32, 0x40, 0x41, 0x50,
    0x51, 0x60, 0x61, 0x62]

/-- UNKNOWN_COMMAND (R457, R458): BAD_LENGTH, else BAD_OPCODE, which parts BAD_TAGs that would else be in a row
    (R464).  An opcode of the set is no unknown command. -/
def execUnknownCommand (opcode : Byte) (f : Frame) (s : State) : Host.Outcome State Fault Refusal :=
  if knownOpcodes.contains opcode || f.addr != targetAddr s then .next s
  else if nacks s then .next (s.emit .i3cNack)
  else .next (respond opcode (if countOkFrame f then 0x01 else 0x02) f.seq (leBytes 4 0)
    (s.session.map Session.key) { s with session := s.session.map fun x => { x with badTags := 0 } })

/-- The response is read and the slot is free; the device reset that it answered starts (R474). -/
def readResponse (r : List Byte) (s : State) : State :=
  let pend := s.i3c.ibiPend.filter (· != 0xA1)
  let s1 := { s.emit (.i3cRead r) with cmd := {}, i3c := { s.i3c with ibiPend := pend } }
  if s.boot.resetDue then deviceReset 2 (Config.freeBool s.free) { s1 with free := s.free + 1 } else s1

/-- RESPONSE_READ (R455, R474): a private read at the part's address, `targetAddr`, NACKed where no response is
    ready.  FORCE_OPENING at the start of a reset is an input that the read does not give (log entry 65): a free
    value. -/
def execResponseRead (s : State) : Host.Outcome State Fault Refusal :=
  match s.cmd.response with
  | some r => if stewardRuns s then .next (readResponse r s) else .next (s.emit .i3cNack)
  | none => .next (s.emit .i3cNack)

/-- SESSION_TIMEOUT (R465). -/
def execSessionTimeout (s : State) : Host.Outcome State Fault Refusal := .next { s with session := none }

/-- LOCKOUT_EXPIRY (R463). -/
def execLockoutExpiry (slot : Fin 4) (s : State) : Host.Outcome State Fault Refusal :=
  .next (setLockout slot.val { lockoutOf s slot.val with left := 0 } s)

/-- OPEN_NONCE_EXPIRY (R462). -/
def execOpenNonceExpiry (s : State) : Host.Outcome State Fault Refusal := .next { s with np := none }

end Sys2Proof.Machine
end

