-- ==== Sys2Proof/Machine/System.lean ====
section
/-! DEFINITION. System instructions, gates, returns and the stores of control registers that the table names. -/

namespace Sys2Proof.Machine

/-! ### Waits -/

/-- A wait for the VSU (R175, R678): held work counts as completed.  Where R255 bars the held event, in a delay
    slot or after GATE or GRET, the waiting instruction completes (log entry 81). -/
def waitVsu (e : Nat) : EM Unit := do
  if vsuBusy (← engM e) then hold

/-- FENCE.L (Table 2.5). -/
def fenceLocal (e : Nat) : EM Unit := waitVsu e

/-- FENCE.D: every earlier write is visible on the device, and the data cache is empty. -/
def fenceDevice (e : Nat) : EM Unit := do
  fenceLocal e
  updE e fun x => { x with caches := { x.caches with dc := [] } }

/-- FENCE.S: every write to the host and to remote devices has completed, and a deferred write error
    is raised, which clears its record (R549). -/
def fenceSystem (e : Nat) : EM Unit := do
  fenceDevice e
  if writesOut (← get) e then hold
  match (← engM e).defer with
  | none => pure ()
  | some (va, acc) =>
    updE e fun x => { x with defer := none }
    raise { code := 0x06, acc := acc, faddr := va }

/-- A system instruction: sub and r fields and the immediate of Table 4.13. -/
def sysInst (w : BitVec 32) (run : EM Flow) : Inst := { word := w, run := run }

/-! ### Gates (R235 to R238) -/

/-- The gate-table address of an index (R235). -/
def gateAddr (x : Engine) (idx : BitVec 12) : Word :=
  ea48 ((x.trap.gatebase &&& 0xFFFFFFFFFFF8#64) + 8 * idx.setWidth 64)

/-- The gate frame of R238: a frame of R244 with CODE 0x3E, the next address and FLAGS 0. -/
def gateFrame (x : Engine) : Frame64 :=
  { pc := ea48 (x.pc + 4), status := statusWord x.trap, cause := (x.trap.cause &&& ~~~0xFF#64) ||| 0x3E,
    faddr := x.trap.faddr, vprog := x.vec.vprog.setWidth 64, vpc := 0, flags := 0, btgt := 0 }

/-- A gate call whose push failed: a double fault, or a fail-stop without a vector table (R238,
    R240).  With no vector table and DBL = 1 R240 and R253 both apply and the spec does not say which goes
    first: here the triple fault resets the engine, and with DBL = 0 the engine stops with CODE 0 (log entry
    65). -/
def gateDouble (e : Nat) (f : Frame64) (fail : Word) (s : State) : State :=
  let x := s.eng e
  if x.trap.vecbase.getLsbD 63 || x.trap.dbl then
    doubleFault e f 0x3E x.mode x.trap.ring x.trap.cause x.trap.faddr fail s
  else
    failStop e (causeWord { code := 0, acc := 7, detail := 0x3E } x.mode x.trap.ring) fail s

/-! ### GRET (R249) -/

/-- The registers that GRET of an exception frame restores. -/
def gretRestore (f : Frame64) (c : BitVec 2) (x : Engine) : Engine :=
  let y := applyAllSync { x with
    vec := { x.vec with vprog := f.vprog.setWidth 24 }
    loops := { x.loops with st := (f.flags &&& 0xFF0F).setWidth 16 } }
  if c = 0 then
    { y with trap := { y.trap with cause := f.cause &&& 0x7F0FFFF7FF, faddr := f.faddr } }
  else y

/-- The held group goes on from an element: it translates and reads everything afresh (R305). -/
def resumeHead (prog : Nat) (q : List VGroup) : List VGroup :=
  match restHead q with
  | g :: gs => { g with start := prog, prog := prog, pages := [], undo := [], fill := [], bits := [] } :: gs
  | [] => []

/-- The release of a held VSU (R249, R260, R305): the held group goes on from VPROG, which returns
    to 0. -/
def releaseVsu (x : Engine) : Engine :=
  { x with
    trap := { x.trap with vheld := false }
    vec := { x.vec with q := resumeHead x.vec.vprog.toNat x.vec.q, vprog := 0 } }

/-- A released group does not go on before its chain resumes (R402): meanwhile it is stopped in place, and VPROG
    shows where (R306). -/
def stayStopped (e : Nat) (s : State) : State :=
  if chainFrozen s e then
    s.modEng e fun x => match x.vec.q with
      | g :: _ => { x with vec := { x.vec with stopped := true, vprog := BitVec.ofNat 24 g.prog } }
      | [] => x
  else s

/-- GRET: its frame popped, and where the stream goes on. -/
def gretBody (e : Nat) : EM Flow := do
  let x ← engM e
  let c := x.trap.ring
  let sp := x.stk[c.toNat]
  let f := Frame64.ofBytes (← readTable e c (sp.setWidth 64) 64)
  let r : BitVec 2 := f.status.setWidth 2
  if r < c then raise { code := 0x04, detail := 1 }
  updE e fun x => { x with
    stk := x.stk.set c.toNat (sp + 64),
    trap := { x.trap with ring := r, ie := if c = 0 then f.status.getLsbD 4 else x.trap.ie } }
  if f.cause.setWidth 8 = 0x3E#8 then return .goto (ea48 f.pc)
  updE e (gretRestore f c)
  if f.flags.getLsbD 18 && (← engM e).trap.vheld then
    updE e releaseVsu
    upd (stayStopped e)
  if f.flags.getLsbD 16 then
    return .resume ⟨ea48 f.pc, f.flags.getLsbD 17, ea48 f.btgt⟩
  else return .goto (ea48 f.pc)

/-! ### Stores of control registers as commands -/

/-- The base of the engine control block (Table 3.3). -/
def ecbBase : Word := 0xFFFF10000000

/-- One 64-bit scalar store of a value to an offset of the control block. -/
def ecbStoreInst (e : Nat) (off : Nat) (v : EM Word) : Inst :=
  { word := wordI 0x1E 0 0 0, mem := true,
    run := do
      storeAt e (ecbBase + BitVec.ofNat 64 off) 8 (← v)
      return .next }

/-! ### The instructions -/

/-- SYNC.C (R175): waits for earlier instructions and applies pending sync-register writes; one that sets
    VSU_HOLD waits for the wake that this starts (R182).  A scalar store that has been posted to the host or to a
    remote device has completed for it (log entry 80). -/
def syncCInst (e : Nat) : Inst :=
  { word := wordS 0x25 0 0 0, slotBad := true,
    run := do
      waitVsu e
      updE e applyAllSync
      if (← engM e).vsu.inWake then hold
      return .next }

/-- SYNC.C on an engine. -/
def execSyncC (e : Eng) (s : State) : Host.Outcome State Fault Refusal :=
  issueOut e (syncCInst e.val) s

/-- SYNC.I (R177): every earlier store has completed, and the instruction cache is empty. -/
def syncIInst (e : Nat) : Inst :=
  { word := wordS 0x25 1 0 0, slotBad := true,
    run := do
      if storesOut (← get) e then hold
      updE e fun x => { x with caches := { x.caches with ic := [] } }
      return .next }

/-- SYNC.I on an engine. -/
def execSyncI (e : Eng) (s : State) : Host.Outcome State Fault Refusal :=
  issueOut e (syncIInst e.val) s

/-- FENCE.L (Table 2.5). -/
def fenceLInst (e : Nat) : Inst :=
  sysInst (wordS 0x25 2 0 0) do fenceLocal e; return .next

/-- FENCE.L on an engine. -/
def execFenceL (e : Eng) (s : State) : Host.Outcome State Fault Refusal :=
  issueOut e (fenceLInst e.val) s

/-- FENCE.D (Table 2.5). -/
def fenceDInst (e : Nat) : Inst :=
  sysInst (wordS 0x25 3 0 0) do fenceDevice e; return .next

/-- FENCE.D on an engine. -/
def execFenceD (e : Eng) (s : State) : Host.Outcome State Fault Refusal :=
  issueOut e (fenceDInst e.val) s

/-- FENCE.S (Table 2.5, R549). -/
def fenceSInst (e : Nat) : Inst :=
  sysInst (wordS 0x25 4 0 0) do fenceSystem e; return .next

/-- FENCE.S on an engine. -/
def execFenceS (e : Eng) (s : State) : Host.Outcome State Fault Refusal :=
  issueOut e (fenceSInst e.val) s

/-- GATE (R236 to R238).  The push of its frame tests STKn[3:0] as an exception's does: R139 names an exception
    frame alone, R238 the rules of R246 (log entry 65). -/
def gateInst (e : Nat) (index : BitVec 12) : Inst :=
  { word := wordS 0x25 5 0 (index.setWidth 16), slotBad := true, loopBad := true, enters := true,
    run := do
      let x ← engM e
      let a := gateAddr x index
      let gatef (d : Byte) : EM Unit := raise { code := 0x09, detail := d, faddr := a }
      if !x.trap.gatebase.getLsbD 63 || decide (x.trap.gatebase.extractLsb' 48 12 < index) then gatef 1
      let ent := BitVec.ofNat 64 (leNat (← readTable e 0 a 8))
      if !ent.getLsbD 63 then gatef 2
      let c := x.trap.ring
      let t : BitVec 2 := ent.setWidth 2
      if ent.extractLsb' 48 2 < c then gatef 3
      if c < t then gatef 4
      let f := gateFrame x
      match ← liftP (pushFrame e t f) with
      | (true, sp) =>
        updE e fun x => { x with stk := x.stk.set t.toNat sp, trap := { x.trap with ring := t } }
        return .goto (ent &&& 0xFFFFFFFFFFFC#64)
      | (false, sp) =>
        upd (gateDouble e f (sp.setWidth 64))
        return .done }

/-- GATE on an engine. -/
def execGate (e : Eng) (index : BitVec 12) (s : State) : Host.Outcome State Fault Refusal :=
  issueOut e (gateInst e.val index) s

/-- GRET (R249, R250). -/
def gretInst (e : Nat) : Inst :=
  { word := wordS 0x25 6 0 0, slotBad := true, loopBad := true, enters := true, run := gretBody e }

/-- GRET on an engine. -/
def execGret (e : Eng) (s : State) : Host.Outcome State Fault Refusal :=
  issueOut e (gretInst e.val) s

/-- JEND (R67, R228): the order of FENCE.S, and the engine ends its part of the job. -/
def jendInst (e : Nat) : Inst :=
  { word := wordS 0x25 7 0 0, slotBad := true, loopBad := true, priv := true,
    run := do
      fenceSystem e
      updE e fun x => { x with run := .ended }
      return .next }

/-- JEND on an engine. -/
def execJend (e : Eng) (s : State) : Host.Outcome State Fault Refusal :=
  issueOut e (jendInst e.val) s

/-- WFI (R228, R229): waits for a pending and enabled interrupt or a debug halt. -/
def wfiInst (e : Nat) : Inst :=
  { word := wordS 0x25 8 0 0, priv := true, wfi := true,
    run := do
      updE e fun x => { x with wfi := true }
      if !wfiDone (← engM e) then hold
      return .next }

/-- WFI on an engine. -/
def execWfi (e : Eng) (s : State) : Host.Outcome State Fault Refusal :=
  issueOut e (wfiInst e.val) s

/-- BRK (R230, R634): halts at the BRK itself, or ILLEGAL with DETAIL 3. -/
def brkInst (e : Nat) (code : BitVec 16) : Inst :=
  sysInst (wordS 0x25 9 0 code) do
    if (← engM e).dbg.haltBrk then
      upd (haltEngine e 2)
      return .done
    else raise (illegalEv (wordS 0x25 9 0 code) 3)

/-- BRK on an engine. -/
def execBrk (e : Eng) (code : BitVec 16) (s : State) : Host.Outcome State Fault Refusal :=
  issueOut e (brkInst e.val code) s

/-- MTM (R231): the fields of a mask register; m0 discards. -/
def mtmInst (e : Nat) (k : BitVec 3) (ra : Reg) : Inst :=
  sysInst (wordS 0x25 10 ra (k.setWidth 16)) do
    updE e fun x =>
      if k = 0 then x else { x with m := x.m.set k.toNat ((x.reg ra).setWidth 8 &&& 0xCF) }
    return .next

/-- MTM on an engine. -/
def execMtm (e : Eng) (k : BitVec 3) (ra : Reg) (s : State) : Host.Outcome State Fault Refusal :=
  issueOut e (mtmInst e.val k ra) s

/-- MFM (R231). -/
def mfmInst (e : Nat) (rd : Reg) (k : BitVec 3) : Inst :=
  sysInst (wordS 0x25 11 rd (k.setWidth 16)) do
    updE e fun x => x.setReg rd (x.m[k.toNat].setWidth 64)
    return .next

/-- MFM on an engine. -/
def execMfm (e : Eng) (rd : Reg) (k : BitVec 3) (s : State) : Host.Outcome State Fault Refusal :=
  issueOut e (mfmInst e.val rd k) s

/-- A 64-bit store of a value to a sync register (R146). -/
def syncRegisterStoreInst (e : Nat) (off : BitVec 12) (v : Word) : Inst :=
  ecbStoreInst e off.toNat (pure v)

/-- SYNC.REGISTER.STORE on an engine. -/
def execSyncRegisterStore (e : Eng) (off : BitVec 12) (v : Word) (s : State) :
    Host.Outcome State Fault Refusal :=
  issueOut e (syncRegisterStoreInst e.val off v) s

/-- A store that writes 1 to EC_STATUS.VDROP and keeps IE and DBL (R261). -/
def vdropInst (e : Nat) : Inst :=
  ecbStoreInst e 0x080 do
    return 0x400 ||| flag 4 (← engM e).trap.ie

/-- VDROP on an engine. -/
def execVdrop (e : Eng) (s : State) : Host.Outcome State Fault Refusal :=
  issueOut e (vdropInst e.val) s

/-- A store that sets or clears EC_IPEND.SOFT and leaves TND (R254). -/
def softwareInterruptInst (e : Nat) (set : Bool) : Inst :=
  ecbStoreInst e 0x0B0 (pure (if set then 2 else 0))

/-- SOFTWARE.INTERRUPT on an engine. -/
def execSoftwareInterrupt (e : Eng) (set : Bool) (s : State) : Host.Outcome State Fault Refusal :=
  issueOut e (softwareInterruptInst e.val set) s

/-- A store to EC_TMARK (R648). -/
def traceMarkInst (e : Nat) (v : Word) : Inst :=
  ecbStoreInst e 0x800 (pure v)

/-- TRACE.MARK on an engine. -/
def execTraceMark (e : Eng) (v : Word) (s : State) : Host.Outcome State Fault Refusal :=
  issueOut e (traceMarkInst e.val v) s

/-- A store to EC_WD_CTL (R612). -/
def ecWdCtlStoreInst (e : Nat) (v : Word) : Inst :=
  ecbStoreInst e 0x0C0 (pure v)

/-- EC.WD.CTL.STORE on an engine. -/
def execEcWdCtlStore (e : Eng) (v : Word) (s : State) : Host.Outcome State Fault Refusal :=
  issueOut e (ecWdCtlStoreInst e.val v) s

/-- A store to EC_WD_KICK (R609). -/
def watchdogKickInst (e : Nat) (v : Word) : Inst :=
  ecbStoreInst e 0x0C8 (pure v)

/-- WATCHDOG.KICK on an engine. -/
def execWatchdogKick (e : Eng) (v : Word) (s : State) : Host.Outcome State Fault Refusal :=
  issueOut e (watchdogKickInst e.val v) s

/-- A WFI that has waited and whose condition holds completes (R229). -/
def finishWfi (e : Nat) (s : State) : State := if wfiDone (s.eng e) then s.modEng e wfiCommit else s

/-- WATCHDOG_LATE (R609): the count of an enabled watchdog has reached CLOSE, and it bites. -/
def execWatchdogLate (e : Eng) (s : State) : Host.Outcome State Fault Refusal :=
  .next (s.modEng e.val fun x => if x.wd.en && decide (x.wd.close ≤ x.wd.t) then wdBite false x else x)

end Sys2Proof.Machine
end

