-- ==== Sys2Proof/Machine/Control.lean ====
section
/-! DEFINITION. The vector control instructions (R349 to R354). -/

namespace Sys2Proof.Machine

/-! ### Vector length (R287, R288) -/

/-- VLMAX of a SETVL class for a group size (Table 6.7). -/
def vlMax (g : Nat) (cls : BitVec 3) : Nat :=
  match cls.toNat with
  | 0 => 16777215
  | 1 => 8192 * g
  | 2 => 1024 * g
  | 3 => 512 * g
  | 4 => 256 * g
  | 5 => 128 * g
  | _ => 64 * g

/-! ### Chains and queues as an instruction sees them (R353, R354) -/

/-- CHRESUME: 2 when the chain was aborted and this member is ABORTED, which it leaves (R406); 0 when a
    freeze affects it, which it marks (R401); else 1. -/
def chresume (e : Nat) (s : State) : Word × State :=
  match lengOf s e with
  | none => (1, s)
  | some n =>
    match chainOf s n with
    | none => (1, s)
    | some c =>
      let ch := chainSt s c
      if n ∈ ch.aborted then (2, leaveAborted c n s)
      else if ch.frozen then (0, tryResume c (markMember c n s))
      else (1, s)

/-- Is the movement of an engine's queues frozen by its chain or by debug (Table 7.19, R400, R642)? -/
def queueFrozen (s : State) (e : Nat) : Bool :=
  let d := (s.eng e).dbg
  (d.halted && d.frz.getLsbD 3) ||
    match (lengOf s e).bind (chainOf s) with
    | some c => (chainSt s c).frozen
    | none => false

/-- VQCNT's result (Table 7.19). -/
def queueState (s : State) (e n : Nat) : Word :=
  let q := (s.eng e).cq.toList.getD n {}
  flag 5 (queueFrozen s e) ||| flag 4 (q.strips.any fun t => t.eop) ||| place 0 4 q.strips.length

/-! ### The instructions -/

/-- SETVL (R287, R351): class 7 is reserved. -/
def setvlInst (e : Nat) (rd ra : Reg) (cls : BitVec 3) : Inst :=
  { word := wordVS 0x30 0 rd ra (cls.setWidth 11), reserved := if cls = 7 then some 3 else none, control := true,
    run := do
      updE e fun x =>
        let n := min (x.reg ra).toNat (vlMax (2 ^ x.vec.gs.toNat) cls)
        ({ x with vec := { x.vec with vl := BitVec.ofNat 24 n } }).setReg rd (BitVec.ofNat 64 n)
      return .next }

/-- SETVL on an engine. -/
def execSetvl (e : Eng) (rd ra : Reg) (cls : BitVec 3) (s : State) :
    Host.Outcome State Fault Refusal :=
  issueOut e (setvlInst e.val rd ra cls) s

/-- VBARRIER (R352): waits for the VSU. -/
def vbarrierInst (e : Nat) : Inst :=
  { word := wordVS 0x30 1 0 0 0, barrier := true, control := true,
    run := do
      waitVsu e
      return .next }

/-- VBARRIER on an engine. -/
def execVbarrier (e : Eng) (s : State) : Host.Outcome State Fault Refusal :=
  issueOut e (vbarrierInst e.val) s

/-- CHRESUME (R353, R401, R406): the status of Table 7.18. -/
def chresumeInst (e : Nat) (rd : Reg) : Inst :=
  { word := wordVS 0x30 2 rd 0 0, control := true,
    run := do
      let st ← liftP (chresume e)
      updE e fun x => x.setReg rd st
      return .next }

/-- CHRESUME on an engine. -/
def execChresume (e : Eng) (rd : Reg) (s : State) : Host.Outcome State Fault Refusal :=
  issueOut e (chresumeInst e.val rd) s

/-- VQCNT (R354). -/
def vqcntInst (e : Nat) (rd : Reg) (n : BitVec 2) : Inst :=
  { word := wordVS 0x30 3 rd 0 (n.setWidth 11), control := true,
    run := do
      let s ← get
      updE e fun x => x.setReg rd (queueState s e n.toNat)
      return .next }

/-- VQCNT on an engine. -/
def execVqcnt (e : Eng) (rd : Reg) (n : BitVec 2) (s : State) : Host.Outcome State Fault Refusal :=
  issueOut e (vqcntInst e.val rd n) s

end Sys2Proof.Machine
end

