-- ==== Sys2Proof/Machine/Float.lean ====
section
/-! DEFINITION. Scalar floating point (R207 to R213). -/

namespace Sys2Proof.Machine

/-! ### Registers and flags -/

/-- A floating-point operand of a register: bits 31:0 for binary32 (R136). -/
def fpReg (x : Engine) (p : Bool) (r : Reg) : Nat := (x.reg r).toNat % 2 ^ (fmtOf p).width

/-- The function field of opcodes 0x0E and 0x10: an operation and the precision (R207). -/
def fpFn (op : Nat) (p : Bool) : BitVec 11 := BitVec.ofNat 11 (2 * op + (if p then 1 else 0))

/-- The delivery of a scalar result (R211, R364): DENORM, FPTRAP with the flags that trap, or the
    flags ORed into FFLAGS and the registers written. -/
def fpDeliver (e : Nat) (r : FRes) (wr : Engine → Word → Engine) : EM Flow := do
  match r with
  | .denorm => raise { code := 0x0E }
  | .val n fl =>
    let x ← engM e
    let traps := fl &&& teOf x.fctl
    if traps ≠ 0 then raise { code := 0x0D, detail := traps.setWidth 8 }
    updE e fun x => { wr x (BitVec.ofNat 64 n) with fflags := x.fflags ||| fl.setWidth 7 }
    return .next

/-- An instruction of opcode 0x0E: a result of the engine's registers and FCTL into gd. -/
def fpInst (e : Nat) (w : BitVec 32) (rd : Reg) (f : Engine → FRes) : Inst :=
  { word := w, run := do fpDeliver e (f (← engM e)) fun x v => x.setReg rd v }

/-- An operation of opcode 0x0E with two sources. -/
def fp2Inst (e op : Nat) (p : Bool) (rd ra rb : Reg) (f : FFmt → Word → Nat → Nat → FRes) : Inst :=
  fpInst e (wordR 0x0E rd ra rb (fpFn op p)) rd fun x =>
    f (fmtOf p) x.fctl (fpReg x p ra) (fpReg x p rb)

/-- An operation of opcode 0x0E with one source. -/
def fp1Inst (e op : Nat) (p : Bool) (rd ra : Reg) (f : FFmt → Word → Nat → FRes) : Inst :=
  fpInst e (wordR 0x0E rd ra 0 (fpFn op p)) rd fun x => f (fmtOf p) x.fctl (fpReg x p ra)

/-- A conversion from an integer register. -/
def fpIntInst (e op : Nat) (p : Bool) (rd ra : Reg) (f : Word → Int) : Inst :=
  fpInst e (wordR 0x0E rd ra 0 (fpFn op p)) rd fun x =>
    (fmtOf p).ofInt (rmOf x.fctl) (dnOf x.fctl) (f (x.reg ra))

/-- An operation of opcode 0x0F (R208). -/
def fmaInst' (e op : Nat) (p : Bool) (rd ra rb rc : Reg) (negA negC : Bool) : Inst :=
  fpInst e (wordR4 0x0F rd ra rb rc (BitVec.ofNat 6 (2 * op + (if p then 1 else 0)))) rd fun x =>
    ffma negA negC (fmtOf p) x.fctl (fpReg x p ra) (fpReg x p rb) (fpReg x p rc)

/-- A START or STEP of opcode 0x10 on the pair gd (R213): the operands that it reads, with DENORM as
    its one exception, and the new pair. -/
def fpStepInst (e : Nat) (w : BitVec 32) (p : Bool) (rd : Reg) (ops : List Reg)
    (f : List FVal → Word → Word → Word × Word) : Inst :=
  { word := w, illegal := !pairOk rd,
    run := do
      let x ← engM e
      let vs := ops.map fun r => (fmtOf p).operand (dnOf x.fctl) (fpReg x p r)
      if vs.any Option.isNone then raise { code := 0x0E }
      updE e fun x =>
        let q := f (vs.filterMap id) (x.reg rd) (x.reg (nextReg rd))
        x.setPair rd q.1 q.2
      return .next }

/-- An END of opcode 0x10: the rounded result in gd and 0 in gd+1. -/
def fpEndInst (e : Nat) (w : BitVec 32) (rd : Reg) (f : Engine → Word → Word → FRes) : Inst :=
  { word := w, illegal := !pairOk rd,
    run := do
      let x ← engM e
      fpDeliver e (f x (x.reg rd) (x.reg (nextReg rd))) fun x v => x.setPair rd v 0 }

/-! ### The instructions -/

/-- FADD (Table 4.7). -/
def faddInst (e : Nat) (p : Bool) (rd ra rb : Reg) : Inst :=
  fp2Inst e 0 p rd ra rb fadd

/-- FADD on an engine. -/
def execFadd (e : Eng) (p : Bool) (rd ra rb : Reg) (s : State) : Host.Outcome State Fault Refusal :=
  issueOut e (faddInst e.val p rd ra rb) s

/-- FSUB (Table 4.7). -/
def fsubInst (e : Nat) (p : Bool) (rd ra rb : Reg) : Inst :=
  fp2Inst e 1 p rd ra rb fsub

/-- FSUB on an engine. -/
def execFsub (e : Eng) (p : Bool) (rd ra rb : Reg) (s : State) : Host.Outcome State Fault Refusal :=
  issueOut e (fsubInst e.val p rd ra rb) s

/-- FMUL (Table 4.7). -/
def fmulInst (e : Nat) (p : Bool) (rd ra rb : Reg) : Inst :=
  fp2Inst e 2 p rd ra rb fmul

/-- FMUL on an engine. -/
def execFmul (e : Eng) (p : Bool) (rd ra rb : Reg) (s : State) : Host.Outcome State Fault Refusal :=
  issueOut e (fmulInst e.val p rd ra rb) s

/-- FMIN (Table 4.7). -/
def fminInst (e : Nat) (p : Bool) (rd ra rb : Reg) : Inst :=
  fp2Inst e 3 p rd ra rb fmin

/-- FMIN on an engine. -/
def execFmin (e : Eng) (p : Bool) (rd ra rb : Reg) (s : State) : Host.Outcome State Fault Refusal :=
  issueOut e (fminInst e.val p rd ra rb) s

/-- FMAX (Table 4.7). -/
def fmaxInst (e : Nat) (p : Bool) (rd ra rb : Reg) : Inst :=
  fp2Inst e 4 p rd ra rb fmax

/-- FMAX on an engine. -/
def execFmax (e : Eng) (p : Bool) (rd ra rb : Reg) (s : State) : Host.Outcome State Fault Refusal :=
  issueOut e (fmaxInst e.val p rd ra rb) s

/-- FEQ (Table 4.7). -/
def feqInst (e : Nat) (p : Bool) (rd ra rb : Reg) : Inst :=
  fp2Inst e 7 p rd ra rb feq

/-- FEQ on an engine. -/
def execFeq (e : Eng) (p : Bool) (rd ra rb : Reg) (s : State) : Host.Outcome State Fault Refusal :=
  issueOut e (feqInst e.val p rd ra rb) s

/-- FLT (Table 4.7). -/
def fltInst (e : Nat) (p : Bool) (rd ra rb : Reg) : Inst :=
  fp2Inst e 8 p rd ra rb flt

/-- FLT on an engine. -/
def execFlt (e : Eng) (p : Bool) (rd ra rb : Reg) (s : State) : Host.Outcome State Fault Refusal :=
  issueOut e (fltInst e.val p rd ra rb) s

/-- FLE (Table 4.7). -/
def fleInst (e : Nat) (p : Bool) (rd ra rb : Reg) : Inst :=
  fp2Inst e 9 p rd ra rb fle

/-- FLE on an engine. -/
def execFle (e : Eng) (p : Bool) (rd ra rb : Reg) (s : State) : Host.Outcome State Fault Refusal :=
  issueOut e (fleInst e.val p rd ra rb) s

/-- FUN (Table 4.7). -/
def funInst (e : Nat) (p : Bool) (rd ra rb : Reg) : Inst :=
  fp2Inst e 10 p rd ra rb fun'

/-- FUN on an engine. -/
def execFunord (e : Eng) (p : Bool) (rd ra rb : Reg) (s : State) : Host.Outcome State Fault Refusal :=
  issueOut e (funInst e.val p rd ra rb) s

/-- FABS (Table 4.7). -/
def fabsInst (e : Nat) (p : Bool) (rd ra : Reg) : Inst :=
  fp1Inst e 5 p rd ra fabs

/-- FABS on an engine. -/
def execFabs (e : Eng) (p : Bool) (rd ra : Reg) (s : State) : Host.Outcome State Fault Refusal :=
  issueOut e (fabsInst e.val p rd ra) s

/-- FNEG (Table 4.7). -/
def fnegInst (e : Nat) (p : Bool) (rd ra : Reg) : Inst :=
  fp1Inst e 6 p rd ra fneg

/-- FNEG on an engine. -/
def execFneg (e : Eng) (p : Bool) (rd ra : Reg) (s : State) : Host.Outcome State Fault Refusal :=
  issueOut e (fnegInst e.val p rd ra) s

/-- FCVT (Table 4.7): P names the source precision. -/
def fcvtInst (e : Nat) (p : Bool) (rd ra : Reg) : Inst :=
  fpInst e (wordR 0x0E rd ra 0 (fpFn 16 p)) rd fun x =>
    fcvt (fmtOf p) (fmtOf !p) x.fctl (fpReg x p ra)

/-- FCVT on an engine. -/
def execFcvt (e : Eng) (p : Bool) (rd ra : Reg) (s : State) : Host.Outcome State Fault Refusal :=
  issueOut e (fcvtInst e.val p rd ra) s

/-- FTOI (R209). -/
def ftoiInst (e : Nat) (p : Bool) (rd ra : Reg) : Inst :=
  fp1Inst e 17 p rd ra fun f c => ftoint f c (rmOf c) true 64

/-- FTOI on an engine. -/
def execFtoi (e : Eng) (p : Bool) (rd ra : Reg) (s : State) : Host.Outcome State Fault Refusal :=
  issueOut e (ftoiInst e.val p rd ra) s

/-- FTOIZ (R209): rounded toward zero. -/
def ftoizInst (e : Nat) (p : Bool) (rd ra : Reg) : Inst :=
  fp1Inst e 18 p rd ra fun f c => ftoint f c 1 true 64

/-- FTOIZ on an engine. -/
def execFtoiz (e : Eng) (p : Bool) (rd ra : Reg) (s : State) : Host.Outcome State Fault Refusal :=
  issueOut e (ftoizInst e.val p rd ra) s

/-- FTOU (R209). -/
def ftouInst (e : Nat) (p : Bool) (rd ra : Reg) : Inst :=
  fp1Inst e 19 p rd ra fun f c => ftoint f c (rmOf c) false 64

/-- FTOU on an engine. -/
def execFtou (e : Eng) (p : Bool) (rd ra : Reg) (s : State) : Host.Outcome State Fault Refusal :=
  issueOut e (ftouInst e.val p rd ra) s

/-- ITOF (Table 4.7). -/
def itofInst (e : Nat) (p : Bool) (rd ra : Reg) : Inst :=
  fpIntInst e 20 p rd ra fun a => a.toInt

/-- ITOF on an engine. -/
def execItof (e : Eng) (p : Bool) (rd ra : Reg) (s : State) : Host.Outcome State Fault Refusal :=
  issueOut e (itofInst e.val p rd ra) s

/-- UTOF (Table 4.7). -/
def utofInst (e : Nat) (p : Bool) (rd ra : Reg) : Inst :=
  fpIntInst e 21 p rd ra fun a => a.toNat

/-- UTOF on an engine. -/
def execUtof (e : Eng) (p : Bool) (rd ra : Reg) (s : State) : Host.Outcome State Fault Refusal :=
  issueOut e (utofInst e.val p rd ra) s

/-- FMA (Table 4.8, R367). -/
def fmaInst (e : Nat) (p : Bool) (rd ra rb rc : Reg) : Inst :=
  fmaInst' e 0 p rd ra rb rc false false

/-- FMA on an engine. -/
def execFma (e : Eng) (p : Bool) (rd ra rb rc : Reg) (s : State) :
    Host.Outcome State Fault Refusal :=
  issueOut e (fmaInst e.val p rd ra rb rc) s

/-- FMS (Table 4.8, R367). -/
def fmsInst (e : Nat) (p : Bool) (rd ra rb rc : Reg) : Inst :=
  fmaInst' e 1 p rd ra rb rc false true

/-- FMS on an engine. -/
def execFms (e : Eng) (p : Bool) (rd ra rb rc : Reg) (s : State) :
    Host.Outcome State Fault Refusal :=
  issueOut e (fmsInst e.val p rd ra rb rc) s

/-- FNMA (Table 4.8, R367). -/
def fnmaInst (e : Nat) (p : Bool) (rd ra rb rc : Reg) : Inst :=
  fmaInst' e 2 p rd ra rb rc true false

/-- FNMA on an engine. -/
def execFnma (e : Eng) (p : Bool) (rd ra rb rc : Reg) (s : State) :
    Host.Outcome State Fault Refusal :=
  issueOut e (fnmaInst e.val p rd ra rb rc) s

/-- FNMS (Table 4.8, R367). -/
def fnmsInst (e : Nat) (p : Bool) (rd ra rb rc : Reg) : Inst :=
  fmaInst' e 3 p rd ra rb rc true true

/-- FNMS on an engine. -/
def execFnms (e : Eng) (p : Bool) (rd ra rb rc : Reg) (s : State) :
    Host.Outcome State Fault Refusal :=
  issueOut e (fnmsInst e.val p rd ra rb rc) s

/-- FDSTART (R377): the significand of ga, and no quotient bits. -/
def fdstartInst (e : Nat) (p : Bool) (rd ra rb : Reg) : Inst :=
  fpStepInst e (wordR 0x10 rd ra rb (fpFn 0 p)) p rd [ra, rb] fun vs _ _ =>
    (BitVec.ofNat 64 (vs.headD (.zero false)).sig, 0)

/-- FDSTART on an engine. -/
def execFdstart (e : Eng) (p : Bool) (rd ra rb : Reg) (s : State) :
    Host.Outcome State Fault Refusal :=
  issueOut e (fdstartInst e.val p rd ra rb) s

/-- FDSTEP (R377): two quotient bits; it reads the divisor. -/
def fdstepInst (e : Nat) (p : Bool) (rd rb : Reg) : Inst :=
  fpStepInst e (wordR 0x10 rd 0 rb (fpFn 1 p)) p rd [rb] fun vs r q =>
    divStep (vs.headD (.zero false)).sig r q

/-- FDSTEP on an engine. -/
def execFdstep (e : Eng) (p : Bool) (rd rb : Reg) (s : State) : Host.Outcome State Fault Refusal :=
  issueOut e (fdstepInst e.val p rd rb) s

/-- FDEND (R213, R377): the rounded quotient. -/
def fdendInst (e : Nat) (p : Bool) (rd ra rb : Reg) : Inst :=
  fpEndInst e (wordR 0x10 rd ra rb (fpFn 2 p)) rd fun x r q =>
    fop2 (fmtOf p) (dnOf x.fctl)
      (fun a b => (fmtOf p).divEnd (rmOf x.fctl) (dnOf x.fctl) a b r q) (fpReg x p ra) (fpReg x p rb)

/-- FDEND on an engine. -/
def execFdend (e : Eng) (p : Bool) (rd ra rb : Reg) (s : State) :
    Host.Outcome State Fault Refusal :=
  issueOut e (fdendInst e.val p rd ra rb) s

/-- FSSTART (R378): the initial remainder, and no root bits. -/
def fsstartInst (e : Nat) (p : Bool) (rd ra : Reg) : Inst :=
  fpStepInst e (wordR 0x10 rd ra 0 (fpFn 3 p)) p rd [ra] fun vs _ _ =>
    ((fmtOf p).rootStart (vs.headD (.zero false)), 0)

/-- FSSTART on an engine. -/
def execFsstart (e : Eng) (p : Bool) (rd ra : Reg) (s : State) : Host.Outcome State Fault Refusal :=
  issueOut e (fsstartInst e.val p rd ra) s

/-- FSSTEP (R378): two root bits. -/
def fsstepInst (e : Nat) (p : Bool) (rd : Reg) : Inst :=
  fpStepInst e (wordR 0x10 rd 0 0 (fpFn 4 p)) p rd [] fun _ r y => (fmtOf p).rootStep r y

/-- FSSTEP on an engine. -/
def execFsstep (e : Eng) (p : Bool) (rd : Reg) (s : State) : Host.Outcome State Fault Refusal :=
  issueOut e (fsstepInst e.val p rd) s

/-- FSEND (R213, R378): the rounded root. -/
def fsendInst (e : Nat) (p : Bool) (rd ra : Reg) : Inst :=
  fpEndInst e (wordR 0x10 rd ra 0 (fpFn 5 p)) rd fun x r y =>
    fop1 (fmtOf p) (dnOf x.fctl)
      (fun a => (fmtOf p).rootEnd (rmOf x.fctl) (dnOf x.fctl) a r y) (fpReg x p ra)

/-- FSEND on an engine. -/
def execFsend (e : Eng) (p : Bool) (rd ra : Reg) (s : State) : Host.Outcome State Fault Refusal :=
  issueOut e (fsendInst e.val p rd ra) s

end Sys2Proof.Machine
end

