-- ==== Sys2Proof/Machine/Packed.lean ====
section
/-! DEFINITION. Packed-digit instructions (R203 to R206). -/

namespace Sys2Proof.Machine

/-- DAJ with the mask of Table 4.6. -/
def dajInst (e : Nat) (rd ra rb : Reg) (fn : BitVec 11) (mask : Word) : Inst :=
  { word := wordR 0x0D rd ra rb fn,
    run := do updE e (fun x => x.setReg rd (daj mask (x.reg ra) (x.reg rb))); return .next }

/-- DADD and DSUB (R205, R206): gd and FFLAGS.DOVF, or the decimal exception with both unchanged. -/
def daddsInst (e : Nat) (rd ra rb : Reg) (fn : BitVec 11) (sub : Bool) : Inst :=
  { word := wordR 0x0D rd ra rb fn,
    run := do
      let x ← engM e
      match dadd sub (x.dctl.getLsbD 12) (x.reg ra) (x.reg rb) with
      | .exc d => raise { code := 0x0F, detail := d }
      | .val w sat =>
        updE e fun x =>
          { x.setReg rd w with fflags := x.fflags ||| (if sat then 0x40 else 0) }
        return .next }

/-- DAJ.B (R204): 2 digits. -/
def dajBInst (e : Nat) (rd ra rb : Reg) : Inst :=
  dajInst e rd ra rb 0x000 0x110

/-- DAJ.B on an engine. -/
def execDajB (e : Eng) (rd ra rb : Reg) (s : State) : Host.Outcome State Fault Refusal :=
  issueOut e (dajBInst e.val rd ra rb) s

/-- DAJ.H (R204): 4 digits. -/
def dajHInst (e : Nat) (rd ra rb : Reg) : Inst :=
  dajInst e rd ra rb 0x001 0x11110

/-- DAJ.H on an engine. -/
def execDajH (e : Eng) (rd ra rb : Reg) (s : State) : Host.Outcome State Fault Refusal :=
  issueOut e (dajHInst e.val rd ra rb) s

/-- DAJ.W (R204): 8 digits. -/
def dajWInst (e : Nat) (rd ra rb : Reg) : Inst :=
  dajInst e rd ra rb 0x002 0x111111110

/-- DAJ.W on an engine. -/
def execDajW (e : Eng) (rd ra rb : Reg) (s : State) : Host.Outcome State Fault Refusal :=
  issueOut e (dajWInst e.val rd ra rb) s

/-- DADD (R205). -/
def daddInst (e : Nat) (rd ra rb : Reg) : Inst :=
  daddsInst e rd ra rb 0x003 false

/-- DADD on an engine. -/
def execDadd (e : Eng) (rd ra rb : Reg) (s : State) : Host.Outcome State Fault Refusal :=
  issueOut e (daddInst e.val rd ra rb) s

/-- DSUB (R205). -/
def dsubInst (e : Nat) (rd ra rb : Reg) : Inst :=
  daddsInst e rd ra rb 0x004 true

/-- DSUB on an engine. -/
def execDsub (e : Eng) (rd ra rb : Reg) (s : State) : Host.Outcome State Fault Refusal :=
  issueOut e (dsubInst e.val rd ra rb) s

end Sys2Proof.Machine
end

