-- ==== Sys2Proof/Machine/Vector.lean ====
section
/-! DEFINITION. The streaming vector instructions of Tables 7.5 to 7.14, each from its word. -/

namespace Sys2Proof.Machine

/-! ### The instructions -/

/-- VFADD (Table 7.5). -/
def vfaddInst (e : Nat) (o : VR) : Inst :=
  streamInst e (wordVR 0x31 o.c o.m o.d o.a o.b o.t 0x00)

/-- VFADD on an engine. -/
def execVfadd (e : Eng) (o : VR) (s : State) : Host.Outcome State Fault Refusal :=
  issueOut e (vfaddInst e.val o) s

/-- VFSUB (Table 7.5). -/
def vfsubInst (e : Nat) (o : VR) : Inst :=
  streamInst e (wordVR 0x31 o.c o.m o.d o.a o.b o.t 0x01)

/-- VFSUB on an engine. -/
def execVfsub (e : Eng) (o : VR) (s : State) : Host.Outcome State Fault Refusal :=
  issueOut e (vfsubInst e.val o) s

/-- VFMUL (Table 7.5). -/
def vfmulInst (e : Nat) (o : VR) : Inst :=
  streamInst e (wordVR 0x31 o.c o.m o.d o.a o.b o.t 0x02)

/-- VFMUL on an engine. -/
def execVfmul (e : Eng) (o : VR) (s : State) : Host.Outcome State Fault Refusal :=
  issueOut e (vfmulInst e.val o) s

/-- VFMIN (Table 7.5). -/
def vfminInst (e : Nat) (o : VR) : Inst :=
  streamInst e (wordVR 0x31 o.c o.m o.d o.a o.b o.t 0x03)

/-- VFMIN on an engine. -/
def execVfmin (e : Eng) (o : VR) (s : State) : Host.Outcome State Fault Refusal :=
  issueOut e (vfminInst e.val o) s

/-- VFMAX (Table 7.5). -/
def vfmaxInst (e : Nat) (o : VR) : Inst :=
  streamInst e (wordVR 0x31 o.c o.m o.d o.a o.b o.t 0x04)

/-- VFMAX on an engine. -/
def execVfmax (e : Eng) (o : VR) (s : State) : Host.Outcome State Fault Refusal :=
  issueOut e (vfmaxInst e.val o) s

/-- VFABS (Table 7.5). -/
def vfabsInst (e : Nat) (o : VR) : Inst :=
  streamInst e (wordVR 0x31 o.c o.m o.d o.a o.b o.t 0x05)

/-- VFABS on an engine. -/
def execVfabs (e : Eng) (o : VR) (s : State) : Host.Outcome State Fault Refusal :=
  issueOut e (vfabsInst e.val o) s

/-- VFNEG (Table 7.5). -/
def vfnegInst (e : Nat) (o : VR) : Inst :=
  streamInst e (wordVR 0x31 o.c o.m o.d o.a o.b o.t 0x06)

/-- VFNEG on an engine. -/
def execVfneg (e : Eng) (o : VR) (s : State) : Host.Outcome State Fault Refusal :=
  issueOut e (vfnegInst e.val o) s

/-- VFEQ (Table 7.5). -/
def vfeqInst (e : Nat) (o : VR) : Inst :=
  streamInst e (wordVR 0x31 o.c o.m o.d o.a o.b o.t 0x07)

/-- VFEQ on an engine. -/
def execVfeq (e : Eng) (o : VR) (s : State) : Host.Outcome State Fault Refusal :=
  issueOut e (vfeqInst e.val o) s

/-- VFLT (Table 7.5). -/
def vfltInst (e : Nat) (o : VR) : Inst :=
  streamInst e (wordVR 0x31 o.c o.m o.d o.a o.b o.t 0x08)

/-- VFLT on an engine. -/
def execVflt (e : Eng) (o : VR) (s : State) : Host.Outcome State Fault Refusal :=
  issueOut e (vfltInst e.val o) s

/-- VFLE (Table 7.5). -/
def vfleInst (e : Nat) (o : VR) : Inst :=
  streamInst e (wordVR 0x31 o.c o.m o.d o.a o.b o.t 0x09)

/-- VFLE on an engine. -/
def execVfle (e : Eng) (o : VR) (s : State) : Host.Outcome State Fault Refusal :=
  issueOut e (vfleInst e.val o) s

/-- VFUN (Table 7.5). -/
def vfunInst (e : Nat) (o : VR) : Inst :=
  streamInst e (wordVR 0x31 o.c o.m o.d o.a o.b o.t 0x0A)

/-- VFUN on an engine. -/
def execVfun (e : Eng) (o : VR) (s : State) : Host.Outcome State Fault Refusal :=
  issueOut e (vfunInst e.val o) s

/-- VCVT (Table 7.5). -/
def vcvtInst (e : Nat) (o : VR) : Inst :=
  streamInst e (wordVR 0x31 o.c o.m o.d o.a o.b o.t 0x10)

/-- VCVT on an engine. -/
def execVcvt (e : Eng) (o : VR) (s : State) : Host.Outcome State Fault Refusal :=
  issueOut e (vcvtInst e.val o) s

/-- VCVTZ (Table 7.5). -/
def vcvtzInst (e : Nat) (o : VR) : Inst :=
  streamInst e (wordVR 0x31 o.c o.m o.d o.a o.b o.t 0x11)

/-- VCVTZ on an engine. -/
def execVcvtz (e : Eng) (o : VR) (s : State) : Host.Outcome State Fault Refusal :=
  issueOut e (vcvtzInst e.val o) s

/-- VFMA (Table 7.7). -/
def vfmaInst (e : Nat) (o : VT) : Inst :=
  streamInst e (wordVT 0x32 o.c o.m o.d o.a o.b o.x 0 o.t)

/-- VFMA on an engine. -/
def execVfma (e : Eng) (o : VT) (s : State) : Host.Outcome State Fault Refusal :=
  issueOut e (vfmaInst e.val o) s

/-- VFMS (Table 7.7). -/
def vfmsInst (e : Nat) (o : VT) : Inst :=
  streamInst e (wordVT 0x32 o.c o.m o.d o.a o.b o.x 1 o.t)

/-- VFMS on an engine. -/
def execVfms (e : Eng) (o : VT) (s : State) : Host.Outcome State Fault Refusal :=
  issueOut e (vfmsInst e.val o) s

/-- VFNMA (Table 7.7). -/
def vfnmaInst (e : Nat) (o : VT) : Inst :=
  streamInst e (wordVT 0x32 o.c o.m o.d o.a o.b o.x 2 o.t)

/-- VFNMA on an engine. -/
def execVfnma (e : Eng) (o : VT) (s : State) : Host.Outcome State Fault Refusal :=
  issueOut e (vfnmaInst e.val o) s

/-- VFNMS (Table 7.7). -/
def vfnmsInst (e : Nat) (o : VT) : Inst :=
  streamInst e (wordVT 0x32 o.c o.m o.d o.a o.b o.x 3 o.t)

/-- VFNMS on an engine. -/
def execVfnms (e : Eng) (o : VT) (s : State) : Host.Outcome State Fault Refusal :=
  issueOut e (vfnmsInst e.val o) s

/-- VADD (Table 7.8). -/
def vaddInst (e : Nat) (o : VR) : Inst :=
  streamInst e (wordVR 0x33 o.c o.m o.d o.a o.b o.t 0x00)

/-- VADD on an engine. -/
def execVadd (e : Eng) (o : VR) (s : State) : Host.Outcome State Fault Refusal :=
  issueOut e (vaddInst e.val o) s

/-- VSUB (Table 7.8). -/
def vsubInst (e : Nat) (o : VR) : Inst :=
  streamInst e (wordVR 0x33 o.c o.m o.d o.a o.b o.t 0x01)

/-- VSUB on an engine. -/
def execVsub (e : Eng) (o : VR) (s : State) : Host.Outcome State Fault Refusal :=
  issueOut e (vsubInst e.val o) s

/-- VMUL (Table 7.8). -/
def vmulInst (e : Nat) (o : VR) : Inst :=
  streamInst e (wordVR 0x33 o.c o.m o.d o.a o.b o.t 0x02)

/-- VMUL on an engine. -/
def execVmul (e : Eng) (o : VR) (s : State) : Host.Outcome State Fault Refusal :=
  issueOut e (vmulInst e.val o) s

/-- VMULH (Table 7.8). -/
def vmulhInst (e : Nat) (o : VR) : Inst :=
  streamInst e (wordVR 0x33 o.c o.m o.d o.a o.b o.t 0x03)

/-- VMULH on an engine. -/
def execVmulh (e : Eng) (o : VR) (s : State) : Host.Outcome State Fault Refusal :=
  issueOut e (vmulhInst e.val o) s

/-- VAND (Table 7.8). -/
def vandInst (e : Nat) (o : VR) : Inst :=
  streamInst e (wordVR 0x33 o.c o.m o.d o.a o.b o.t 0x04)

/-- VAND on an engine. -/
def execVand (e : Eng) (o : VR) (s : State) : Host.Outcome State Fault Refusal :=
  issueOut e (vandInst e.val o) s

/-- VOR (Table 7.8). -/
def vorInst (e : Nat) (o : VR) : Inst :=
  streamInst e (wordVR 0x33 o.c o.m o.d o.a o.b o.t 0x05)

/-- VOR on an engine. -/
def execVor (e : Eng) (o : VR) (s : State) : Host.Outcome State Fault Refusal :=
  issueOut e (vorInst e.val o) s

/-- VXOR (Table 7.8). -/
def vxorInst (e : Nat) (o : VR) : Inst :=
  streamInst e (wordVR 0x33 o.c o.m o.d o.a o.b o.t 0x06)

/-- VXOR on an engine. -/
def execVxor (e : Eng) (o : VR) (s : State) : Host.Outcome State Fault Refusal :=
  issueOut e (vxorInst e.val o) s

/-- VANDN (Table 7.8). -/
def vandnInst (e : Nat) (o : VR) : Inst :=
  streamInst e (wordVR 0x33 o.c o.m o.d o.a o.b o.t 0x07)

/-- VANDN on an engine. -/
def execVandn (e : Eng) (o : VR) (s : State) : Host.Outcome State Fault Refusal :=
  issueOut e (vandnInst e.val o) s

/-- VSHL (Table 7.8). -/
def vshlInst (e : Nat) (o : VR) : Inst :=
  streamInst e (wordVR 0x33 o.c o.m o.d o.a o.b o.t 0x08)

/-- VSHL on an engine. -/
def execVshl (e : Eng) (o : VR) (s : State) : Host.Outcome State Fault Refusal :=
  issueOut e (vshlInst e.val o) s

/-- VSHR (Table 7.8). -/
def vshrInst (e : Nat) (o : VR) : Inst :=
  streamInst e (wordVR 0x33 o.c o.m o.d o.a o.b o.t 0x09)

/-- VSHR on an engine. -/
def execVshr (e : Eng) (o : VR) (s : State) : Host.Outcome State Fault Refusal :=
  issueOut e (vshrInst e.val o) s

/-- VMIN (Table 7.8). -/
def vminInst (e : Nat) (o : VR) : Inst :=
  streamInst e (wordVR 0x33 o.c o.m o.d o.a o.b o.t 0x0A)

/-- VMIN on an engine. -/
def execVmin (e : Eng) (o : VR) (s : State) : Host.Outcome State Fault Refusal :=
  issueOut e (vminInst e.val o) s

/-- VMAX (Table 7.8). -/
def vmaxInst (e : Nat) (o : VR) : Inst :=
  streamInst e (wordVR 0x33 o.c o.m o.d o.a o.b o.t 0x0B)

/-- VMAX on an engine. -/
def execVmax (e : Eng) (o : VR) (s : State) : Host.Outcome State Fault Refusal :=
  issueOut e (vmaxInst e.val o) s

/-- VCEQ (Table 7.8). -/
def vceqInst (e : Nat) (o : VR) : Inst :=
  streamInst e (wordVR 0x33 o.c o.m o.d o.a o.b o.t 0x0C)

/-- VCEQ on an engine. -/
def execVceq (e : Eng) (o : VR) (s : State) : Host.Outcome State Fault Refusal :=
  issueOut e (vceqInst e.val o) s

/-- VCLT (Table 7.8). -/
def vcltInst (e : Nat) (o : VR) : Inst :=
  streamInst e (wordVR 0x33 o.c o.m o.d o.a o.b o.t 0x0D)

/-- VCLT on an engine. -/
def execVclt (e : Eng) (o : VR) (s : State) : Host.Outcome State Fault Refusal :=
  issueOut e (vcltInst e.val o) s

/-- VADDS (Table 7.8). -/
def vaddsInst (e : Nat) (o : VR) : Inst :=
  streamInst e (wordVR 0x33 o.c o.m o.d o.a o.b o.t 0x0E)

/-- VADDS on an engine. -/
def execVadds (e : Eng) (o : VR) (s : State) : Host.Outcome State Fault Refusal :=
  issueOut e (vaddsInst e.val o) s

/-- VSUBS (Table 7.8). -/
def vsubsInst (e : Nat) (o : VR) : Inst :=
  streamInst e (wordVR 0x33 o.c o.m o.d o.a o.b o.t 0x0F)

/-- VSUBS on an engine. -/
def execVsubs (e : Eng) (o : VR) (s : State) : Host.Outcome State Fault Refusal :=
  issueOut e (vsubsInst e.val o) s

/-- VPOPC (Table 7.8). -/
def vpopcInst (e : Nat) (o : VR) : Inst :=
  streamInst e (wordVR 0x33 o.c o.m o.d o.a o.b o.t 0x10)

/-- VPOPC on an engine. -/
def execVpopc (e : Eng) (o : VR) (s : State) : Host.Outcome State Fault Refusal :=
  issueOut e (vpopcInst e.val o) s

/-- VCLZ (Table 7.8). -/
def vclzInst (e : Nat) (o : VR) : Inst :=
  streamInst e (wordVR 0x33 o.c o.m o.d o.a o.b o.t 0x11)

/-- VCLZ on an engine. -/
def execVclz (e : Eng) (o : VR) (s : State) : Host.Outcome State Fault Refusal :=
  issueOut e (vclzInst e.val o) s

/-- VCVTI (Table 7.8). -/
def vcvtiInst (e : Nat) (o : VR) : Inst :=
  streamInst e (wordVR 0x33 o.c o.m o.d o.a o.b o.t 0x12)

/-- VCVTI on an engine. -/
def execVcvti (e : Eng) (o : VR) (s : State) : Host.Outcome State Fault Refusal :=
  issueOut e (vcvtiInst e.val o) s

/-- VMAC (Table 7.9). -/
def vmacInst (e : Nat) (o : VT) : Inst :=
  streamInst e (wordVT 0x34 o.c o.m o.d o.a o.b o.x 0 o.t)

/-- VMAC on an engine. -/
def execVmac (e : Eng) (o : VT) (s : State) : Host.Outcome State Fault Refusal :=
  issueOut e (vmacInst e.val o) s

/-- VDOT4 (Table 7.9). -/
def vdot4Inst (e : Nat) (o : VT) : Inst :=
  streamInst e (wordVT 0x34 o.c o.m o.d o.a o.b o.x 1 o.t)

/-- VDOT4 on an engine. -/
def execVdot4 (e : Eng) (o : VT) (s : State) : Host.Outcome State Fault Refusal :=
  issueOut e (vdot4Inst e.val o) s

/-- VDADD (Table 7.10). -/
def vdaddInst (e : Nat) (o : VR) : Inst :=
  streamInst e (wordVR 0x35 o.c o.m o.d o.a o.b o.t 0x00)

/-- VDADD on an engine. -/
def execVdadd (e : Eng) (o : VR) (s : State) : Host.Outcome State Fault Refusal :=
  issueOut e (vdaddInst e.val o) s

/-- VDSUB (Table 7.10). -/
def vdsubInst (e : Nat) (o : VR) : Inst :=
  streamInst e (wordVR 0x35 o.c o.m o.d o.a o.b o.t 0x01)

/-- VDSUB on an engine. -/
def execVdsub (e : Eng) (o : VR) (s : State) : Host.Outcome State Fault Refusal :=
  issueOut e (vdsubInst e.val o) s

/-- VDMUL (Table 7.10). -/
def vdmulInst (e : Nat) (o : VR) : Inst :=
  streamInst e (wordVR 0x35 o.c o.m o.d o.a o.b o.t 0x02)

/-- VDMUL on an engine. -/
def execVdmul (e : Eng) (o : VR) (s : State) : Host.Outcome State Fault Refusal :=
  issueOut e (vdmulInst e.val o) s

/-- VDRESCALE (Table 7.10). -/
def vdrescaleInst (e : Nat) (o : VR) : Inst :=
  streamInst e (wordVR 0x35 o.c o.m o.d o.a o.b o.t 0x03)

/-- VDRESCALE on an engine. -/
def execVdrescale (e : Eng) (o : VR) (s : State) : Host.Outcome State Fault Refusal :=
  issueOut e (vdrescaleInst e.val o) s

/-- VDCMP.EQ (Table 7.10). -/
def vdcmpEqInst (e : Nat) (o : VR) : Inst :=
  streamInst e (wordVR 0x35 o.c o.m o.d o.a o.b o.t 0x04)

/-- VDCMP.EQ on an engine. -/
def execVdcmpEq (e : Eng) (o : VR) (s : State) : Host.Outcome State Fault Refusal :=
  issueOut e (vdcmpEqInst e.val o) s

/-- VDCMP.LT (Table 7.10). -/
def vdcmpLtInst (e : Nat) (o : VR) : Inst :=
  streamInst e (wordVR 0x35 o.c o.m o.d o.a o.b o.t 0x05)

/-- VDCMP.LT on an engine. -/
def execVdcmpLt (e : Eng) (o : VR) (s : State) : Host.Outcome State Fault Refusal :=
  issueOut e (vdcmpLtInst e.val o) s

/-- VDCMP.LE (Table 7.10). -/
def vdcmpLeInst (e : Nat) (o : VR) : Inst :=
  streamInst e (wordVR 0x35 o.c o.m o.d o.a o.b o.t 0x06)

/-- VDCMP.LE on an engine. -/
def execVdcmpLe (e : Eng) (o : VR) (s : State) : Host.Outcome State Fault Refusal :=
  issueOut e (vdcmpLeInst e.val o) s

/-- VDCVT (Table 7.10). -/
def vdcvtInst (e : Nat) (o : VR) : Inst :=
  streamInst e (wordVR 0x35 o.c o.m o.d o.a o.b o.t 0x08)

/-- VDCVT on an engine. -/
def execVdcvt (e : Eng) (o : VR) (s : State) : Host.Outcome State Fault Refusal :=
  issueOut e (vdcvtInst e.val o) s

/-- VDRSUM (Table 7.10). -/
def vdrsumInst (e : Nat) (o : VR) : Inst :=
  streamInst e (wordVR 0x35 o.c o.m o.d o.a o.b o.t 0x0C)

/-- VDRSUM on an engine. -/
def execVdrsum (e : Eng) (o : VR) (s : State) : Host.Outcome State Fault Refusal :=
  issueOut e (vdrsumInst e.val o) s

/-- VFDSTART (Table 7.12). -/
def vfdstartInst (e : Nat) (o : VT) : Inst :=
  streamInst e (wordVT 0x36 o.c o.m o.d o.a o.b o.x 0 o.t)

/-- VFDSTART on an engine. -/
def execVfdstart (e : Eng) (o : VT) (s : State) : Host.Outcome State Fault Refusal :=
  issueOut e (vfdstartInst e.val o) s

/-- VFDSTEP (Table 7.12). -/
def vfdstepInst (e : Nat) (o : VT) : Inst :=
  streamInst e (wordVT 0x36 o.c o.m o.d o.a o.b o.x 1 o.t)

/-- VFDSTEP on an engine. -/
def execVfdstep (e : Eng) (o : VT) (s : State) : Host.Outcome State Fault Refusal :=
  issueOut e (vfdstepInst e.val o) s

/-- VFDEND (Table 7.12). -/
def vfdendInst (e : Nat) (o : VT) : Inst :=
  streamInst e (wordVT 0x36 o.c o.m o.d o.a o.b o.x 2 o.t)

/-- VFDEND on an engine. -/
def execVfdend (e : Eng) (o : VT) (s : State) : Host.Outcome State Fault Refusal :=
  issueOut e (vfdendInst e.val o) s

/-- VFSSTART (Table 7.12). -/
def vfsstartInst (e : Nat) (o : VT) : Inst :=
  streamInst e (wordVT 0x36 o.c o.m o.d o.a o.b o.x 3 o.t)

/-- VFSSTART on an engine. -/
def execVfsstart (e : Eng) (o : VT) (s : State) : Host.Outcome State Fault Refusal :=
  issueOut e (vfsstartInst e.val o) s

/-- VFSSTEP (Table 7.12). -/
def vfsstepInst (e : Nat) (o : VT) : Inst :=
  streamInst e (wordVT 0x36 o.c o.m o.d o.a o.b o.x 4 o.t)

/-- VFSSTEP on an engine. -/
def execVfsstep (e : Eng) (o : VT) (s : State) : Host.Outcome State Fault Refusal :=
  issueOut e (vfsstepInst e.val o) s

/-- VFSEND (Table 7.12). -/
def vfsendInst (e : Nat) (o : VT) : Inst :=
  streamInst e (wordVT 0x36 o.c o.m o.d o.a o.b o.x 5 o.t)

/-- VFSEND on an engine. -/
def execVfsend (e : Eng) (o : VT) (s : State) : Host.Outcome State Fault Refusal :=
  issueOut e (vfsendInst e.val o) s

/-- VIDSTART (Table 7.12). -/
def vidstartInst (e : Nat) (o : VT) : Inst :=
  streamInst e (wordVT 0x36 o.c o.m o.d o.a o.b o.x 6 o.t)

/-- VIDSTART on an engine. -/
def execVidstart (e : Eng) (o : VT) (s : State) : Host.Outcome State Fault Refusal :=
  issueOut e (vidstartInst e.val o) s

/-- VIDSTEP (Table 7.12). -/
def vidstepInst (e : Nat) (o : VT) : Inst :=
  streamInst e (wordVT 0x36 o.c o.m o.d o.a o.b o.x 7 o.t)

/-- VIDSTEP on an engine. -/
def execVidstep (e : Eng) (o : VT) (s : State) : Host.Outcome State Fault Refusal :=
  issueOut e (vidstepInst e.val o) s

/-- VIDEND (Table 7.12). -/
def videndInst (e : Nat) (o : VT) : Inst :=
  streamInst e (wordVT 0x36 o.c o.m o.d o.a o.b o.x 8 o.t)

/-- VIDEND on an engine. -/
def execVidend (e : Eng) (o : VT) (s : State) : Host.Outcome State Fault Refusal :=
  issueOut e (videndInst e.val o) s

/-- VIDREM (Table 7.12). -/
def vidremInst (e : Nat) (o : VT) : Inst :=
  streamInst e (wordVT 0x36 o.c o.m o.d o.a o.b o.x 9 o.t)

/-- VIDREM on an engine. -/
def execVidrem (e : Eng) (o : VT) (s : State) : Host.Outcome State Fault Refusal :=
  issueOut e (vidremInst e.val o) s

/-- VDDSTART (Table 7.12). -/
def vddstartInst (e : Nat) (o : VT) : Inst :=
  streamInst e (wordVT 0x36 o.c o.m o.d o.a o.b o.x 10 o.t)

/-- VDDSTART on an engine. -/
def execVddstart (e : Eng) (o : VT) (s : State) : Host.Outcome State Fault Refusal :=
  issueOut e (vddstartInst e.val o) s

/-- VDDSTEP (Table 7.12). -/
def vddstepInst (e : Nat) (o : VT) : Inst :=
  streamInst e (wordVT 0x36 o.c o.m o.d o.a o.b o.x 11 o.t)

/-- VDDSTEP on an engine. -/
def execVddstep (e : Eng) (o : VT) (s : State) : Host.Outcome State Fault Refusal :=
  issueOut e (vddstepInst e.val o) s

/-- VDDEND (Table 7.12). -/
def vddendInst (e : Nat) (o : VT) : Inst :=
  streamInst e (wordVT 0x36 o.c o.m o.d o.a o.b o.x 12 o.t)

/-- VDDEND on an engine. -/
def execVddend (e : Eng) (o : VT) (s : State) : Host.Outcome State Fault Refusal :=
  issueOut e (vddendInst e.val o) s

/-- VMOV (Table 7.14). -/
def vmovInst (e : Nat) (o : VR) : Inst :=
  streamInst e (wordVR 0x37 o.c o.m o.d o.a o.b o.t 0x00)

/-- VMOV on an engine. -/
def execVmov (e : Eng) (o : VR) (s : State) : Host.Outcome State Fault Refusal :=
  issueOut e (vmovInst e.val o) s

/-- VIOTA (Table 7.14). -/
def viotaInst (e : Nat) (o : VR) : Inst :=
  streamInst e (wordVR 0x37 o.c o.m o.d o.a o.b o.t 0x01)

/-- VIOTA on an engine. -/
def execViota (e : Eng) (o : VR) (s : State) : Host.Outcome State Fault Refusal :=
  issueOut e (viotaInst e.val o) s

/-- VCOMPRESS (Table 7.14). -/
def vcompressInst (e : Nat) (o : VR) : Inst :=
  streamInst e (wordVR 0x37 o.c o.m o.d o.a o.b o.t 0x02)

/-- VCOMPRESS on an engine. -/
def execVcompress (e : Eng) (o : VR) (s : State) : Host.Outcome State Fault Refusal :=
  issueOut e (vcompressInst e.val o) s

/-- VEXPAND (Table 7.14). -/
def vexpandInst (e : Nat) (o : VR) : Inst :=
  streamInst e (wordVR 0x37 o.c o.m o.d o.a o.b o.t 0x03)

/-- VEXPAND on an engine. -/
def execVexpand (e : Eng) (o : VR) (s : State) : Host.Outcome State Fault Refusal :=
  issueOut e (vexpandInst e.val o) s

/-- VRSUM (Table 7.14). -/
def vrsumInst (e : Nat) (o : VR) : Inst :=
  streamInst e (wordVR 0x37 o.c o.m o.d o.a o.b o.t 0x10)

/-- VRSUM on an engine. -/
def execVrsum (e : Eng) (o : VR) (s : State) : Host.Outcome State Fault Refusal :=
  issueOut e (vrsumInst e.val o) s

/-- VRMIN (Table 7.14). -/
def vrminInst (e : Nat) (o : VR) : Inst :=
  streamInst e (wordVR 0x37 o.c o.m o.d o.a o.b o.t 0x11)

/-- VRMIN on an engine. -/
def execVrmin (e : Eng) (o : VR) (s : State) : Host.Outcome State Fault Refusal :=
  issueOut e (vrminInst e.val o) s

/-- VRMAX (Table 7.14). -/
def vrmaxInst (e : Nat) (o : VR) : Inst :=
  streamInst e (wordVR 0x37 o.c o.m o.d o.a o.b o.t 0x12)

/-- VRMAX on an engine. -/
def execVrmax (e : Eng) (o : VR) (s : State) : Host.Outcome State Fault Refusal :=
  issueOut e (vrmaxInst e.val o) s

/-- VRAND (Table 7.14). -/
def vrandInst (e : Nat) (o : VR) : Inst :=
  streamInst e (wordVR 0x37 o.c o.m o.d o.a o.b o.t 0x13)

/-- VRAND on an engine. -/
def execVrand (e : Eng) (o : VR) (s : State) : Host.Outcome State Fault Refusal :=
  issueOut e (vrandInst e.val o) s

/-- VRIOR (Table 7.14). -/
def vriorInst (e : Nat) (o : VR) : Inst :=
  streamInst e (wordVR 0x37 o.c o.m o.d o.a o.b o.t 0x14)

/-- VRIOR on an engine. -/
def execVrior (e : Eng) (o : VR) (s : State) : Host.Outcome State Fault Refusal :=
  issueOut e (vriorInst e.val o) s

/-- VRXOR (Table 7.14). -/
def vrxorInst (e : Nat) (o : VR) : Inst :=
  streamInst e (wordVR 0x37 o.c o.m o.d o.a o.b o.t 0x15)

/-- VRXOR on an engine. -/
def execVrxor (e : Eng) (o : VR) (s : State) : Host.Outcome State Fault Refusal :=
  issueOut e (vrxorInst e.val o) s

/-- VRPOPC (Table 7.14). -/
def vrpopcInst (e : Nat) (o : VR) : Inst :=
  streamInst e (wordVR 0x37 o.c o.m o.d o.a o.b o.t 0x16)

/-- VRPOPC on an engine. -/
def execVrpopc (e : Eng) (o : VR) (s : State) : Host.Outcome State Fault Refusal :=
  issueOut e (vrpopcInst e.val o) s

end Sys2Proof.Machine
end

