-- ==== Sys2Proof/Machine/EngineDecode.lean ====
section
/-! DEFINITION. The decoding of an instruction word of an engine (R185 to R193, R227, Tables 4.1 to
4.13), used for words that come as data: an instruction that debug feeds, and the reserved words. -/

namespace Sys2Proof.Machine

/-- The rd field. -/
def rdOf (w : BitVec 32) : Reg := w.extractLsb' 21 5
/-- The ra field. -/
def raOf (w : BitVec 32) : Reg := w.extractLsb' 16 5
/-- The rb field. -/
def rbOf (w : BitVec 32) : Reg := w.extractLsb' 11 5
/-- The rc field of R4 format. -/
def rcOf (w : BitVec 32) : Reg := w.extractLsb' 6 5

/-- Functions of opcode 0x01 (Table 4.3). -/
def intOps (e : Nat) (w : BitVec 32) : Option Inst :=
  let rd := rdOf w
  let ra := raOf w
  let rb := rbOf w
  match (w.extractLsb' 0 11).toNat with
  | 0x000 => some (addInst e rd ra rb)
  | 0x001 => some (subInst e rd ra rb)
  | 0x002 => some (andInst e rd ra rb)
  | 0x003 => some (orInst e rd ra rb)
  | 0x004 => some (xorInst e rd ra rb)
  | 0x005 => some (andnInst e rd ra rb)
  | 0x006 => some (cltInst e rd ra rb)
  | 0x007 => some (cltuInst e rd ra rb)
  | 0x008 => some (ceqInst e rd ra rb)
  | 0x009 => some (shlInst e rd ra rb)
  | 0x00A => some (shrInst e rd ra rb)
  | 0x00B => some (sarInst e rd ra rb)
  | 0x00C => some (rorInst e rd ra rb)
  | 0x00D => some (minInst e rd ra rb)
  | 0x00E => some (maxInst e rd ra rb)
  | 0x00F => some (minuInst e rd ra rb)
  | 0x010 => some (maxuInst e rd ra rb)
  | 0x011 => some (clzInst e rd ra)
  | 0x012 => some (ctzInst e rd ra)
  | 0x013 => some (popcInst e rd ra)
  | 0x014 => some (sextBInst e rd ra)
  | 0x015 => some (sextHInst e rd ra)
  | 0x016 => some (sextWInst e rd ra)
  | 0x017 => some (zextWInst e rd ra)
  | _ => none

/-- Functions of opcode 0x02 (Table 4.5). -/
def mulOps (e : Nat) (w : BitVec 32) : Option Inst :=
  let rd := rdOf w
  let ra := raOf w
  let rb := rbOf w
  match (w.extractLsb' 0 11).toNat with
  | 0x000 => some (mulInst e rd ra rb)
  | 0x001 => some (mulwInst e rd ra rb)
  | 0x002 => some (mulwuInst e rd ra rb)
  | 0x010 => some (dstartSInst e rd ra)
  | 0x011 => some (dstartUInst e rd ra)
  | 0x012 => some (dstepSInst e rd rb)
  | 0x013 => some (dstepUInst e rd rb)
  | 0x014 => some (dendSInst e rd ra rb)
  | 0x015 => some (dendUInst e rd ra rb)
  | _ => none

/-- Functions of opcode 0x03. -/
def carryOps (e : Nat) (w : BitVec 32) : Option Inst :=
  let rd := rdOf w
  let ra := raOf w
  let rb := rbOf w
  let rc := rcOf w
  match (w.extractLsb' 0 6).toNat with
  | 0 => some (adcInst e rd ra rb rc)
  | 1 => some (sbbInst e rd ra rb rc)
  | _ => none

/-- Selections of opcode 0x0A (Table 4.4). -/
def shiftOps (e : Nat) (w : BitVec 32) : Option Inst :=
  let rd := rdOf w
  let ra := raOf w
  match (w.extractLsb' 8 8).toNat with
  | 0 => some (shliInst e rd ra (w.setWidth 6))
  | 1 => some (shriInst e rd ra (w.setWidth 6))
  | 2 => some (sariInst e rd ra (w.setWidth 6))
  | 3 => some (roriInst e rd ra (w.setWidth 6))
  | _ => none

/-- Opcodes 0x04 to 0x0C with an immediate (Table 4.4). -/
def immOps (e : Nat) (w : BitVec 32) : Option Inst :=
  let rd := rdOf w
  let ra := raOf w
  match opcodeOf w with
  | 0x04 => some (addiInst e rd ra (w.setWidth 16))
  | 0x05 => some (andiInst e rd ra (w.setWidth 16))
  | 0x06 => some (oriInst e rd ra (w.setWidth 16))
  | 0x07 => some (xoriInst e rd ra (w.setWidth 16))
  | 0x08 => some (cltiInst e rd ra (w.setWidth 16))
  | 0x09 => some (cltiuInst e rd ra (w.setWidth 16))
  | 0x0B => some (ldiInst e rd (w.setWidth 16) (w.extractLsb' 16 2))
  | 0x0C => some (insiInst e rd (w.setWidth 16) (w.extractLsb' 16 2))
  | _ => none

/-- Functions of opcode 0x0D (Table 4.6). -/
def packedOps (e : Nat) (w : BitVec 32) : Option Inst :=
  let rd := rdOf w
  let ra := raOf w
  let rb := rbOf w
  match (w.extractLsb' 0 11).toNat with
  | 0x000 => some (dajBInst e rd ra rb)
  | 0x001 => some (dajHInst e rd ra rb)
  | 0x002 => some (dajWInst e rd ra rb)
  | 0x003 => some (daddInst e rd ra rb)
  | 0x004 => some (dsubInst e rd ra rb)
  | _ => none

/-- Functions of opcode 0x0E (Table 4.7). -/
def floatOps (e : Nat) (w : BitVec 32) : Option Inst :=
  let rd := rdOf w
  let ra := raOf w
  let rb := rbOf w
  match (w.extractLsb' 1 10).toNat with
  | 0 => some (faddInst e (w.getLsbD 0) rd ra rb)
  | 1 => some (fsubInst e (w.getLsbD 0) rd ra rb)
  | 2 => some (fmulInst e (w.getLsbD 0) rd ra rb)
  | 3 => some (fminInst e (w.getLsbD 0) rd ra rb)
  | 4 => some (fmaxInst e (w.getLsbD 0) rd ra rb)
  | 5 => some (fabsInst e (w.getLsbD 0) rd ra)
  | 6 => some (fnegInst e (w.getLsbD 0) rd ra)
  | 7 => some (feqInst e (w.getLsbD 0) rd ra rb)
  | 8 => some (fltInst e (w.getLsbD 0) rd ra rb)
  | 9 => some (fleInst e (w.getLsbD 0) rd ra rb)
  | 10 => some (funInst e (w.getLsbD 0) rd ra rb)
  | 16 => some (fcvtInst e (w.getLsbD 0) rd ra)
  | 17 => some (ftoiInst e (w.getLsbD 0) rd ra)
  | 18 => some (ftoizInst e (w.getLsbD 0) rd ra)
  | 19 => some (ftouInst e (w.getLsbD 0) rd ra)
  | 20 => some (itofInst e (w.getLsbD 0) rd ra)
  | 21 => some (utofInst e (w.getLsbD 0) rd ra)
  | _ => none

/-- Functions of opcode 0x0F (Table 4.8). -/
def fusedOps (e : Nat) (w : BitVec 32) : Option Inst :=
  let rd := rdOf w
  let ra := raOf w
  let rb := rbOf w
  let rc := rcOf w
  match (w.extractLsb' 1 5).toNat with
  | 0 => some (fmaInst e (w.getLsbD 0) rd ra rb rc)
  | 1 => some (fmsInst e (w.getLsbD 0) rd ra rb rc)
  | 2 => some (fnmaInst e (w.getLsbD 0) rd ra rb rc)
  | 3 => some (fnmsInst e (w.getLsbD 0) rd ra rb rc)
  | _ => none

/-- Functions of opcode 0x10 (Table 4.9). -/
def floatStepOps (e : Nat) (w : BitVec 32) : Option Inst :=
  let rd := rdOf w
  let ra := raOf w
  let rb := rbOf w
  match (w.extractLsb' 1 10).toNat with
  | 0 => some (fdstartInst e (w.getLsbD 0) rd ra rb)
  | 1 => some (fdstepInst e (w.getLsbD 0) rd rb)
  | 2 => some (fdendInst e (w.getLsbD 0) rd ra rb)
  | 3 => some (fsstartInst e (w.getLsbD 0) rd ra)
  | 4 => some (fsstepInst e (w.getLsbD 0) rd)
  | 5 => some (fsendInst e (w.getLsbD 0) rd ra)
  | _ => none

/-- Opcodes 0x14 to 0x1E (Table 4.10). -/
def memoryOps (e : Nat) (w : BitVec 32) : Option Inst :=
  let rd := rdOf w
  let ra := raOf w
  match opcodeOf w with
  | 0x14 => some (ldBInst e rd ra (w.setWidth 16))
  | 0x15 => some (ldBuInst e rd ra (w.setWidth 16))
  | 0x16 => some (ldHInst e rd ra (w.setWidth 16))
  | 0x17 => some (ldHuInst e rd ra (w.setWidth 16))
  | 0x18 => some (ldWInst e rd ra (w.setWidth 16))
  | 0x19 => some (ldWuInst e rd ra (w.setWidth 16))
  | 0x1A => some (ldDInst e rd ra (w.setWidth 16))
  | 0x1B => some (stBInst e rd ra (w.setWidth 16))
  | 0x1C => some (stHInst e rd ra (w.setWidth 16))
  | 0x1D => some (stWInst e rd ra (w.setWidth 16))
  | 0x1E => some (stDInst e rd ra (w.setWidth 16))
  | _ => none

/-- Functions of opcode 0x1F (Table 4.11). -/
def atomicOps (e : Nat) (w : BitVec 32) : Option Inst :=
  let rd := rdOf w
  let ra := raOf w
  let rb := rbOf w
  match (w.extractLsb' 0 11).toNat with
  | 0x000 => some (ldlInst e rd ra)
  | 0x001 => some (stcInst e rd ra rb)
  | 0x002 => some (amoAddInst e rd ra rb)
  | 0x003 => some (amoXorInst e rd ra rb)
  | 0x004 => some (amoMinInst e rd ra rb)
  | 0x005 => some (amoMaxInst e rd ra rb)
  | 0x006 => some (amoSwpInst e rd ra rb)
  | 0x007 => some (damoAddInst e rd ra rb)
  | _ => none

/-- Conditions of opcode 0x22 (Table 4.12). -/
def condOps (e : Nat) (w : BitVec 32) : Option Inst :=
  let ra := raOf w
  match (w.extractLsb' 21 4).toNat with
  | 0 => some (beqzInst e (w.getLsbD 25) ra (w.setWidth 16))
  | 1 => some (bnezInst e (w.getLsbD 25) ra (w.setWidth 16))
  | 2 => some (bltzInst e (w.getLsbD 25) ra (w.setWidth 16))
  | 3 => some (bgezInst e (w.getLsbD 25) ra (w.setWidth 16))
  | 4 => some (bgtzInst e (w.getLsbD 25) ra (w.setWidth 16))
  | 5 => some (blezInst e (w.getLsbD 25) ra (w.setWidth 16))
  | 6 => some (boddInst e (w.getLsbD 25) ra (w.setWidth 16))
  | 7 => some (bevenInst e (w.getLsbD 25) ra (w.setWidth 16))
  | _ => none

/-- Opcodes 0x20, 0x21 and 0x24. -/
def jumpOps (e : Nat) (w : BitVec 32) : Option Inst :=
  let rd := rdOf w
  match opcodeOf w with
  | 0x20 => some (brInst e (w.getLsbD 25) (w.setWidth 25))
  | 0x21 => some (brlInst e (w.getLsbD 25) (w.setWidth 25))
  | 0x24 => some (loopInst e rd (w.setWidth 21))
  | _ => none

/-- Opcode 0x23 by its L field. -/
def registerJumpOps (e : Nat) (w : BitVec 32) : Option Inst :=
  let ra := raOf w
  match w.getLsbD 24 with
  | false => some (jrInst e (w.getLsbD 25) ra)
  | true => some (jrlInst e (w.getLsbD 25) ra)

/-- Sub-operations of opcode 0x25 (Table 4.13); the r field is bits 20 to 16. -/
def systemOps (e : Nat) (w : BitVec 32) : Option Inst :=
  let ra := raOf w
  match (w.extractLsb' 21 5).toNat with
  | 0 => some (syncCInst e)
  | 1 => some (syncIInst e)
  | 2 => some (fenceLInst e)
  | 3 => some (fenceDInst e)
  | 4 => some (fenceSInst e)
  | 5 => some (gateInst e (w.setWidth 12))
  | 6 => some (gretInst e)
  | 7 => some (jendInst e)
  | 8 => some (wfiInst e)
  | 9 => some (brkInst e (w.setWidth 16))
  | 10 => some (mtmInst e (w.setWidth 3) ra)
  | 11 => some (mfmInst e ra (w.setWidth 3))
  | _ => none

/-- Sub-operations of opcode 0x30 (Table 7.17). -/
def controlOps (e : Nat) (w : BitVec 32) : Option Inst :=
  match (w.extractLsb' 21 4).toNat with
  | 0 => some (setvlInst e (w.extractLsb' 16 5) (w.extractLsb' 11 5) (w.setWidth 3))
  | 1 => some (vbarrierInst e)
  | 2 => some (chresumeInst e (w.extractLsb' 16 5))
  | 3 => some (vqcntInst e (w.extractLsb' 16 5) (w.setWidth 2))
  | _ => none

/-- The instruction that a word's opcode and function assign, its fields taken as they stand. -/
def assigned (e : Nat) (w : BitVec 32) : Option Inst :=
  match opcodeOf w with
  | 0x01 => intOps e w
  | 0x02 => mulOps e w
  | 0x03 => carryOps e w
  | 0x0A => shiftOps e w
  | 0x0D => packedOps e w
  | 0x0E => floatOps e w
  | 0x0F => fusedOps e w
  | 0x10 => floatStepOps e w
  | 0x1F => atomicOps e w
  | 0x22 => condOps e w
  | 0x23 => registerJumpOps e w
  | 0x25 => systemOps e w
  | 0x30 => controlOps e w
  | _ => immOps e w <|> memoryOps e w <|> jumpOps e w

/-- Is a word a scalar reserved encoding (R191)? -/
def scalarReserved (w : BitVec 32) : Bool :=
  !isVectorOpcode w && opcodeOf w != 0x00 && opcodeOf w != 0x3F && (assigned 0 w).isNone

/-- An instruction word as an instruction: a streaming word, an assigned word, one with a field in
    breach of R189, a reserved word, or the illegal opcodes 0x00 and 0x3F. -/
def instOfWord (e : Nat) (w : BitVec 32) : Inst :=
  if isVectorOpcode w && opcodeOf w != 0x30 then streamInst e w
  else
    match assigned e w with
    | some i => if i.word = w then i else { i with word := w, illegal := true }
    | none =>
      { word := w, run := return .next
        reserved := if vectorReserved w then some 3 else if scalarReserved w then some 2 else none
        illegal := !vectorReserved w && !scalarReserved w }

/-! ### Reserved words as commands (R190, R191, R317) -/

/-- Does an instruction word fault by its encoding alone: it is reserved, or illegal? -/
def Inst.badWord (i : Inst) : Bool := i.reserved.isSome || i.illegal

/-- RESERVED_OPCODE (R191), and the illegal scalar words of R190 with it; no other word is such a command. -/
def execReservedOpcode (e : Eng) (w : BitVec 32) (s : State) : Host.Outcome State Fault Refusal :=
  let i := instOfWord e w
  if !isVectorOpcode w && i.badWord then issueOut e i s else .next s

/-- VECTOR_RESERVED_OPCODE (R317), and the words of R315 with it; no other word is such a command.  A word of the
    streaming opcodes is a member of the group it follows (R318). -/
def execVectorReservedOpcode (e : Eng) (w : BitVec 32) (s : State) :
    Host.Outcome State Fault Refusal :=
  let i := instOfWord e w
  if isVectorOpcode w && i.badWord then issueOut e i s else .next s

/-! ### The event at a boundary (R246, R256) -/

/-- The instruction at the boundary of an engine; where its fetch faults, that fault is its first. -/
def instHere (e : Nat) (s : State) : Inst :=
  match (fetchWord e).run s with
  | .ok w _ => instOfWord e w
  | .error _ _ => { word := 0, illegal := true, run := return .next }

/-- The event ready at the boundary of a running engine is taken (R246, R256): where none comes before the
    instruction there, the fault of its fetch or its decoding. -/
def boundaryNow (e : Nat) (s : State) : State :=
  let x := s.eng e
  if x.run = .running && !x.dbg.halted && !x.mid && takesEvents s e then
    let s1 := finishWfi e s
    let i := instHere e s1
    match eventBefore i (s1.eng e) with
    | some b => stepEnd e (takeFirst e i b s1)
    | none =>
      match (issueBody e { i with run := hold }).run s1 with
      | .error (.ev v) s2 => stepEnd e (takeInstFault e i v s1 s2)
      | _ => s1
  else s

/-- EXCEPTION_ENTRY (R246, R256). -/
def execExceptionEntry (e : Eng) (s : State) : Host.Outcome State Fault Refusal :=
  .next (boundaryNow e.val s)

end Sys2Proof.Machine
end

