-- ==== Sys2Proof/Machine/Host.lean ====
section
/-! DEFINITION. The host's side of the CXL port: the ends of host and remote accesses, the link and its
reset, the device-memory window, CXL_HBASE, SPDM and MSI-X (R518 to R526, R534, R548, R549, R662). -/

namespace Sys2Proof.Machine

/-! ### The end of a host or remote access (R526, R548 to R550) -/

/-- A response of a read or an atomic request kept for the engine that waits for it: streams and the
    scalar stream keep theirs apart. -/
def keepResp (r : Req) (x : Resp) (y : Engine) : Engine :=
  let k := respKey r.va r.mask
  if r.acc = 5 ∨ r.acc = 6 then { y with vec := { y.vec with resp := y.vec.resp.put k x } }
  else { y with resp := y.resp.put k x }

/-- An access ends with a status of Table 13.9 and, for a read, its data. -/
def complete (r : Req) (status : Byte) (data : BitVec 512) (s0 : State) : State :=
  let s := { s0 with reqs := s0.reqs.filter fun (q : Req) => q.tag ≠ r.tag }
  match r.who with
  | .gone => s
  | .engine e =>
    if r.write then (if status = 0 then s else deferBoth e r.host r.va r.acc s)
    else s.modEng e (keepResp r ⟨status, data⟩)
  | .tender sq n =>
    if r.write then tenderAck sq n r.tag status s
    else modTnd sq n (fun t => { t with resp := some ⟨status, data⟩ }) s
  | .rank job => revokeAnswer (recordDone job (status == 0) s)
  | .debug =>
    if r.write then
      if status = 0 then s
      else if status = 4 then { s with ik := { s.ik with err := true, code := 2 } }
      else loseAccess { s with ik := { s.ik with err := true, code := 3 } }
    else { s with ik := { s.ik with resp := some ⟨status, data⟩ } }
  | .ring c => s.modCtx c fun x => { x with resp := x.resp.put (r.va.toNat / 64) ⟨status, data⟩ }

/-- A request on its way, by its tag and its port. -/
def reqOf (host : Bool) (tag : BitVec 32) (s : State) : Option Req :=
  s.reqs.find? fun r => r.host == host && r.tag == tag

/-- The status a host completion gives the requester (R526, R549, R550): bad read data is an
    uncorrectable error, a failed write a completion error. -/
def hostCode (write : Bool) : HostStatus → Byte
  | .ok => 0
  | _ => if write then 1 else 4

/-- Correctable-error bits of CXL RAS set (Table 13.1; log entry 21): bit 4 poison received on CXL.cache, bit 5 on
    CXL.mem. -/
def rasCorrectable (b : BitVec 32) (s : State) : State :=
  { s with cxl := { s.cxl with cfg := { s.cxl.cfg with rasCor := s.cxl.cfg.rasCor ||| b } } }

/-- The unsupported-request bit of AER set (R522, Table 13.1; log entry 21). -/
def aerUnsupported (s : State) : State :=
  { s with cxl := { s.cxl with cfg := { s.cxl.cfg with aerUnc := s.cxl.cfg.aerUnc ||| 0x100000 } } }

/-- The configuration registers after a reset of the port: the status, mask and severity registers are sticky
    (log entry 21). -/
def PortCfg.reset (c : PortCfg) : PortCfg := { c with command := 0, bar0 := 0, bar2 := 0 }

/-- The host completes a CXL.cache request (R526). -/
def hostCompletion (tag : BitVec 32) (st : HostStatus) (data : BitVec 512) (s : State) : State :=
  match reqOf true tag s with
  | none => s
  | some r =>
    let bad := st ≠ .ok ∧ r.write = false
    let rx := if bad then satInc s.cxl.poisonrx else s.cxl.poisonrx
    let s1 := { s with cxl := { s.cxl with poisonrx := rx } }
    complete r (hostCode r.write st) data (if bad then rasCorrectable 0x10 s1 else s1)

/-- CXL_CACHE_COMPLETION (R526). -/
def execCxlCacheCompletion (tag : BitVec 32) (status : HostStatus) (data : BitVec 512) (s : State) :
    Host.Outcome State Fault Refusal :=
  .next (hostCompletion tag status data s)

/-! ### The link (R518 to R521, R534, R662) -/

/-- A host access that was on its way when the link went down: a read ends as a bus error; whether a
    write sent before had completed is a free value (R521, R549). -/
def endAtLinkDown (s : State) (r : Req) : State :=
  if !r.host then s
  else if r.write then
    complete r (if Config.freeBool s.free then 1 else 0) 0 { s with free := s.free + 1 }
  else complete r 1 0 s

/-- The link goes down (R519, R521): the port alone is reset. -/
def cxlDown (s : State) : State :=
  if !s.cxl.up then s
  else
    let s1 := { s with cxl := { s.cxl with
      up := false, cxl := false, ide := false, width := 0, speed := 0, hdm := {}, cfg := s.cxl.cfg.reset, ideKeys := [],
      linkdown := satInc s.cxl.linkdown } }
    s1.reqs.foldl endAtLinkDown s1

/-- CXL_LINK_DOWN (R521). -/
def execCxlLinkDown (s : State) : Host.Outcome State Fault Refusal := .next (cxlDown s)

/-- The pending messages of vectors that are not masked are sent (R534). -/
def sendPending (s : State) : State :=
  (List.range 256).foldl (fun s v =>
    if s.cxl.msixPend.getLsbD v then
      sendMsix (BitVec.ofNat 8 v) { s with cxl := { s.cxl with
        msixPend := s.cxl.msixPend &&& ~~~((1 : BitVec 256) <<< v) } }
    else s) s

/-- The link comes up with a width and a rate of Table 13.11: CXL at 16 GT/s or faster on x4 or wider,
    PCIe alone otherwise (R518, R520).  In recovery it comes up too, for what R521 leaves accessible (R492; log
    entry 75). -/
def cxlUp (width speed : BitVec 3) (s : State) : State :=
  if s.cxl.up || s.cxl.perst || !s.boot.powered || heldReset s then s
  else
    sendPending { s with cxl := { s.cxl with
      up := true, width := width, speed := speed, cxl := decide (4 ≤ speed ∧ 2 ≤ width) } }

/-- CXL_LINK_UP (R534). -/
def execCxlLinkUp (width speed : BitVec 3) (s : State) : Host.Outcome State Fault Refusal :=
  .next (cxlUp width speed s)

/-- PERST_N low (R662): the port is held in reset. -/
def execPerstN (s : State) : Host.Outcome State Fault Refusal :=
  let s1 := cxlDown s
  .next { s1 with cxl := { s1.cxl with perst := true } }

/-- PERST_N high again (R662). -/
def execPerstNRelease (s : State) : Host.Outcome State Fault Refusal :=
  .next { s with cxl := { s.cxl with perst := false } }

/-! ### The device-memory window (R521 to R523, Table 2.7) -/

/-- The physical address a window access names: none outside the window that the committed decoder gives. -/
def windowAddr (addr : Word) (s : State) : Option Nat :=
  let d := s.cxl.hdm
  if hostOpen s && d.on && d.committed && decide (d.base.toNat ≤ addr.toNat) &&
      decide (addr.toNat < d.base.toNat + d.size.toNat) then some (addr.toNat - d.base.toNat)
  else none

/-- The bytes of the stacks (R73). -/
def hbmBytes : Nat := 384 * 2 ^ 30

/-- A poisoned completion: its data means nothing and is a free value. -/
def poisonedData (s : State) : State :=
  { s with free := s.free + 1, out := .cxlData ((Config.freeWord s.free).setWidth 512) true :: s.out }

/-- A CXL.mem read of the 64-byte line at a host address (R521, R522). -/
def cxlRead (addr : Word) (s : State) : State :=
  match windowAddr addr s with
  | none => s
  | some a =>
    let pa := a / 64 * 64
    if hbmBytes ≤ pa then (aerUnsupported s).emit (.cxlUnsupported (BitVec.allOnes 512))
    else if !barOpen s then poisonedData s
    else
      match probeHbm 4 pa s with
      | (true, s1) => poisonedData s1
      | (false, s1) => s1.emit (.cxlData (BitVec.ofNat 512 (leNat (s1.hbm.bytes pa 64))) false)

/-- CXL_MEM_READ (R522). -/
def execCxlMemRead (addr : Word) (s : State) : Host.Outcome State Fault Refusal :=
  .next (cxlRead addr s)

/-- The enabled bytes of a 64-byte write. -/
def maskedBytes (mask : BitVec 64) (data : BitVec 512) : List (Option Byte) :=
  (List.range 64).map fun i => if mask.getLsbD i then some (data.extractLsb' (8 * i) 8) else none

/-- What poison sent with a write does to the sector is not stated: whether the sector is marked is a
    free value (log entry 41). -/
def hostPoison (poison : Bool) (pa : Nat) (s : State) : State :=
  if !poison then s
  else
    let mark := Config.freeBool s.free
    { rasCorrectable 0x20 s with free := s.free + 1, poison := if mark then insertNat (pa / 64) s.poison else s.poison }

/-- A CXL.mem write of the enabled bytes of a 64-byte line (R521, R522, R523). -/
def cxlWrite (addr : Word) (mask : BitVec 64) (data : BitVec 512) (poison : Bool) (s : State) : State :=
  match windowAddr addr s with
  | none => s
  | some a =>
    let pa := a / 64 * 64
    let bs := maskedBytes mask data
    if hbmBytes ≤ pa || !barOpen s || mask == 0 then s
    else
      match probeWrite 4 pa bs s with
      | (true, s1) => s1
      | (false, s1) => hostPoison poison pa (writeHbm none pa bs s1)

/-- CXL_MEM_WRITE (R522). -/
def execCxlMemWrite (addr : Word) (mask : BitVec 64) (data : BitVec 512) (poison : Bool) (s : State) :
    Host.Outcome State Fault Refusal :=
  .next (cxlWrite addr mask data poison s)

/-- HOST_SNOOP (R524): every snoop is answered with a miss. -/
def execHostSnoop (_ : Word) (s : State) : Host.Outcome State Fault Refusal :=
  .next (if hostOpen s then s.emit .cxlSnoopMiss else s)

/-! ### CXL_HBASE, MSI-X, SPDM -/

/-- CXL_HBASE_WRITE (R521, R525): bits 17:0 are ignored. -/
def execCxlHbaseWrite (v : Word) (s : State) : Host.Outcome State Fault Refusal :=
  .next (if barOpen s then { s with cxl := { s.cxl with hbase := v &&& 0xFFFFFFFFFFFC0000 } } else s)

/-- HB_HOSTBASE_COPY (R525). -/
def execHbHostbaseCopy (s : State) : Host.Outcome State Fault Refusal :=
  .next (if stewardRuns s then { s with hub := { s.hub with hostbase := s.cxl.hbase } } else s)

/-- MSI_X_UNMASK (R521, R534): the mask bit of a vector becomes 0. -/
def execMsiXUnmask (vec : Byte) (s : State) : Host.Outcome State Fault Refusal :=
  .next (if barOpen s then
    sendPending { s with cxl := { s.cxl with
      msixMask := s.cxl.msixMask &&& ~~~((1 : BitVec 256) <<< vec.toNat) } }
  else s)

/-- Does the SPDM responder answer: the link is up, and the steward runs? -/
def spdmOpen (s : State) : Bool := s.cxl.up && stewardRuns s

/-- SPDM_GET_MEASUREMENTS (R519): the quote body for the nonce (Table 12.11). -/
def execSpdmGetMeasurements (nonce : BitVec 256) (s : State) : Host.Outcome State Fault Refusal :=
  .next (if spdmOpen s then s.emit (.spdm (quoteBody nonce s)) else s)

/-- SPDM_CHALLENGE (R519): the certificate, and the nonce signed under the device attestation key. -/
def execSpdmChallenge (nonce : BitVec 256) (s : State) : Host.Outcome State Fault Refusal :=
  .next (if spdmOpen s then
    { s.emit (.spdm (Config.attestCert ++ attest (leBytes 32 nonce.toNat) s)) with free := s.free + 1 }
  else s)

/-- IDE_KM_KEY_PROG (R519): the port holds the link key of a stream. -/
def execIdeKmKeyProg (stream : Byte) (key : BitVec 256) (s : State) :
    Host.Outcome State Fault Refusal :=
  .next (if spdmOpen s then
    { s with cxl := { s.cxl with
        ide := true, ideKeys := (stream, key) :: s.cxl.ideKeys.filter fun p => p.1 ≠ stream } }
  else s)

end Sys2Proof.Machine
end

