-- ==== Sys2Proof/Machine/Frx.lean ====
section
/-! DEFINITION. The Frarix links and the packets that arrive on them (R536 to R556).  A packet reaches
the block as the command of its type; the flits that carried it are FLIT_RECEIVE's. -/

namespace Sys2Proof.Machine

/-! ### Links (R536 to R539) -/

/-- Is the CRC of a flit good (R536)? -/
def flitOk (f : Flit) : Bool := f.crc == Config.flitCrc (flitBits f)

/-- Credit returned to a link in a class and lane, and the packets that it lets go (R536, R538). -/
def addCredit (f : Flit) (l : FrxLink) : FrxLink :=
  let k := 2 * f.creditClass.toNat + (if f.creditLane then 1 else 0)
  { l with credit := l.credit.setIfInBounds k (satAdd (l.credit.toList.getD k 0) f.creditCount.toNat) }.pump

/-! ### Links that come and go (R537, R539, R542) -/

/-- A strip or a notice that a link went down with is sent again on the lowest link up of its route (R537, R542);
    where none is up it waits on. -/
def sendAgain (i : Nat) (s : State) (p : FrxPacket) : State :=
  let ent := routeOf s p.dst
  match (if ent.getLsbD 15 then upLinks s ent else []).head? with
  | none => modLink i (fun l => { l with back := l.back ++ [p] }) s
  | some j =>
    let s1 := modLink j (fun l => { l with waiting := l.waiting ++ [p] }.pump) s
    if p.src = s.frx.node then
      { s1 with frx := { s1.frx with tunLink := s1.frx.tunLink.put (p.tag.extractLsb' 16 6).toNat j } }
    else s1

/-- What a link went down with is sent again, before anything else of its tunnels. -/
def replayBack (s : State) (i : Nat) : State :=
  (frxLink s i).back.foldl (sendAgain i) (modLink i (fun l => { l with back := [] }) s)

/-- What every link went down with is sent again, and the notices that this lets go leave. -/
def replayAll (s : State) : State := flushNotices ((List.range 8).foldl replayBack s)

/-- A packet that waited on a link that went down uses another link of its route's mask (R537); with none it is
    discarded and counted (R543). -/
def sendElsewhere (s : State) (p : FrxPacket) : State :=
  let ent := routeOf s p.dst
  match bestLink s (p.route.toNat % 4) (p.route.getLsbD 2) (if ent.getLsbD 15 then upLinks s ent else []) with
  | some j => modLink j (fun l => { l with waiting := l.waiting ++ [p] }.pump) s
  | none => { s with frx := { s.frx with drop := satInc s.frx.drop } }

/-- A link with nothing under way in either direction. -/
def FrxLink.cleared (l : FrxLink) : FrxLink :=
  { st := l.st, peer := l.peer, peerv := l.peerv, retry := l.retry, back := l.back, ackSeq := 0xFFF }

/-- A link goes down, to state 0 or 3 (R537): its strips and notices that are not acknowledged are kept to be sent
    again, the other packets that still waited move, and what a flit carried is lost. -/
def linkDown (i : Nat) (st : BitVec 2) (s : State) : State :=
  let l := frxLink s i
  let kept := l.back ++ l.flight.map Prod.fst ++ l.waiting.filter inTunnel
  let s1 := modLink i (fun l => { l.cleared with st := st, back := kept }) s
  replayAll ((l.waiting.filter fun p => !inTunnel p).foldl sendElsewhere s1)

/-- A bad flit (R537): a NAK asks for it again, and after eight failed retries in a row the link has
    failed. -/
def badFlit (i : Nat) (s : State) : State :=
  let l := frxLink s i
  let s1 := (modLink i (fun l => { l with retry := satInc l.retry, fails := l.fails + 1 }) s).emit
    (.frxNak i l.rxSeq)
  if 8 ≤ l.fails then linkDown i 3 s1 else s1

/-- What strip credits a flit of another part brings back to a tunnel is not stated (R552): a free value within those
    in use (log entry 76). -/
def returnStripCredit (i : Nat) (s : State) (t : Nat × Nat) : State :=
  if t.2 ≠ i then s
  else
    let used := SMap.get 0 s.frx.used t.1
    let back := Config.freeNat s.free % (used + 1)
    { s with free := s.free + 1, frx := { s.frx with used := s.frx.used.put t.1 (used - back) } }

/-- The flits up to the acknowledged one leave the replay buffer (R537). -/
def takeAck (ack : BitVec 12) (l : FrxLink) : FrxLink :=
  let n := ((l.replay.findIdx? fun f => f.seq == ack).map (· + 1)).getD 0
  let done := l.acked + 242 * n
  { l with ackSeq := ack, replay := l.replay.drop n, acked := done,
           flight := l.flight.filter fun x => decide (done < x.2) }

/-- The replay buffer is sent again (R537). -/
def replayFlits (i : Nat) (s : State) : State :=
  (frxLink s i).replay.foldl (fun s f => s.emit (.flit i f)) s

/-- A packet from its bytes (Table 13.8). -/
def packetOf (b : List Byte) : FrxPacket :=
  { dst := BitVec.ofNat 16 (fieldAt b 0 2), src := BitVec.ofNat 16 (fieldAt b 2 2), typ := b.getD 4 0,
    route := b.getD 5 0, len := BitVec.ofNat 16 (fieldAt b 6 2), tag := BitVec.ofNat 32 (fieldAt b 8 4),
    code := b.getD 12 0, addrH := BitVec.ofNat 24 (fieldAt b 13 3), payload := bytesAt b 16 (fieldAt b 6 2) }

/-- The whole packets at the start of some bytes, and the bytes after them.  Where TYPE is none of Table 13.8 no
    packet begins, and the bytes up to the end fill the flit (R536; log entry 52). -/
def unpack : Nat → List Byte → List FrxPacket × List Byte
  | 0, b => ([], b)
  | fuel + 1, b =>
    let n := 16 + (fieldAt b 6 2 + 7) / 8 * 8
    if b.length < 16 then (if b.all (· == 0) then ([], []) else ([], b))
    else if b.getD 4 0 = 0 ∨ 8 < b.getD 4 0 then ([], [])
    else if b.length < n then ([], b)
    else
      let (ps, rest) := unpack fuel (b.drop n)
      (packetOf b :: ps, rest)

/-- The packet data of a flit in sequence is unpacked (R536): its packets wait for their commands. -/
def takeData (f : Flit) (l : FrxLink) : FrxLink :=
  if f.ftype ≠ 1 ∨ f.seq ≠ l.rxSeq then l
  else
    let b := l.rx ++ leBytes 242 f.data.toNat
    let (ps, rest) := unpack (b.length / 16 + 1) b
    { l with rxSeq := l.rxSeq + 1, rx := rest, arrived := l.arrived ++ ps, ackDue := true }

/-- A good flit: its credit returns, what it acknowledges leaves the replay buffer, its packets are taken, and
    notices that have waited leave.  How a NAK differs from an acknowledgement in ACKSEQ is not stated (R537):
    whether flits behind the acknowledged one are asked for again is a free value (log entry 52). -/
def goodFlit (i : Nat) (f : Flit) (s : State) : State :=
  let s1 := modLink i (fun l => takeData f (addCredit f (takeAck f.ackseq { l with fails := 0 }))) s
  let s2 := if (frxLink s1 i).replay.isEmpty then s1
    else
      let t := { s1 with free := s1.free + 1 }
      if Config.freeBool s1.free then replayFlits i t else t
  flushNotices (s2.frx.tunLink.foldl (returnStripCredit i) s2)

/-- A flit arrives on a link (R536, R537). -/
def flitReceive (i : Nat) (f : Flit) (s : State) : State :=
  if (frxLink s i).st ≠ 2 then s else if flitOk f then goodFlit i f s else badFlit i s

/-- FLIT_RECEIVE (R537). -/
def execFlitReceive (link : Fin 8) (f : Flit) (s : State) : Host.Outcome State Fault Refusal :=
  .next (flitReceive link.val f s)

/-- Training ends (R539): the link is up and knows its peer; in recovery it stays down (R492). -/
def linkTrained (i : Nat) (peer : BitVec 16) (s : State) : State :=
  if !s.boot.powered || s.boot.recovery || heldReset s then s
  else replayAll (modLink i (fun l => { l.cleared with st := 2, peer := peer, peerv := true }) s)

/-- FRX_LINK_TRAINED (R539). -/
def execFrxLinkTrained (link : Fin 8) (peer : BitVec 16) (s : State) :
    Host.Outcome State Fault Refusal :=
  .next (linkTrained link.val peer s)

/-- FRX_LINK_LOSS (R537): the link is down. -/
def execFrxLinkLoss (link : Fin 8) (s : State) : Host.Outcome State Fault Refusal :=
  .next (linkDown link.val 0 s)

/-! ### Arrival and forwarding (R543) -/

/-- A packet discarded and counted in FRX_ERR.DROP. -/
def countDrop (s : State) : State := { s with frx := { s.frx with drop := satInc s.frx.drop } }

/-- A response or acknowledge to a packet (R544, R545); one that cannot be sent is counted. -/
def sendReply (q : FrxPacket) (status : Byte) (payload : List Byte) (s : State) : State :=
  let typ : Byte := if q.typ = 2 then 6 else 5
  match frxSend 1 (packet s q.src typ status q.tag 0 payload) s with
  | (0, s1) => s1
  | (_, s1) => countDrop s1

/-- Is a packet a request? -/
def isRequest (p : FrxPacket) : Bool := decide (1 ≤ p.typ ∧ p.typ ≤ 4)

/-- A packet leaves the input buffer of its link, whose peer gets the credit back (R538). -/
def takeArrived (i : Nat) (p : FrxPacket) (s : State) : State :=
  if i < 8 ∧ (frxLink s i).arrived.contains p then
    let k := creditKey p.route
    modLink i (fun l => { l with arrived := l.arrived.erase p,
                                 owed := l.owed.setIfInBounds k (satAdd (l.owed.toList.getD k 0) (packetUnits p)) }) s
  else s

/-- A packet arrives on a link that is up: one for this node is handled, another is passed on; one that
    goes no further is answered, or counted (R543).  A packet that a flit has brought waits for this. -/
def arrive (link : Nat) (p : FrxPacket) (own : State → State) (s0 : State) : State :=
  let s := takeArrived link p s0
  if p.dst = s.frx.node then
    if p.src = s.frx.node ∨ (frxLink s link).st = 2 then own s else s
  else if (frxLink s link).st ≠ 2 then s
  else
    match frxForward p s with
    | (0, s1) => s1
    | (st, s1) => if isRequest p then sendReply p (BitVec.ofNat 8 st) [] s1 else countDrop s1

/-! ### Requests of other devices (R545, R546) -/

/-- The target address of a request. -/
def reqAddr (p : FrxPacket) : Nat := (p.addrH.toNat % 2 ^ 23 * 65536 + fieldAt p.payload 0 2) / 64 * 64

/-- The byte-enable mask of a request. -/
def reqMask (p : FrxPacket) : BitVec 64 := BitVec.ofNat 64 (fieldAt p.payload 8 8)

/-- The first enabled byte of a mask. -/
def maskOffset (m : BitVec 64) : Nat := ((List.range 64).find? fun i => m.getLsbD i).getD 0

/-- May a node reach a physical page (R546)? -/
def remoteMay (s : State) (node : BitVec 16) (page : Nat) : Bool :=
  decide (page ≤ 1572863) && s.board.parts.any fun q =>
    q.hasFrame page && s.board.tunnels.any fun t => t.part == q.num && t.node == node

/-- A request of another device: DENIED and counted, or performed at its sector. -/
def serve (p : FrxPacket) (run : Nat → State → State) (s : State) : State :=
  let pa := reqAddr p
  if remoteMay s p.src (pa / 2 ^ 18) then run pa s
  else sendReply p 3 [] { s with frx := { s.frx with denied := satInc s.frx.denied } }

/-- The sector with 0 in every byte that is not enabled. -/
def maskedData (m : BitVec 64) (bs : List Byte) : List Byte :=
  (List.range 64).map fun i => if m.getLsbD i then bs.getD i 0 else 0

/-- A remote read. -/
def serveRead (p : FrxPacket) (pa : Nat) (s : State) : State :=
  match probeHbm 5 pa s with
  | (true, s1) => sendReply p 4 [] s1
  | (false, s1) => sendReply p 0 (maskedData (reqMask p) (s1.hbm.bytes pa 64)) s1

/-- FRX_READ_REQUEST (R546). -/
def execFrxReadRequest (link : Fin 8) (p : FrxPacket) (s : State) : Host.Outcome State Fault Refusal :=
  .next (arrive link.val p (serve p (serveRead p)) s)

/-- A remote write. -/
def serveWrite (p : FrxPacket) (pa : Nat) (s : State) : State :=
  let bs := maskedBytes (reqMask p) (BitVec.ofNat 512 (leNat (bytesAt p.payload 16 64)))
  match probeWrite 5 pa bs s with
  | (true, s1) => sendReply p 4 [] s1
  | (false, s1) => sendReply p 0 [] (writeHbm none pa bs s1)

/-- FRX_WRITE_REQUEST (R546). -/
def execFrxWriteRequest (link : Fin 8) (p : FrxPacket) (s : State) : Host.Outcome State Fault Refusal :=
  .next (arrive link.val p (serve p (serveWrite p)) s)

/-- A remote AMO: the old value is the answer. -/
def serveAmo (p : FrxPacket) (sec : Nat) (s : State) : State :=
  let pa := sec + maskOffset (reqMask p) / 8 * 8
  match probeHbm 5 pa s with
  | (true, s1) => sendReply p 4 [] s1
  | (false, s1) =>
    let old := BitVec.ofNat 64 (leNat (s1.hbm.bytes pa 8))
    let new := amoOp (p.code.toNat - 2) old (BitVec.ofNat 64 (fieldAt p.payload 16 8))
    sendReply p 0 (leBytes 8 old.toNat) (writeHbm none pa (enabled (leBytes 8 new.toNat)) s1)

/-- FRX_AMO_REQUEST (R545, R546). -/
def execFrxAmoRequest (link : Fin 8) (p : FrxPacket) (s : State) : Host.Outcome State Fault Refusal :=
  .next (arrive link.val p (serve p (serveAmo p)) s)

/-- A remote DAMO (R116).  The request does not carry DCTL.OVF, so what an overflow does at the target
    is a free value. -/
def serveDamo (p : FrxPacket) (sec : Nat) (s : State) : State :=
  let pa := sec + maskOffset (reqMask p) / 16 * 16
  match probeHbm 5 pa s with
  | (true, s1) => sendReply p 4 [] s1
  | (false, s1) =>
    let s2 := { s1 with free := s1.free + 1 }
    match damo (Config.freeBool s1.free) (leNat (s2.hbm.bytes pa 16)) (fieldAt p.payload 16 16) with
    | (st, some v) => sendReply p 0 (leBytes 8 st) (writeHbm none pa (enabled (leBytes 16 v)) s2)
    | (st, none) => sendReply p 0 (leBytes 8 st) s2

/-- FRX_DAMO_REQUEST (R545, R546). -/
def execFrxDamoRequest (link : Fin 8) (p : FrxPacket) (s : State) : Host.Outcome State Fault Refusal :=
  .next (arrive link.val p (serve p (serveDamo p)) s)

/-! ### Answers to this device (R547, R548) -/

/-- A response or acknowledge ends the request of its tag; with none it is late. -/
def takeAnswer (p : FrxPacket) (s : State) : State :=
  match reqOf false p.tag s with
  | some r => complete r p.code (BitVec.ofNat 512 (leNat (p.payload.take 64))) s
  | none => { s with frx := { s.frx with late := satInc s.frx.late } }

/-- FRX_RESPONSE (R548). -/
def execFrxResponse (link : Fin 8) (p : FrxPacket) (s : State) : Host.Outcome State Fault Refusal :=
  .next (arrive link.val p (takeAnswer p) s)

/-- FRX_WRITE_ACKNOWLEDGE (R548, R549). -/
def execFrxWriteAcknowledge (link : Fin 8) (p : FrxPacket) (s : State) :
    Host.Outcome State Fault Refusal :=
  .next (arrive link.val p (takeAnswer p) s)

/-- A request ends with TIMEOUT (R547). -/
def requestTimeout (tag : BitVec 32) (s : State) : State :=
  match reqOf false tag s with
  | some r => complete r 5 0 { s with frx := { s.frx with timeout := satInc s.frx.timeout } }
  | none => s

/-- FRX_REQUEST_TIMEOUT (R547). -/
def execFrxRequestTimeout (tag : BitVec 32) (s : State) : Host.Outcome State Fault Refusal :=
  .next (requestTimeout tag s)

/-! ### Strips (R551, R553) -/

/-- The sender's tunnel number of a strip or a notice. -/
def tagTunnel (tag : BitVec 32) : BitVec 6 := tag.extractLsb' 16 6

/-- The strip of a packet (Table 9.1): re-coded as it arrives, a poisoned one with a double-bit error in every
    byte (R551). -/
def stripOf (p : FrxPacket) : Strip :=
  { data := padTo 256 p.payload, nbytes := p.tag.extractLsb' 0 9, eop := p.tag.getLsbD 15,
    pseq := p.tag.extractLsb' 9 4,
    flaws := if p.code.getLsbD 0 then (List.range 256).map fun i => (i, .bits 0 1) else [] }

/-- A strip from the node and tunnel that an inbound tunnel names waits for its queue; any other is
    discarded and counted. -/
def takeTunnelStrip (p : FrxPacket) (s : State) : State :=
  match s.board.tunnels.find? fun t => t.inbound && t.node == p.src && t.rtun == tagTunnel p.tag with
  | none => { s with frx := { s.frx with denied := satInc s.frx.denied } }
  | some x =>
    let w := SMap.get [] s.frx.inWait x.num ++ [stripOf p]
    tunnelPass x w.length { s with frx := { s.frx with inWait := s.frx.inWait.put x.num w } }

/-- FRX_STRIP (R553). -/
def execFrxStrip (link : Fin 8) (p : FrxPacket) (s : State) : Host.Outcome State Fault Refusal :=
  .next (arrive link.val p (takeTunnelStrip p) s)

/-! ### Notices (R554 to R556) -/

/-- A notice through a tunnel reaches the tunnel's chain; one that names no tunnel has no effect. -/
def takeNotice (p : FrxPacket) (f : Nat → Nat → State → State) (s : State) : State :=
  match s.board.tunnels.find? fun t => t.node == p.src && t.rtun == tagTunnel p.tag with
  | none => s
  | some x =>
    match tunnelChain s x with
    | some c => f c x.num s
    | none => s

/-- FREEZE (R400): the chain freezes with cause 5 and passes the notice on. -/
def takeFreeze (c _ : Nat) (s : State) : State := freezeChain c 5 none s

/-- FRX_FREEZE_NOTICE (R554). -/
def execFrxFreezeNotice (link : Fin 8) (p : FrxPacket) (s : State) : Host.Outcome State Fault Refusal :=
  .next (arrive link.val p (takeNotice p takeFreeze) s)

/-- READY (R555): counted for its tunnel while the chain is frozen; the chain may go on. -/
def takeReady (c t : Nat) (s : State) : State :=
  if (chainSt s c).frozen then
    tryResume c (modChain c (fun ch => { ch with readyIn := insertNat t ch.readyIn }) s)
  else s

/-- FRX_READY_NOTICE (R555). -/
def execFrxReadyNotice (link : Fin 8) (p : FrxPacket) (s : State) : Host.Outcome State Fault Refusal :=
  .next (arrive link.val p (takeNotice p takeReady) s)

/-- ABORT (R403): the chain is aborted and passes the notice on. -/
def takeAbortNotice (c t : Nat) (s : State) : State :=
  let lctx := (tunnelOf s t).bind fun x => if x.lctx = 0xFF then none else some x.lctx
  abortChain c [] [] lctx s

/-- FRX_ABORT_NOTICE (R556). -/
def execFrxAbortNotice (link : Fin 8) (p : FrxPacket) (s : State) : Host.Outcome State Fault Refusal :=
  .next (arrive link.val p (takeNotice p takeAbortNotice) s)

end Sys2Proof.Machine
end

