-- ==== Sys2Proof/Machine/Registers.lean ====
section
/-! DEFINITION. Register accesses as commands: the registers of the steward's space (Tables 11.12 to
11.15, 12.12, 12.13, 14.10 to 14.12, 15.6 to 15.8), the tender, map, castle and rebuild registers, and
the patrol scrub (R21 to R25, R45, R87 to R99, R126, R127, R481, R527, R598). -/

namespace Sys2Proof.Machine

/-! ### Management registers -/

/-- MG_I3CST (Table 11.13). -/
def i3cStatus (s : State) : Word :=
  (match s.session with
    | some x => place 16 32 x.seq.toNat ||| place 12 2 x.slot.toNat ||| flag 11 true
    | none => 0) |||
  flag 10 s.cmd.response.isSome ||| flag 9 s.i3c.ibien |||
  (match s.i3c.da with | some d => flag 8 true ||| place 0 7 d.toNat | none => 0)

/-- MG_PINST (Table 11.15).  The ROM that has stopped drives ALERT_N low (R491). -/
def pinStatus (s : State) : Word :=
  flag 8 s.pins.thermtrip ||| flag 7 s.pins.pwrbrk ||| flag 6 s.pins.force |||
    place 3 3 s.pins.addrSel.toNat ||| flag 2 (s.mg.alert != 0 || s.boot.step == 15) ||| flag 1 s.boot.ready |||
    flag 0 s.pins.resetN

/-- MG_BOOTST (Table 12.12). -/
def bootStatus (s : State) : Word :=
  let b := s.boot
  place 32 32 s.nv.boots.toNat ||| place 24 4 b.fwCodeB.toNat ||| place 20 4 b.fwCodeA.toNat |||
    flag 19 b.recovery ||| flag 18 b.fwslotB ||| flag 17 b.openingReg |||
    flag 16 (b.stslotB && !b.openingReg) ||| place 8 4 b.cause.toNat ||| place 0 4 b.step.toNat

/-- MG_PWRST (Table 14.10). -/
def powerStatus (s : State) : Word :=
  let p := s.pw
  place 48 16 p.pkg.toNat ||| place 32 16 p.plimit.toNat ||| flag 10 p.throt ||| flag 9 p.guard |||
    flag 8 p.brake ||| place 0 3 (loopState s).toNat

/-- MG_PWRCAL (Table 14.11). -/
def powerCal (s : State) : Word :=
  let k := s.pw.calApplied
  place 48 16 k[3].toNat ||| place 32 16 k[2].toNat ||| place 16 16 k[1].toNat ||| place 0 16 k[0].toNat

/-- MG_CLKRUN (Tables 15.1, 15.6): the ECLK of a square stops while it is PARKED or FAILED. -/
def clkRun (s : State) : Word :=
  squareMask ((List.range 64).filter fun i =>
    s.boot.conversion && (s.sqr i).st != .parked && (s.sqr i).st != .failed)

/-- Do the rank controllers run: step 7 of the boot is over (Table 15.1)? -/
def ranksRun (s : State) : Bool := s.boot.conversion && s.boot.ranks

/-- MG_CLKRUN1 (Tables 15.1, 15.6), as a debug read finds it: the read itself drives IKCLK. -/
def clkRun1 (s : State) : Word :=
  let bits (lo n : Nat) (f : Nat → Bool) : Word :=
    (List.range n).foldl (fun w i => w ||| flag (lo + i) (f i)) 0
  flag 25 true ||| flag 24 s.cxl.up ||| bits 16 8 (fun i => (frxLink s i).st == 1 || (frxLink s i).st == 2) |||
    bits 8 8 (fun _ => ranksRun s) |||
    bits 4 4 (fun q => s.boot.conversion && !s.hub.unreachable.getLsbD q) |||
    flag 1 s.mg.refLock ||| flag 0 s.boot.conversion

/-- MG_XCOAL0 (`second` false) and MG_XCOAL1 (Table 15.7). -/
def xcoal (second : Bool) (s : State) : Word :=
  let l := s.mg.xcoal.toList
  let l := if second then l.drop 8 else l.take 8
  BitVec.ofNat 64 (leNat l)

/-- A coalesce register read: every field of it returns to 0 (R598). -/
def clearXcoal (second : Bool) (s : State) : State :=
  let f (i : Fin 14) : Byte := if decide (8 ≤ i.val) = second then 0 else s.mg.xcoal[i]
  { s with mg := { s.mg with xcoal := Vector.ofFn f } }

/-- Events merged at the crossings since the counters were last looked at (R598): how many is timing, and a
    free value (log entry 53). -/
def mergeEvents (s : State) : State :=
  let up (i : Fin 14) : Byte := satAdd s.mg.xcoal[i] (Config.freeNat (s.free + i.val))
  { s with free := s.free + 14, mg := { s.mg with xcoal := Vector.ofFn up } }

/-- The management register at an offset. -/
def mgRead (s : State) (off : Nat) : Word :=
  if off = 0x000 then flag 0 s.mg.remap
  else if off = 0x008 then i3cStatus s
  else if off = 0x010 then s.mg.alert.setWidth 64
  else if off = 0x018 then pinStatus s
  else if off = 0x100 then bootStatus s
  else if off = 0x108 then BitVec.ofNat 64 s.nv.nextSeq
  else if off = 0x110 then place 32 32 s.nv.lostTot.toNat ||| place 0 17 (unarchived s.nv)
  else if off = 0x118 then place 32 32 s.mg.nvPasses.toNat ||| place 0 12 s.mg.nvBlock.toNat
  else if off = 0x200 then powerStatus s
  else if off = 0x208 then
    place 48 2 s.pw.ratio.toNat ||| place 32 16 s.pw.iin.toNat ||| place 0 16 s.pw.vin.toNat
  else if off = 0x210 then powerCal s
  else if off = 0x218 then
    place 32 32 s.pw.periods.toNat ||| place 16 16 s.pw.overrun.toNat ||| place 0 16 s.pw.guards.toNat
  else if off = 0x300 then clkRun s
  else if off = 0x308 then clkRun1 s
  else if off = 0x310 then s.mg.timebase
  else if off = 0x318 then xcoal false s
  else if off = 0x320 then xcoal true s
  else if off = 0x328 then s.mg.xlost.setWidth 64
  else if off = 0x330 then
    place 40 24 s.mg.wdClose.toNat ||| place 16 24 s.mg.wdOpen.toNat ||| flag 0 s.mg.wdEn
  else if off = 0x340 then place 32 32 s.mg.restarts.toNat ||| place 0 24 s.mg.wdT.toNat
  else if off = 0x348 then place 8 8 s.mg.rkbusy.toNat ||| place 0 8 s.mg.mgbusy.toNat
  else 0

/-- MG_SYSCTL written (R481). -/
def setRemap (v : Word) (s : State) : State := { s with mg := { s.mg with remap := v.getLsbD 0 } }

/-- MG_ALERTST written: a 1 clears its bit, and a cause that still holds sets it again (R478); a change
    raises an in-band interrupt (R456). -/
def clearAlerts (v : Word) (s : State) : State :=
  let old := s.mg.alert
  let a := keptAlerts (v.setWidth 6) s
  let s1 := { s with mg := { s.mg with alert := a } }
  if a = old then s1 else raiseIbi 0xA2 s1

/-- A management register written; a kick is STEWARD_WATCHDOG_KICK's. -/
def mgWrite (off : Nat) (v : Word) (s : State) : State :=
  if off = 0x000 then setRemap v s
  else if off = 0x010 then clearAlerts v s
  else if off = 0x330 then
    { s with mg := { s.mg with wdClose := v.extractLsb' 40 24, wdOpen := v.extractLsb' 16 24 } }
  else if off = 0x338 then stewardKick v s
  else if off = 0x348 then
    { s with mg := { s.mg with rkbusy := s.mg.rkbusy &&& ~~~(v.extractLsb' 8 8),
                               mgbusy := s.mg.mgbusy &&& ~~~(v.setWidth 8) } }
  else s

/-! ### The hub-register target of the steward's space (Table 11.11) -/

/-- The base of the hub registers in the steward's space. -/
def hubBase : Nat := 0x60000000

/-- The offset at which the management registers begin. -/
def mgBase : Nat := 0xF00000

/-- A register of the hub target read: its value, and the state after the read's side effects. -/
def hubRead (off : Nat) (s : State) : Word × State :=
  if off < mgBase then devRead (some 513) off s
  else
    let o := off - mgBase
    let w := mgRead s o
    if o = 0x318 then (w, clearXcoal false s) else if o = 0x320 then (w, clearXcoal true s) else (w, s)

/-- A register of the hub target written. -/
def hubWrite (off : Nat) (v : Word) (s : State) : State :=
  if off < mgBase then devWrite .steward off v s else mgWrite (off - mgBase) v s

/-! ### The host's registers in BAR2 (Tables 13.2, 13.3) -/

/-- The MSI-X table by the PCIe layout, 16 bytes a vector (log entry 21): the message address, whose bits 1:0 are
    0, and then the message data with the mask bit in bit 32. -/
def msixWrite (vec : Nat) (upper : Bool) (v : Word) (s : State) : State :=
  let e := SMap.get (0, 0) s.cxl.msixTable vec
  if upper then
    let b := (1 : BitVec 256) <<< vec
    let m := if v.getLsbD 32 then s.cxl.msixMask ||| b else s.cxl.msixMask &&& ~~~b
    sendPending { s with cxl := { s.cxl with
      msixTable := s.cxl.msixTable.put vec (e.1, v.setWidth 32), msixMask := m } }
  else { s with cxl := { s.cxl with msixTable := s.cxl.msixTable.put vec (v &&& ~~~3, e.2) } }

/-- What a host read of a doubleword pair of the MSI-X table finds. -/
def msixShows (c : Cxl) (vec : Nat) (upper : Bool) : Word :=
  let e := SMap.get (0, 0) c.msixTable vec
  if upper then place 0 32 e.2.toNat ||| flag 32 (c.msixMask.getLsbD vec) else e.1

/-- A 64-bit host write to an offset of BAR2 (R521, R527). -/
def hostWrite (off : Nat) (v : Word) (s : State) : State :=
  let busy := (s.mapCopy 512).busy
  if !barOpen s then s
  else if off = 0x8000 then
    if busy then setCode 512 7 s
    else s.modCopy 512 fun m => { m with idx := v.setWidth 21, part := v.extractLsb' 24 4 }
  else if off = 0x8008 then
    if busy then setCode 512 7 s else s.modCopy 512 fun m => { m with data := v }
  else if off = 0x8010 then mapCommand .host (v.toNat % 8) s
  else if off = 0x9000 then { s with cxl := { s.cxl with hbase := v &&& 0xFFFFFFFFFFFC0000 } }
  else if 0xA000 ≤ off ∧ off < 0xB000 ∧ off % 8 = 0 then msixWrite ((off - 0xA000) / 16) (off % 16 == 8) v s
  else s

/-- What a host read of `n` bytes at an offset of the doorbell page of a context finds (R521, R529, Table 13.4):
    only aligned reads of 4 or 8 bytes are decoded. -/
def doorbellShows (s : State) (c : Byte) (off n : Nat) : Word :=
  let x := s.ctx c
  let reg : Word :=
    if off / 8 = 1 then x.head.setWidth 64
    else if off / 8 = 2 then
      place 48 16 x.cfail.toNat ||| place 32 16 x.badtail.toNat ||| flag 1 x.ringerr ||| flag 0 x.granted
    else 0
  if !barOpen s || !x.granted || off % n != 0 then 0
  else if n = 8 then reg
  else if n = 4 then (if off % 8 = 4 then reg >>> 32 else reg &&& 0xFFFFFFFF)
  else 0

/-- Two 32-bit registers as one word. -/
def pair32 (lo hi : BitVec 32) : Word := hi ++ lo

/-- What a 64-bit host read of the CXL component registers finds, by the CXL layout of the structures that the
    model holds (R521, Table 13.2; log entry 21): the HDM decoder and, from 0x1000, CXL RAS. -/
def componentShows (c : Cxl) (off : Nat) : Option Word :=
  let f := c.cfg
  match off with
  | 0x00 => some (flag 33 c.hdm.on)
  | 0x10 => some c.hdm.base
  | 0x18 => some c.hdm.size
  | 0x20 => some (flag 9 c.hdm.committed ||| flag 10 c.hdm.committed)
  | 0x1000 => some (pair32 f.rasUnc f.rasUncMask)
  | 0x1008 => some (pair32 f.rasUncSev f.rasCor)
  | 0x1010 => some (pair32 f.rasCorMask 0)
  | _ => none

/-- The host writes a CXL component register (R521, R522): base and size of a committed decoder stay, a 1 clears a
    bit of a status register.  Interleave ways are 1 (Table 13.1). -/
def componentWrite (off : Nat) (v : Word) (c : Cxl) : Cxl :=
  let d := c.hdm
  let f := c.cfg
  let lo : BitVec 32 := v.setWidth 32
  let hi : BitVec 32 := v.extractLsb' 32 32
  let page : Word := v &&& 0xFFFFFFFFF0000000
  match off with
  | 0x00 => { c with hdm := { d with on := v.getLsbD 33 } }
  | 0x10 => if d.committed then c else { c with hdm := { d with base := page } }
  | 0x18 => if d.committed then c else { c with hdm := { d with size := page } }
  | 0x20 => { c with hdm := { d with committed := v.getLsbD 9 } }
  | 0x1000 => { c with cfg := { f with rasUnc := f.rasUnc &&& ~~~lo, rasUncMask := hi } }
  | 0x1008 => { c with cfg := { f with rasUncSev := lo, rasCor := f.rasCor &&& ~~~hi } }
  | 0x1010 => { c with cfg := { f with rasCorMask := lo } }
  | _ => c

/-- What a 64-bit host read of the configuration space finds (R520): the header by the PCIe layout, and AER at
    0x100 (log entry 21); none where the manual gives no contents. -/
def configShows (c : Cxl) (off : Nat) : Option Word :=
  let f := c.cfg
  match off with
  | 0x00 => some (place 32 16 f.command.toNat ||| place 16 16 0x9512 ||| place 0 16 Config.vendorId.toNat)
  | 0x08 => some (place 8 24 0x120000 ||| place 0 8 Config.pciRevision.toNat)
  | 0x10 => some (f.bar0 ||| 4)
  | 0x18 => some (f.bar2 ||| 4)
  | 0x100 => some (place 32 32 f.aerUnc.toNat ||| 0x20001)
  | 0x108 => some (pair32 f.aerUncMask f.aerUncSev)
  | 0x110 => some (pair32 f.aerCor f.aerCorMask)
  | _ => none

/-- The host writes the configuration space (R520, R521): the identifying fields are read-only. -/
def configWrite (off : Nat) (v : Word) (c : Cxl) : Cxl :=
  let f := c.cfg
  let lo : BitVec 32 := v.setWidth 32
  let hi : BitVec 32 := v.extractLsb' 32 32
  match off with
  | 0x00 => { c with cfg := { f with command := hi.setWidth 16 &&& 0x0147 } }
  | 0x10 => { c with cfg := { f with bar0 := v &&& 0xFFFFFFFFFFF00000 } }
  | 0x18 => { c with cfg := { f with bar2 := v &&& 0xFFFFFFFFFFFF0000 } }
  | 0x100 => { c with cfg := { f with aerUnc := f.aerUnc &&& ~~~hi } }
  | 0x108 => { c with cfg := { f with aerUncMask := lo, aerUncSev := hi } }
  | 0x110 => { c with cfg := { f with aerCor := f.aerCor &&& ~~~lo, aerCorMask := hi } }
  | _ => c

/-- A write of the host to what stays accessible while the link is up (R521). -/
def cxlPortWrite (f : Cxl → Cxl) (s : State) : State :=
  if s.cxl.up && !s.cxl.perst then { s with cxl := f s.cxl } else s

/-- A host write of some bytes to BAR0 (R521, R529): only an aligned one of 4 or 8 bytes is decoded, and every one
    to the page of a context that is not granted counts. -/
def doorbellWrite (addr n : Nat) (v : Word) (s : State) : State :=
  let c : Byte := BitVec.ofNat 8 (addr / 0x1000)
  let off := addr % 0x1000
  if !barOpen s then s
  else if !(s.ctx c).granted then { s with cxl := { s.cxl with dbdrop := satInc s.cxl.dbdrop } }
  else if off = 0 ∧ (n = 4 ∨ n = 8) then doorbell c (v.setWidth 32) s
  else s

/-- What a 64-bit host read of BAR2 finds (R521, R527, R534, Table 13.3); none where the manual gives no contents
    of a component register. -/
def barShows (s : State) (off : Nat) : Option Word :=
  let m := s.mapCopy 512
  if off < 0x8000 then componentShows s.cxl off
  else if !barOpen s then some 0
  else if off = 0x8000 then some (place 24 4 m.part.toNat ||| place 0 21 m.idx.toNat)
  else if off = 0x8008 then some m.data
  else if off = 0x8018 then some (flag 9 s.hub.shootBusy ||| flag 8 m.busy ||| place 0 4 m.code.toNat)
  else if off < 0x9000 then some 0
  else if off = 0x9000 then some s.cxl.hbase
  else if 0xA000 ≤ off ∧ off < 0xB000 then some (msixShows s.cxl ((off - 0xA000) / 16) (off % 16 == 8))
  else if 0xB000 ≤ off ∧ off < 0xB020 ∧ off % 8 = 0 then
    some (s.cxl.msixPend.extractLsb' (8 * (off - 0xB000)) 64)
  else some 0

/-! ### One access of an engine -/

/-- One 64-bit scalar store of a value to an address. -/
def storeWordInst (e : Nat) (va v : Word) : Inst :=
  { word := wordI 0x1E 0 0 0, mem := true,
    run := do
      storeAt e va 8 v
      return .next }

/-- One 64-bit scalar load of an address into a register. -/
def loadWordInst (e : Nat) (va : Word) (rd : Reg) : Inst :=
  { word := wordI 0x1A rd 0 0, mem := true,
    run := do
      let v ← loadAt e va 8
      updE e fun x => x.setReg rd v
      return .next }

/-- A command of an engine, the steward or the host by who makes it; the steward acts while it runs
    its program. -/
def byWriter (w : Writer) (va v : Word) (steward : State → State) (s : State) : State :=
  match w with
  | .engine e => issue e.val (storeWordInst e.val va v) s
  | .steward => if stewardRuns s then steward s else s
  | .host => s
  | .hostDecoder => s
  | .hostConfig => s
  | .hostDoorbell _ => s

/-- A register of the hub written at an address of the steward's space (R21, Table 11.11). -/
def hubStore (addr : Nat) (v : Word) (s : State) : State :=
  let off := addr - hubBase
  if hubBase ≤ addr ∧ off < 0x1000000 ∧ off % 8 = 0 then hubWrite off v s else s

/-- REGISTER_WRITE (R21): an engine stores to a register, the steward writes its hub registers, the host
    those of BAR2, the CXL component registers or the configuration space, or BAR0. -/
def execRegisterWrite (w : Writer) (addr v : Word) (s : State) : Host.Outcome State Fault Refusal :=
  match w with
  | .host => .next (hostWrite addr.toNat v s)
  | .hostDecoder => .next (cxlPortWrite (componentWrite addr.toNat v) s)
  | .hostConfig => .next (cxlPortWrite (configWrite addr.toNat v) s)
  | .hostDoorbell n => .next (doorbellWrite addr.toNat n v s)
  | .engine e => .next (byWriter (.engine e) addr v id s)
  | .steward => .next (byWriter .steward addr v (hubStore addr.toNat v) s)

/-! ### Tender channels (R45, R47) -/

/-- The address of SQ_TNDn_CTL in an engine's square window. -/
def tenderCtlAddr (n : Nat) : Word := 0xFFFF30000118 + BitVec.ofNat 64 (0x40 * n)

/-- TENDER_GO (R45): a write of SQ_TNDn_CTL with GO = 1.  Only engines of the square reach it (R51). -/
def execTenderGo (w : Writer) (_sq : SqId) (n : Fin 4) (v : Word) (s : State) :
    Host.Outcome State Fault Refusal :=
  .next (byWriter w (tenderCtlAddr n.val) (v ||| 1) id s)

/-- TENDER_UNIT (R47). -/
def execTenderUnit (sq : SqId) (n : Fin 4) (s : State) : Host.Outcome State Fault Refusal :=
  .next (tenderUnit sq.val n.val s)

/-! ### Registers that a read clears (R25, R126, R598) -/

/-- A read of MEM_UE_LOG by the steward or the debug master clears VALID. -/
def ueLogRead (s : State) : State := (devRead (some 513) 0x2018 s).2

/-- May the debug master make reads with side effects now (R25, R624)? -/
def debugConsumes (s : State) : Bool := s.ik.level == 2 && s.ik.consume

/-- MEM_UE_LOG_READ (R126). -/
def execMemUeLogRead (r : Reader) (s : State) : Host.Outcome State Fault Refusal :=
  match r with
  | .engine e rd => issueOut e (loadWordInst e.val 0xFFFF40002018 rd) s
  | .steward => .next (if stewardRuns s then ueLogRead s else s)
  | .debugMaster => .next (if debugConsumes s then ueLogRead s else s)

/-- MG_XCOAL_READ (R598); no engine reaches these registers. -/
def execMgXcoalRead (r : Reader) (second : Bool) (s : State) : Host.Outcome State Fault Refusal :=
  match r with
  | .engine _ _ => .next s
  | .steward => .next (if stewardRuns s then clearXcoal second s else s)
  | .debugMaster => .next (if debugConsumes s then clearXcoal second s else s)

/-! ### The translation map (R87 to R99, R527) -/

/-- A map command of a copy: an engine's store to MAP_CMD, the host's write to HMAP_CMD, or the steward's
    write to MAP_CMD. -/
def mapPort (p : MapPort) (op : Nat) (s : State) : State :=
  match p with
  | .engine e => issue e.val (storeWordInst e.val 0xFFFF40001028 (BitVec.ofNat 64 op)) s
  | .host => hostWrite 0x8010 (BitVec.ofNat 64 op) s
  | .steward => if stewardRuns s then stewardCommand op s else s

/-- WRITE (R90). -/
def execWrite (p : MapPort) (s : State) : Host.Outcome State Fault Refusal := .next (mapPort p 1 s)

/-- READ_LIVE (R89). -/
def execReadLive (p : MapPort) (s : State) : Host.Outcome State Fault Refusal := .next (mapPort p 2 s)

/-- READ_SHADOW (R89). -/
def execReadShadow (p : MapPort) (s : State) : Host.Outcome State Fault Refusal :=
  .next (mapPort p 3 s)

/-- SHOOT (R91). -/
def execShoot (p : MapPort) (s : State) : Host.Outcome State Fault Refusal := .next (mapPort p 4 s)

/-- WRITE_SHOOT (R91). -/
def execWriteShoot (p : MapPort) (s : State) : Host.Outcome State Fault Refusal :=
  .next (mapPort p 5 s)

/-- SHOOT_COMPLETE (R87, R91). -/
def execShootComplete (p : MapPort) (s : State) : Host.Outcome State Fault Refusal :=
  .next (shootComplete p s)

/-- SHOOT_DRAIN_COMPLETE (R92). -/
def execShootDrainComplete (s : State) : Host.Outcome State Fault Refusal := .next (shootDrain s)

/-- CASTLE (R88, R96). -/
def execCastle (w : Writer) (s : State) : Host.Outcome State Fault Refusal :=
  .next (byWriter w 0xFFFF40001000 1 (castleRequest .steward) s)

/-- CASTLE_FENCE_RESTORE (R99). -/
def execCastleFenceRestore (s : State) : Host.Outcome State Fault Refusal := .next (fenceRestore s)

/-- REBUILD_GO (R93). -/
def execRebuildGo (w : Writer) (s : State) : Host.Outcome State Fault Refusal :=
  .next (byWriter w 0xFFFF40001050 1 (rebuildGo .steward) s)

/-- REBUILD_ENTRY (R94). -/
def execRebuildEntry (s : State) : Host.Outcome State Fault Refusal := .next (rebuildEntry s)

/-! ### Patrol scrub (R127) and REMAP (R481) -/

/-- The scrub's read of the tile store of an engine, whatever the state of its square (log entry 74): the
    steward port may lose arbitration (R102), and each byte that fails is met on its own (R120). -/
def scrubTile (s : State) (e : Nat) : State :=
  let s1 := loseTile 2 (e * 2 ^ 18) s
  let offs := (s1.flaws.chip.filter fun x => x.array == 0 && x.eng == e).map ChipFlaw.off
  offs.eraseDups.foldl (fun s o => (probeTile (e * 2 ^ 18 + o) 1 s).2) s1

/-- The scrub's read of one sector of HBM. -/
def scrubHbm (s : State) (sec : Nat) : State := (probeHbm 6 (sec * 64) s).2

/-- The scrub's read of one entry of a map copy. -/
def scrubMap (s : State) (x : Nat × Nat) : State := (probeMap x.1 x.2 s).2

/-- A pass of the patrol scrub: every sector, both map copies and every tile store are read; errors are
    corrected, or detected and poisoned, and what the on-die code corrects is counted (R118, R127).  Reads of
    sectors and entries without an error leave nothing. -/
def patrolScrub (s : State) : State :=
  let s1 := (flawedSectors s.flaws).foldl scrubHbm s
  let maps := (s1.flaws.chip.filter fun x => x.array == 4 || x.array == 5).map fun x => (x.array, x.line)
  let s2 := maps.eraseDups.foldl scrubMap s1
  let s3 := (List.range 576).foldl scrubTile s2
  { s3 with hub := { s3.hub with scrubPasses := s3.hub.scrubPasses + 1 } }

/-- PATROL_SCRUB (R127): while the steward runs and the memories hold checked data; HBM is inactive in recovery
    (R492). -/
def execPatrolScrub (s : State) : Host.Outcome State Fault Refusal :=
  .next (if stewardRuns s && s.boot.conversion && !s.boot.recovery then patrolScrub s else s)

/-- REMAP (R481): the steward writes MG_SYSCTL. -/
def execRemap (v : Word) (s : State) : Host.Outcome State Fault Refusal :=
  .next (if stewardRuns s then setRemap v s else s)

end Sys2Proof.Machine
end

