-- ==== Sys2Proof/Machine/StewardSpace.lean ====
section
/-! DEFINITION. The targets of the steward's bus matrix as the halted steward core and the memory master reach
them: ROM, SRAM, the NV store, the crypto unit, the peripheral bus and the rank exchange RAMs (R479, R496 to
R499, R606 to R608, R646). -/

namespace Sys2Proof.Machine

/-! ### Places (Table 11.11) -/

/-- Is an offset of the NV store in the factory or the key region (R646)? -/
def nvSecret (o : Nat) : Bool := decide (o < 0xC0000 ∨ (0xD0000 ≤ o ∧ o < 0xE0000))

/-- Where a steward address leads. -/
inductive StewardPlace
  | rom (o : Nat)
  | sram (o : Nat)
  | nv (o : Nat)
  | crypto
  | periph
  | exch (k o : Nat)
  | hub (o : Nat)
  | none
  deriving DecidableEq, Repr

/-- The place of a steward address (Table 11.11).  The memory master never reaches the crypto unit and the
    secret regions (R646); the steward core does. -/
def stewardPlace (core : Bool) (s : State) (a : Nat) : StewardPlace :=
  if a < 0x10000 then if s.mg.remap then .sram a else .rom a
  else if 0x10000000 ≤ a ∧ a < 0x10010000 then .rom (a - 0x10000000)
  else if 0x20000000 ≤ a ∧ a < 0x20100000 then .sram (a - 0x20000000)
  else if 0x30000000 ≤ a ∧ a < 0x31000000 then
    if nvSecret (a - 0x30000000) && !core then .none else .nv (a - 0x30000000)
  else if 0x40000000 ≤ a ∧ a < 0x40010000 then if core then .crypto else .none
  else if 0x41000000 ≤ a ∧ a < 0x41100000 then .periph
  else if 0x50000000 ≤ a ∧ a < 0x50080000 then .exch ((a - 0x50000000) / 0x10000) ((a - 0x50000000) % 0x10000)
  else if hubBase ≤ a ∧ a < hubBase + 0x1000000 then .hub (a - hubBase)
  else .none

/-- Four bytes as a word. -/
def word32 (bs : List Byte) : BitVec 32 := BitVec.ofNat 32 (leNat bs)

/-- Four bytes by their addresses. -/
def fourBytes (f : Nat → Byte) (o : Nat) : List Byte := (List.range 4).map fun i => f (o + i)

/-! ### The NV store (Table 12.6) -/

/-- What the NV store holds at an offset, as far as the manual gives places. -/
inductive NvPlace
  | factory
  | calibration
  | keys
  | counters
  | reserved
  | firmware (slotB : Bool) (i : Nat)
  | structure_ (slotB : Bool) (i : Nat)
  | health (slot i : Nat)
  | ledger (slot i : Nat)
  deriving DecidableEq, Repr

/-- The place of an offset. -/
def nvPlace (o : Nat) : NvPlace :=
  if o < 0xC0000 then .factory
  else if o < 0xD0000 then .calibration
  else if o < 0xE0000 then .keys
  else if o < 0xF0000 then .counters
  else if o < 0x100000 then .reserved
  else if o < 0x200000 then .firmware (decide (0x180000 ≤ o)) ((o - 0x100000) % 0x80000)
  else if o < 0x600000 then .structure_ (decide (0x400000 ≤ o)) ((o - 0x200000) % 0x200000)
  else if o < 0x800000 then .health ((o - 0x600000) / 64) ((o - 0x600000) % 64)
  else .ledger ((o - 0x800000) / 128) ((o - 0x800000) % 128)

/-- The latent error that a read of a place meets. -/
def NvPlace.flaw : NvPlace → Option NvFlaw
  | .firmware b _ => some (.firmware b)
  | .structure_ b _ => some (.structure_ b)
  | .ledger k _ => some (.ledger k)
  | .health k _ => some (.health k)
  | _ => none

/-- What a ring slot of the Boot Ledger holds. -/
def slotBytes (n : Nv) (slot : Nat) : Option (List Byte) :=
  if !n.tail.isEmpty && n.nextSeq % ringSlots == slot then some n.tail
  else (n.ledger.find? fun e => fieldAt e 0 8 % ringSlots == slot).map n.shown

/-- A byte of the NV store, where the manual gives its place and no error spoils it (R499). -/
def nvByte (n : Nv) (o : Nat) : Option Byte :=
  match nvPlace o with
  | .firmware b i => if n.bad (.firmware b) then none else (n.fw.toList.getD (if b then 1 else 0) {}).data[i]?
  | .structure_ b i => if n.bad (.structure_ b) then none else (n.st.toList.getD (if b then 1 else 0) {}).data[i]?
  | .health k i =>
    if n.bad (.health k) then none
    else ((n.health.find? fun h => h.seq % 32768 == k).map healthBytes).bind fun b => b[i]?
  | .ledger k i => (slotBytes n k).bind fun b => b[i]?
  | _ => none

/-- Four bytes of the NV store read; a byte whose contents the manual does not give is a free value. -/
def nvRead (o : Nat) (s : State) : List Byte × State :=
  (fourBytes (fun i => (nvByte s.nv i).getD ((Config.freeWord (s.free + i % 4)).setWidth 8)) o,
    nvMeet (nvPlace o).flaw.toList { s with free := s.free + 4 })

/-- A list of bytes with others written over it from an index, its length kept. -/
def splice (l : List Byte) (i : Nat) (bs : List Byte) : List Byte :=
  (l.take i ++ bs ++ l.drop (i + bs.length)).take l.length

/-- A health-log entry from its bytes (Table 12.7). -/
def healthOf (b : List Byte) : HealthEntry :=
  ⟨fieldAt b 0 8, BitVec.ofNat 64 (fieldAt b 8 8), BitVec.ofNat 32 (fieldAt b 0x10 4),
    BitVec.ofNat 16 (fieldAt b 0x14 2), BitVec.ofNat 16 (fieldAt b 0x16 2), bytesAt b 0x18 40⟩

/-- A two-copy record with one copy no longer valid: its SHA-512 does not match (R494). -/
def NvRec.spoilt {α : Type} (second : Bool) (r : NvRec α) : NvRec α :=
  if second then { r with b := none } else { r with a := none }

/-- A store to the counters region: the manual does not say which record lies there, and the copy that it
    changes is no longer valid. -/
def spoilCounter (k : Nat) (n : Nv) : Nv :=
  let b := decide (8 ≤ k % 16)
  match k % 8 with
  | 0 => { n with fwArb := n.fwArb.spoilt b }
  | 1 => { n with stArb := n.stArb.spoilt b }
  | 2 => { n with bootCount := n.bootCount.spoilt b }
  | 3 => { n with lockout := n.lockout.spoilt b }
  | 4 => { n with claimed := n.claimed.spoilt b }
  | 5 => { n with owner := n.owner.spoilt b }
  | 6 => { n with head := n.head.spoilt b }
  | _ => { n with archived := n.archived.spoilt b }

/-- Four bytes of the NV store written, by the place that they have.  The factory region is read-only, and
    where the manual gives a region's records no places the record that changes, if any, is a free value. -/
def nvWritten (o : Nat) (d : BitVec 32) (s : State) : Nv × State :=
  let n := s.nv
  let bs := leBytes 4 d.toNat
  let k := Config.freeNat s.free
  let s1 := { s with free := s.free + 2 }
  let img (x : ImgSlot) (i : Nat) : ImgSlot := { x with data := splice x.data i bs }
  let hits : Bool := Config.freeBool (s.free + 1)
  match nvPlace o with
  | .factory | .reserved => (n, s)
  | .calibration =>
    (if hits then (spoilCalibration k (Config.freeWord (s.free + 1)) n).renewed (.calibration (k % 448)) else n, s1)
  | .keys =>
    let (key, s2) := freeBytes (if hits then 512 else 64) s1
    (if k % 10 < 9 then n.setKey (k % 10) (if k / 10 % 2 = 0 then [] else key) else n, s2)
  | .counters => (if hits then spoilCounter k n else n, s1)
  | .firmware b i =>
    let j := if b then 1 else 0
    ({ n with fw := n.fw.setIfInBounds j (img (n.fw.toList.getD j {}) i) }, s)
  | .structure_ b i =>
    let j := if b then 1 else 0
    ({ n with st := n.st.setIfInBounds j (img (n.st.toList.getD j {}) i) }, s)
  | .health j i =>
    ({ n with health := n.health.map fun h =>
        if h.seq % 32768 = j then healthOf (splice (healthBytes h) i bs) else h }, s)
  | .ledger j i =>
    if !n.tail.isEmpty && n.nextSeq % ringSlots == j then ({ n with tail := splice n.tail i bs }, s)
    else
      ({ n with ledger := n.ledger.map fun e =>
          if fieldAt e 0 8 % ringSlots = j then splice e i bs else e }, s)

/-- A store to the NV store (R497): one word. -/
def nvWrite (o : Nat) (d : BitVec 32) (s : State) : State :=
  let (n, s1) := nvWritten o d s
  nvSet n s1

/-! ### The rank exchange RAMs (R606 to R608) -/

/-- What the rank port does with the word that the steward port names: nothing, a read or a write in the same
    cycle, or a write some time before. -/
inductive RankUse
  | none
  | read
  | write (w : Word)
  | before (w : Word)

/-- The rank port's access of an access of the steward port, and whether the steward port's is the later of two
    that collide.  The firmware of a rank controller that runs makes it, which the model does not run (log entry
    24): free values. -/
def rankUse (k : Nat) (s : State) : RankUse × Bool × State :=
  if !ranksRun s || (s.rank k).dbg.halted then (.none, false, s)
  else
    let w := Config.freeWord s.free
    let u := match Config.freeNat s.free % 4 with
      | 0 => RankUse.none
      | 1 => .read
      | 2 => .write w
      | _ => .before w
    (u, Config.freeBool s.free, { s with free := s.free + 1 })

/-- The word of an exchange RAM that holds a byte. -/
def exchWord (k o : Nat) (s : State) : Word := BitVec.ofNat 64 (leNat ((s.rank k).ram.bytes (o / 8 * 8) 8))

/-- A word of an exchange RAM written. -/
def setExch (k o : Nat) (w : Word) (s : State) : State :=
  s.modRank k fun r => { r with ram := r.ram.write (o / 8 * 8) (leBytes 8 w.toNat) }

/-- The steward port sees EXCH_BUSY (R608). -/
def stewardBusy (k : Nat) (s : State) : State :=
  { s with mg := { s.mg with mgbusy := s.mg.mgbusy ||| 1 <<< k } }

/-- The rank port sees EXCH_BUSY (R608). -/
def rankBusy (k : Nat) (s : State) : State :=
  { s.modRank k (fun r => { r with exch := true }) with mg := { s.mg with rkbusy := s.mg.rkbusy ||| 1 <<< k } }

/-- Four bytes of an exchange RAM read at the steward port (R607).  A read that collides with a write returns
    undefined data, a free value; the later port sees EXCH_BUSY, and the steward port then repeats its read. -/
def exchRead (k o : Nat) (s : State) : BitVec 32 × State :=
  let (u, late, s1) := rankUse k s
  let part (w : Word) : BitVec 32 := w.extractLsb' (o / 4 % 2 * 32) 32
  match u with
  | .write w =>
    let s2 := setExch k o w s1
    if late then (part w, stewardBusy k s2)
    else (part (Config.freeWord s2.free), rankBusy k { s2 with free := s2.free + 1 })
  | .before w => (part w, setExch k o w s1)
  | _ => (part (exchWord k o s1), s1)

/-- Four bytes of an exchange RAM written at the steward port (R607): its data stays, and of two writes of
    different data the rank port sees EXCH_BUSY. -/
def exchWrite (k o : Nat) (d : BitVec 32) (s : State) : State :=
  let (u, late, s1) := rankUse k s
  let base := match u with
    | .before w => w
    | _ => exchWord k o s1
  let w := if o / 4 % 2 = 1 then d ++ base.setWidth 32 else base.extractLsb' 32 32 ++ d
  let s2 := setExch k o w s1
  match u with
  | .read => if late then stewardBusy k s2 else rankBusy k s2
  | .write x => if x = w then s2 else rankBusy k s2
  | _ => s2

/-! ### Reads and writes -/

/-- A read of the steward's space but for the hub registers; what the manual does not describe is a free
    value. -/
def stewardRead (p : StewardPlace) (s : State) : Option (BitVec 32 × State) :=
  match p with
  | .rom o => some (word32 (fourBytes Config.romByte o), s)
  | .sram o => some (word32 (fourBytes s.mg.sram.get o), s)
  | .nv o => some (word32 (nvRead o s).1, (nvRead o s).2)
  | .crypto => some ((Config.freeWord s.free).setWidth 32, { s with free := s.free + 1 })
  | .periph => some (0, s)
  | .exch k o => some (exchRead k o s)
  | .hub _ => none
  | .none => none

/-- A write of the steward's space but for the hub registers.  The ROM and undescribed registers take none. -/
def stewardStore (p : StewardPlace) (d : BitVec 32) (s : State) : State :=
  match p with
  | .sram o => { s with mg := { s.mg with sram := s.mg.sram.write o (leBytes 4 d.toNat) } }
  | .nv o => nvWrite o d s
  | .exch k o => exchWrite k o d s
  | _ => s

end Sys2Proof.Machine
end

