-- ==== Sys2Proof/Machine/DebugAccess.lean ====
section
/-! DEFINITION. The accesses that the debug port starts (R631 to R651): the target of an access port,
registers and memory of a halted core, fed instructions, the system memory master, and the trace port. -/

namespace Sys2Proof.Machine

/-! ### Ports and targets (R631) -/

/-- A core behind a core port. -/
inductive DbgCore
  | steward
  | rank (k : Nat)
  | engine (e : Nat)
  deriving DecidableEq, Repr

/-- What an access port reaches (Table 16.6). -/
inductive PortSel
  | core (t : DbgCore)
  | memory
  | trace
  | absent
  deriving DecidableEq, Repr

/-- Is there a powered engine at a position of a square: conversion runs, the square is neither PARKED nor
    FAILED, and the position carries a logical engine (R631)? -/
def enginePowered (s : State) (sq pos : Nat) : Bool :=
  s.boot.conversion && (s.sqr sq).st != .parked && (s.sqr sq).st != .failed && decide (pos < 9) &&
    (logicalOf (s.sqr sq) pos).isSome

/-- The access port of a number, and of an engine's square and position. -/
def portSel (s : State) (port sq pos : Nat) : PortSel :=
  if port = 0 then .core .steward
  else if port ≤ 8 then if ranksRun s then .core (.rank (port - 1)) else .absent
  else if port = 9 then
    if enginePowered s sq pos then .core (.engine (sq * 9 + pos)) else .absent
  else if port = 10 then .memory
  else if port = 11 then .trace
  else .absent

/-- The number that names an access port and its target. -/
def portKey (port sq pos : Nat) : Nat := if port = 9 then 9 + 16 * pos + 256 * sq else port

/-- The access port that a number names. -/
def keySel (s : State) (k : Nat) : PortSel := portSel s (k % 16) (k / 256) (k / 16 % 16)

/-- The access port that IK_SELECT chooses. -/
def selected (s : State) : PortSel := portSel s s.ik.port.toNat s.ik.sq.toNat s.ik.pos.toNat

/-- Its number. -/
def selectedKey (s : State) : Nat := portKey s.ik.port.toNat s.ik.sq.toNat s.ik.pos.toNat

/-- What an access of a port goes by (Table 16.12). -/
def flightArgs (s : State) : PortSel → IkArgs
  | .core t =>
    let d := match t with
      | .steward => s.ik.steward
      | .rank k => (s.rank k).dbg
      | .engine e => (s.eng e).dbg
    { addr := d.caddr, rsel := d.rsel }
  | .memory =>
    { addr := s.ik.maddr, space := s.ik.mspace, ctx := s.ik.mctx, sq := s.ik.msq, pos := s.ik.mpos }
  | .trace =>
    { addr := s.ik.taddr.setWidth 48, sq := s.ik.csq, pos := s.ik.cpos, idx := s.ik.cidx, half := s.ik.chalf }
  | .absent => {}

/-- The debug state of a core. -/
def coreDbg (s : State) : DbgCore → CoreDbg
  | .steward => s.ik.steward
  | .rank k => (s.rank k).dbg
  | .engine e => (s.eng e).dbg

/-- The state with the debug state of a core changed. -/
def modCore (t : DbgCore) (f : CoreDbg → CoreDbg) (s : State) : State :=
  match t with
  | .steward => modSteward f s
  | .rank k => s.modRank k fun r => { r with dbg := f r.dbg }
  | .engine e => s.modEng e fun x => { x with dbg := f x.dbg }

/-- The VSU as IK_CSTAT reports it: 0 idle, 1 group stopped, 2 group held. -/
def vsuCode (s : State) : DbgCore → Nat
  | .engine e =>
    if (s.eng e).trap.vheld then 2 else if (s.eng e).vec.q.isEmpty then 0 else 1
  | _ => 0

/-! ### Ends of an access -/

/-- How an access goes: done with the data of a read, waiting, or failed with a CODE of IK_STAT. -/
inductive AccessEnd
  | ok (data : BitVec 32)
  | wait
  | err (code : BitVec 3)
  deriving DecidableEq, Repr

/-- A half of a word. -/
def half (h : Bool) (w : Word) : BitVec 32 := if h then w.extractLsb' 32 32 else w.setWidth 32

/-- A word with a half replaced. -/
def setHalf (h : Bool) (d : BitVec 32) (w : Word) : Word :=
  if h then d ++ w.setWidth 32 else w.extractLsb' 32 32 ++ d

/-- A debug read without CONSUME leaves the registers that reads clear as they were (R25, R647). -/
def unconsumed (s0 s1 : State) : State :=
  if s0.ik.consume then s1
  else { s1 with hub := { s1.hub with ueLog := if s1.hub.ueLog.getLsbD 63 then s1.hub.ueLog else s0.hub.ueLog }
                 mg := { s1.mg with xcoal := s0.mg.xcoal } }

/-! ### Work of a halted engine (R637, R639, R640) -/

/-- Work of an engine with ring-0 rights, of a debug access or a fed instruction. -/
def asDebug {α : Type} (e : Nat) (m : EM α) (s : State) : EStateM.Result Stop State α :=
  let on (b : Bool) (s : State) : State := s.modEng e fun x => { x with dbg := { x.dbg with feed := b } }
  match m.run (on true s) with
  | .ok a s1 => .ok a (on false s1)
  | .error r s1 => .error r (on false s1)

/-- An engine whose debug access or fed instruction is over: what that waited for is used up, but not what the
    engine's own instruction waits for on its way (R117, R219, R412). -/
def dropWaits (e : Nat) (s : State) : State :=
  s.modEng e fun x => { x with resp := if x.mid then x.resp else [] }

/-- The 32-bit access of IK_CDATA at an engine's own address (R639). -/
def cdataM (e : Nat) (wr : Bool) (d : BitVec 32) (addr : BitVec 48) : EM (BitVec 32) := do
  let dbg := (← engM e).dbg
  let a : Word := addr.setWidth 64
  if (windowOf a).isSome then
    match addr.getLsbD 2, wr with
    | false, false =>
      let v ← loadAt e a 8
      updE e fun x => { x with dbg := { x.dbg with latch := half true v } }
      return half false v
    | true, false => return dbg.latch
    | false, true =>
      updE e fun x => { x with dbg := { x.dbg with hold := d } }
      return 0
    | true, true =>
      storeAt e (a - 4) 8 (d ++ dbg.hold)
      return 0
  else if wr then
    storeAt e a 4 (d.setWidth 64)
    return 0
  else return (← loadAt e a 4).setWidth 32

/-- IK_CADDR advances by 4. -/
def bumpCaddr (t : DbgCore) (s : State) : State := modCore t (fun d => { d with caddr := d.caddr + 4 }) s

/-- IK_CDATA of a halted engine. -/
def engineCdata (e : Nat) (wr : Bool) (d : BitVec 32) (addr : BitVec 48) (s : State) : AccessEnd × State :=
  match asDebug e (cdataM e wr d addr) s with
  | .ok v s1 =>
    let s2 := if wr then s1 else unconsumed s s1
    (.ok v, bumpCaddr (.engine e) (dropWaits e s2))
  | .error .wait s1 => (.wait, s1)
  | .error (.ev _) s1 => (.err 4, dropWaits e s1)

/-- Is a fed word one that R637 refuses: a branch, a jump, LOOP, GATE, GRET, JEND, WFI or BRK? -/
def feedRefused (w : BitVec 32) : Bool :=
  let op := opcodeOf w
  let sub := (w.extractLsb' 21 5).toNat
  decide (0x20 ≤ op ∧ op ≤ 0x24) || (op == 0x25 && decide (5 ≤ sub ∧ sub ≤ 9))

/-- How a fed instruction goes: done, waiting (with the engine as it stood before, once its group has committed),
    refused, or faulted with a cause code. -/
inductive FeedEnd
  | ok
  | wait (was : Option Engine)
  | refused
  | fault (code : Byte)

/-- A byte of memory that a group has written, as it was before. -/
def undoByte (s : State) (p : Nat × Byte) : State :=
  if p.1 < 2 ^ 40 then { s with hbm := s.hbm.set p.1 p.2 }
  else if p.1 < 2 ^ 61 then { s with tile := s.tile.set (p.1 - 2 ^ 40) p.2 }
  else s

/-- A fed streaming instruction that faults has no effect (R637): the engine is as it stood before it, and so is
    every byte of memory that its group has written.  What its reads have met in memory stays (R123, R126). -/
def undoFeed (e : Nat) (was : Engine) (s : State) : State :=
  match (s.eng e).vec.q with
  | [] => s.setEng e was
  | g :: _ =>
    let s1 := g.undo.foldl undoByte s
    { s1 with poison := g.healed.foldl (fun l k => insertNat k l) s1.poison }.setEng e was

/-- The committed group of a fed streaming instruction runs to completion; `was` is the engine before it. -/
def feedGroup (e : Nat) (was : Engine) : Nat → State → FeedEnd × State
  | 0, s => (.wait (some was), s)
  | fuel + 1, s =>
    let x := s.eng e
    if x.vec.q.isEmpty then (.ok, s)
    else if x.vsu.st != .on then (.wait (some was), s)
    else
      match asDebug e (stripBody e) s with
      | .ok _ s1 => feedGroup e was fuel s1
      | .error .wait s1 => (.wait (some was), s1)
      | .error (.ev v) s1 => (.fault v.code, undoFeed e was s1)

/-- As many strips as the group of an engine can have. -/
def feedFuel (e : Nat) (s : State) : Nat := ((s.eng e).vec.q.map VGroup.vl).sum + 2

/-- One fed instruction of a halted engine, from its issue or from its committed group on. -/
def feedRun (e : Nat) (w : BitVec 32) (was : Option Engine) (s : State) : FeedEnd × State :=
  let i := instOfWord e w
  if let some x := was then feedGroup e x (feedFuel e s) s
  else if feedRefused w || (i.streaming && vsuCode s (.engine e) != 0) then (.refused, s)
  else
    let body : EM Flow := do
      decodeCheck (← engM e) i
      i.run
    match asDebug e body s with
    | .error .wait s1 => (.wait none, s1)
    | .error (.ev v) s1 => (.fault v.code, s1)
    | .ok (.post v) s1 => (.fault v.code, keepErrors s1 s)
    | .ok _ s1 => if i.streaming then feedGroup e (s.eng e) (feedFuel e s1) s1 else (.ok, s1)

/-- What a fed instruction leaves as it was: the PC, the delay slot and the counters (R637, R651). -/
def feedKept (x0 x : Engine) : Engine := { x with pc := x0.pc, slot := x0.slot, count := x0.count }

/-- A word fed to a halted engine (R637). -/
def engineFeed (e : Nat) (fl : IkFlight) (s : State) : AccessEnd × Option Engine × State :=
  let keep (s1 : State) : State := s1.modEng e (feedKept (s.eng e))
  match feedRun e fl.data fl.was s with
  | (.ok, s1) => (.ok 0, none, dropWaits e (keep s1))
  | (.wait b, s1) => (.wait, b, keep s1)
  | (.refused, s1) => (.err 4, none, s1)
  | (.fault c, s1) =>
    (.err 4, none, modCore (.engine e) (fun d => { d with fcode := c }) (dropWaits e (keep s1)))

/-! ### The steward core and the rank controllers

The model does not run their firmware: their registers are free values from each halt on (log entry 24). -/

/-- The registers of a core that is no engine, drawn anew. -/
def drawRegs (t : DbgCore) (s : State) : State :=
  let rs := (List.range 33).map fun i => if i = 0 then 0 else Config.freeWord (s.free + i)
  modCore t (fun d => { d with regs := rs }) { s with free := s.free + 33 }

/-! ### Registers of a halted core (R638) -/

/-- A register of a halted core: g0 to g31, or 32 the PC. -/
def coreReg (s : State) (t : DbgCore) (r : Nat) : Word :=
  match t with
  | .engine e => if r = 32 then (s.eng e).pc else (s.eng e).reg (BitVec.ofNat 5 r)
  | t => (coreDbg s t).regs.getD r 0

/-- A register of a halted core written. -/
def setCoreReg (t : DbgCore) (r : Nat) (v : Word) (s : State) : State :=
  match t with
  | .engine e => s.modEng e fun x => if r = 32 then { x with pc := ea48 v } else x.setReg (BitVec.ofNat 5 r) v
  | t => if r = 0 then s else modCore t (fun d => { d with regs := d.regs.set r v }) s

/-- IK_RDATA (R638). -/
def rdataAccess (t : DbgCore) (wr : Bool) (d : BitVec 32) (sel : BitVec 9) (s : State) : AccessEnd × State :=
  let r := (sel.extractLsb' 0 6).toNat
  let h := sel.getLsbD 8
  if !wr then (.ok (half h (coreReg s t r)), s)
  else if r = 32 && !h && d.toNat % 4 != 0 then (.err 4, s)
  else (.ok 0, setCoreReg t r (setHalf h d (coreReg s t r)) s)

/-! ### The steward's space (Table 11.11, R646) -/

/-- A 64-bit register reached by two 32-bit accesses (R639): the latch and the held half are `l` and
    `h`, and the new ones come back. -/
def hubAccess (wr : Bool) (o : Nat) (d l h : BitVec 32) (s : State) :
    AccessEnd × BitVec 32 × BitVec 32 × State :=
  let high := o % 8 = 4
  if wr then
    if high then (.ok 0, l, h, hubWrite (o - 4) (d ++ h) s) else (.ok 0, l, d, s)
  else if high then (.ok l, l, h, s)
  else
    let s0 := if o = mgBase + 0x318 ∨ o = mgBase + 0x320 then mergeEvents s else s
    let (v, s1) := hubRead o s0
    (.ok (half false v), half true v, h, unconsumed s0 s1)

/-- Does NCLK, which drives the device registers, not run yet, so that an access to one waits (R600, Table 15.1)?
    The management registers are in the management domain. -/
def clockStopped (s : State) (o : Nat) : Bool := decide (o < mgBase) && !s.boot.conversion

/-- An access to the steward's space, of the steward core or of the memory master: its end, the latch, the held
    half, and the state. -/
def stewardAccess (core wr : Bool) (a : Nat) (d l h : BitVec 32) (s : State) :
    AccessEnd × BitVec 32 × BitVec 32 × State :=
  match stewardPlace core s a with
  | .none => (.err 4, l, h, s)
  | .hub o => if clockStopped s o then (.wait, l, h, s) else hubAccess wr o d l h s
  | p =>
    if wr then (.ok 0, l, h, stewardStore p d s)
    else
      match stewardRead p s with
      | some (v, s1) => (.ok v, l, h, s1)
      | none => (.err 4, l, h, s)

/-- The rank port of an exchange RAM may take a write of the halted controller of rank `k`: where in the map of
    that core the RAM lies the manual does not give, so whether it does, and at which word, are free (log entry
    49). -/
def rankStore (k : Nat) (s : State) : State :=
  let s1 := { s with free := s.free + 3 }
  if Config.freeBool s.free then setExch k (Config.freeNat (s.free + 1) % 65536) (Config.freeWord (s.free + 2)) s1
  else s1

/-- IK_CDATA of the halted steward core, in its own map; of a rank controller, whose map the manual does
    not give: whether the access faults, what a read returns, and what a write meets are free values (log entry
    49).  A register that takes 64-bit accesses alone has its latch and its held half (R639). -/
def otherCdata (t : DbgCore) (wr : Bool) (d : BitVec 32) (addr : BitVec 48) (s : State) : AccessEnd × State :=
  let c := coreDbg s t
  match t with
  | .steward =>
    match stewardAccess true wr addr.toNat d c.latch c.hold s with
    | (.ok v, l, h, s1) => (.ok v, bumpCaddr t (modCore t (fun c => { c with latch := l, hold := h }) s1))
    | (r, _, _, s1) => (r, s1)
  | .rank k =>
    let s1 := { s with free := s.free + 3 }
    let w := Config.freeWord (s.free + 1)
    let wide := Config.freeBool (s.free + 2)
    let keep (f : CoreDbg → CoreDbg) (s : State) : State := if wide then modCore (.rank k) f s else s
    if Config.freeBool s.free then (.err 4, s1)
    else
      match wr, addr.getLsbD 2 with
      | false, false => (.ok (half false w), bumpCaddr t (keep (fun c => { c with latch := half true w }) s1))
      | false, true => (.ok (if wide then c.latch else half true w), bumpCaddr t s1)
      | true, false =>
        (.ok 0, bumpCaddr t (if wide then keep (fun c => { c with hold := d }) s1 else rankStore k s1))
      | true, true => (.ok 0, bumpCaddr t (rankStore k s1))
  | .engine _ => (.err 4, s)

/-! ### Words fed to the steward core and the rank controllers (R637)

They are Myvos cores without a vector streaming unit.  An instruction that works on registers alone does what
Tables 4.3 to 4.8 give it, on the registers of the core; a load or a store of the steward core goes to its map
(Table 11.11); what an access of a rank controller meets the manual does not give (log entry 24). -/

/-- A number that names no engine, under which an instruction of such a core runs. -/
def scratchEngine : Nat := 576

/-- The engine that stands for such a core: its registers and its PC, every other register as after a reset. -/
def scratchOf (d : CoreDbg) : Engine := { g := Vector.ofFn fun i => d.regs.getD i.val 0, pc := d.pc }

/-- A fed word that works on registers alone, or whose encoding faults. -/
def feedRegs (t : DbgCore) (w : BitVec 32) (s : State) : FeedEnd × State :=
  let i := instOfWord scratchEngine w
  let body : EM Flow := do
    decodeCheck (← engM scratchEngine) i
    i.run
  match asDebug scratchEngine body (s.setEng scratchEngine (scratchOf (coreDbg s t))) with
  | .error .wait _ => (.wait none, s)
  | .error (.ev v) s1 => (.fault v.code, { s with free := s1.free })
  | .ok (.post v) s1 => (.fault v.code, { s with free := s1.free })
  | .ok _ s1 =>
    (.ok, modCore t (fun d => { d with regs := (s1.eng scratchEngine).g.toList ++ [d.pc] })
      { s with free := s1.free })

/-- The register a fed word writes with what the manual does not give: that of a load, an atomic access or MFM. -/
def feedDest (w : BitVec 32) : Option Reg :=
  let op := opcodeOf w
  if (0x14 ≤ op ∧ op ≤ 0x1A) ∨ op = 0x1F then some (rdOf w)
  else if op = 0x25 ∧ (w.extractLsb' 21 5).toNat = 11 then some (raOf w)
  else none

/-- A fed word whose effect hangs on what the manual does not give of the core: whether it faults, and what it
    writes into its register, are free values. -/
def feedOpen (t : DbgCore) (w : BitVec 32) (s : State) : FeedEnd × State :=
  let s1 := { s with free := s.free + 3 }
  if Config.freeBool s.free then (.fault ((Config.freeWord (s.free + 1)).setWidth 8), s1)
  else
    let s2 := match feedDest w with
      | some r => setCoreReg t r.toNat (Config.freeWord (s.free + 2)) s1
      | none => s1
    match t with
    | .rank k => (.ok, if (feedDest w).isNone || opcodeOf w == 0x1F then rankStore k s2 else s2)
    | _ => (.ok, s2)

/-- The size of a load or store in bytes (Table 4.10). -/
def feedSize (op : Nat) : Nat :=
  if op = 0x14 ∨ op = 0x15 ∨ op = 0x1B then 1
  else if op = 0x16 ∨ op = 0x17 ∨ op = 0x1C then 2
  else if op = 0x1A ∨ op = 0x1E then 8
  else 4

/-- The aligned words that hold bytes of the steward's space. -/
def stewardWords (a n : Nat) : List Nat := (List.range ((a % 4 + n + 3) / 4)).map fun i => a / 4 * 4 + 4 * i

/-- Words of the steward's space read by the steward core, and the latch between the halves of a register. -/
def stewardLoad : List Nat → BitVec 32 → State → Except AccessEnd (List Byte) × State
  | [], _, s => (.ok [], s)
  | a :: as, l, s =>
    match stewardAccess true false a 0 l 0 s with
    | (.ok v, l1, _, s1) =>
      match stewardLoad as l1 s1 with
      | (.ok bs, s2) => (.ok (leBytes 4 v.toNat ++ bs), s2)
      | r => r
    | (r, _, _, s1) => (.error r, s1)

/-- Words of the steward's space written by the steward core, and the held half of a register. -/
def stewardPut : List (Nat × BitVec 32) → BitVec 32 → State → AccessEnd × State
  | [], _, s => (.ok 0, s)
  | (a, d) :: as, h, s =>
    match stewardAccess true true a d 0 h s with
    | (.ok _, _, h1, s1) => stewardPut as h1 s1
    | (r, _, _, s1) => (r, s1)

/-- Does an access of the steward core reach registers that take aligned 64-bit accesses alone (R52)? -/
def stewardWide (s : State) (a n : Nat) : Bool :=
  match stewardPlace true s a with
  | .hub _ => !(n == 8 && a % 8 == 0)
  | _ => false

/-- The end of an access as that of the instruction: BUS where the map has nothing (R52, R479). -/
def busEnd (r : AccessEnd) (s : State) : FeedEnd × State :=
  match r with
  | .wait => (.wait none, s)
  | .ok _ => (.ok, s)
  | .err _ => (.fault 0x06, s)

/-- A fed load or store of the steward core, in its own map (Table 11.11).  A fed load has the side effect of its
    read (R647). -/
def feedMemory (w : BitVec 32) (s : State) : FeedEnd × State :=
  let op := opcodeOf w
  let n := feedSize op
  let a := (coreReg s .steward (raOf w).toNat + (w.extractLsb' 0 16).signExtend 64).toNat
  let ws := stewardWords a n
  let quiet (s1 : State) : State := { s1 with ik := { s1.ik with consume := s.ik.consume } }
  let loud := { s with ik := { s.ik with consume := true } }
  if stewardWide s a n then (.fault 0x06, s)
  else if op ≤ 0x1A then
    match stewardLoad ws 0 loud with
    | (.ok bs, s1) =>
      let v : Word := BitVec.ofNat 64 (leNat (bytesAt bs (a % 4) n))
      let x := if op = 0x14 then (v.setWidth 8).signExtend 64
        else if op = 0x16 then (v.setWidth 16).signExtend 64
        else if op = 0x18 then (v.setWidth 32).signExtend 64 else v
      (.ok, setCoreReg .steward (rdOf w).toNat x (quiet s1))
    | (.error r, _) => busEnd r s
  else
    let v := leBytes n (coreReg s .steward (rdOf w).toNat).toNat
    let put (bs : List Byte) (s : State) : AccessEnd × State :=
      stewardPut (ws.zipIdx.map fun p => (p.1, word32 (bytesAt bs (4 * p.2) 4))) 0 s
    if a % 4 = 0 ∧ 4 ≤ n then
      match put v s with
      | (.ok _, s1) => (.ok, s1)
      | (r, _) => busEnd r s
    else
      match stewardLoad ws 0 loud with
      | (.ok bs, s1) =>
        match put (splice bs (a % 4) v) (quiet s1) with
        | (.ok _, s2) => (.ok, s2)
        | (r, _) => busEnd r s
      | (.error r, _) => busEnd r s

/-- A word fed to the halted steward core or a rank controller (R637): one that needs a vector unit is ILLEGAL in a
    core without one (log entry 24). -/
def feedOther (t : DbgCore) (w : BitVec 32) (s : State) : FeedEnd × State :=
  let op := opcodeOf w
  if feedRefused w then (.refused, s)
  else if isVectorOpcode w then (.fault 0x01, s)
  else if (instOfWord scratchEngine w).badWord || decide (op ≤ 0x10) then feedRegs t w s
  else if 0x14 ≤ op ∧ op ≤ 0x1E ∧ t = .steward then feedMemory w s
  else feedOpen t w s

/-- The access of IK_INSTR of such a core. -/
def otherFeed (t : DbgCore) (fl : IkFlight) (s : State) : AccessEnd × Option Engine × State :=
  match feedOther t fl.data s with
  | (.ok, s1) => (.ok 0, none, s1)
  | (.wait b, s1) => (.wait, b, s1)
  | (.refused, s1) => (.err 4, none, s1)
  | (.fault c, s1) => (.err 4, none, modCore t (fun d => { d with fcode := c }) s1)

/-! ### The system memory master (R645, R646) -/

/-- Four bytes of HBM by the memory master. -/
def masterHbm (wr : Bool) (pa : Nat) (d : BitVec 32) (s : State) : AccessEnd × State :=
  if hbmBytes ≤ pa then (.err 4, s)
  else if wr then
    match probeWrite 9 pa (enabled (leBytes 4 d.toNat)) s with
    | (true, s1) => (.err 2, s1)
    | (false, s1) => (.ok 0, writeHbm none pa (enabled (leBytes 4 d.toNat)) s1)
  else
    match probeHbm 9 pa s with
    | (true, s1) => (.err 2, s1)
    | (false, s1) => (.ok (word32 (s1.hbm.bytes pa 4)), s1)

/-- Four bytes of a tile store by the memory master, which may lose arbitration (R102). -/
def masterTile (wr : Bool) (sq pos off : Nat) (d : BitVec 32) (s0 : State) : AccessEnd × State :=
  if !enginePowered s0 sq pos then (.err 5, s0)
  else if 0x40000 ≤ off then (.err 4, s0)
  else
    let key := (sq * 9 + pos) * 2 ^ 18 + off
    let s := loseTile 1 key s0
    if wr then (.ok 0, writeTile none key (enabled (leBytes 4 d.toNat)) s)
    else
      match probeTile key 4 s with
      | (true, s1) => (.err 2, s1)
      | (false, s1) => (.ok (word32 (s1.tile.bytes key 4)), s1)

/-- A read of a host or remote place by the memory master: the answer, or a request and a wait. -/
def masterFar (off : Nat) (send : State → Nat × State) (s : State) : AccessEnd × State :=
  match s.ik.resp with
  | some r =>
    let s1 := { s with ik := { s.ik with resp := none } }
    if r.status = 0 then (.ok (word32 (lineBytes r.data off 4)), s1)
    else if r.status = 4 then (.err 2, s1)
    else (.err 3, loseAccess s1)
  | none =>
    if s.reqs.any fun r => decide (r.who = .debug) && !r.write then (.wait, s)
    else
      let (st, s1) := send s
      if st = 0 then (.wait, s1) else (.err 3, loseAccess s1)

/-- Four bytes at a place of a job-space address, by the memory master. -/
def masterPlace (wr : Bool) (va : Word) (p : Place) (d : BitVec 32) (s : State) : AccessEnd × State :=
  match p with
  | .hbm pa => masterHbm wr pa d s
  | .host a =>
    let line := BitVec.ofNat 64 (a / 64 * 64)
    let (mask, data) := sectorOf (a % 64) (enabled (leBytes 4 d.toNat))
    if !wr then
      masterFar (a % 64) (fun s => if hostOpen s then
        (0, hostRequest .debug false va 2 (fun t => .hostRead t line) s) else (1, s)) s
    else if hostOpen s then
      (.ok 0, hostRequest .debug true va 3 (fun t => .hostWrite t line mask (BitVec.ofNat 512 (leNat data))) s)
    else (.err 3, loseAccess s)
  | .remote node pa =>
    let (mask, data) := sectorOf (pa % 64) (enabled (leBytes 4 d.toNat))
    if !wr then
      masterFar (pa % 64)
        (frxRequest .debug false false va 2 node 1 0 (pa / 64 * 64) (maskOf (pa % 64) 4) []) s
    else
      let (st, s1) := frxRequest .debug true false va 3 node 2 0 (pa / 64 * 64) mask data s
      if st = 0 then (.ok 0, s1) else (.err 3, loseAccess s1)
  | .tile _ => (.err 4, s)

/-- Four bytes of the job space under IK_MCTL.CTX with ring-0 rights (R85). -/
def masterJob (wr : Bool) (c : Byte) (va : Nat) (d : BitVec 32) (s : State) : AccessEnd × State :=
  if 0x8000000000 ≤ va then (.err 4, s)
  else
    let page := va / 2 ^ 18
    let ent := liveEntry s page
    match checkEntry (ctxPart s c) c 0 (if wr then .w else .r) page ent with
    | some 1 => (.err 4, s)
    | r =>
      match probeMap 4 page s, r with
      | (true, s1), _ => (.err 2, s1)
      | (false, s1), some _ => (.err 4, s1)
      | (false, s1), none => masterPlace wr (BitVec.ofNat 64 va) (placeOf s1 ent (BitVec.ofNat 64 va)) d s1

/-- Does the clock of what the memory master addresses run (Table 15.1)? -/
def spaceRuns (s : State) (space sq pos addr : Nat) : Bool :=
  match space with
  | 0 => s.boot.conversion
  | 1 => s.boot.conversion
  | 2 => enginePowered s sq pos
  | 3 =>
    match stewardPlace false s addr with
    | .hub o => !clockStopped s o
    | _ => true
  | _ => true

/-- The access of IK_MDATA in its space (Table 16.7).  The main domain's memories wait while their clocks
    do not run (R600). -/
def masterAccess (wr : Bool) (d : BitVec 32) (g : IkArgs) (s : State) : AccessEnd × State :=
  let k := s.ik
  let a := g.addr.toNat
  match g.space.toNat with
  | 0 => if s.boot.conversion then masterJob wr g.ctx a d s else (.wait, s)
  | 1 => if s.boot.conversion then masterHbm wr a d s else (.wait, s)
  | 2 => masterTile wr g.sq.toNat g.pos.toNat a d s
  | 3 =>
    let (r, l, h, s1) := stewardAccess false wr a d k.mlatch k.mhold s
    (r, { s1 with ik := { s1.ik with mlatch := l, mhold := h } })
  | _ => (.err 4, s)

/-- IK_MDATA: the access, and with INC the address after it (R645). -/
def mdataAccess (wr : Bool) (d : BitVec 32) (g : IkArgs) (s : State) : AccessEnd × State :=
  match masterAccess wr d g s with
  | (.ok v, s1) =>
    (.ok v, if s1.ik.minc then { s1 with ik := { s1.ik with maddr := s1.ik.maddr + 4 } } else s1)
  | r => r

/-! ### The trace port (R650, R651) -/

/-- The 32 bytes of a trace packet (Table 16.9). -/
def packetBytes (p : TracePkt) : List Byte :=
  leBytes 8 p.time.toNat ++ leBytes 2 p.src.toNat ++ [p.kind, p.chan, p.ctx] ++
    leBytes 1 ((if p.lost then 1 else 0) + 2 * p.ring.toNat) ++ leBytes 2 0 ++ leBytes 8 p.data.toNat ++
    leBytes 8 0

/-- Four bytes of the trace buffer at an offset; a packet that was never written reads 0 (log entry 25). -/
def traceWord (k : Ik) (o : Nat) : BitVec 32 :=
  match k.trace.find? fun p => p.1 == o / 32 with
  | some (_, p) => word32 (bytesAt (packetBytes p) (o % 32) 4)
  | none => 0

/-- IK_TDATA. -/
def tdataAccess (g : IkArgs) (s : State) : AccessEnd × State :=
  (.ok (traceWord s.ik g.addr.toNat), { s with ik := { s.ik with taddr := s.ik.taddr + 4 } })

/-- IK_CNT (Table 16.10). -/
def cntAccess (g : IkArgs) (s : State) : AccessEnd × State :=
  if !enginePowered s g.sq.toNat g.pos.toNat then (.err 5, s)
  else (.ok (half g.half ((s.eng (g.sq.toNat * 9 + g.pos.toNat)).count.toList.getD g.idx.toNat 0)), s)

end Sys2Proof.Machine
end

