-- ==== Sys2Proof/Machine/Debug.lean ====
section
/-! DEFINITION. The Ikipin port: frames, the port-control and access-port registers, halting, resuming and
stepping cores (R614 to R652). -/

namespace Sys2Proof.Machine

/-! ### Frames (R615 to R618) -/

/-- The header of a frame (Table 16.1). -/
def ikHeader (kind : BitVec 2) (reg : BitVec 4) (tog : Bool) : Byte :=
  (0 : BitVec 1) ++ kind ++ reg ++ BitVec.ofBool tog

/-- One bit into the CRC-4 of polynomial x^4 + x + 1. -/
def crc4Step (c : BitVec 4) (b : Bool) : BitVec 4 :=
  let s := c <<< 1
  if c.getLsbD 3 != b then s ^^^ 3 else s

/-- CHK of a frame (R616): the header and then the data, each from its most significant bit. -/
def crc4 (hdr : Byte) (data : BitVec 32) : BitVec 4 :=
  let bits := (List.range 8).map (fun i => hdr.getLsbD (7 - i)) ++
    (List.range 32).map fun i => data.getLsbD (31 - i)
  bits.foldl crc4Step 0

/-- The state with the port's own registers changed. -/
def modIk (f : Ik → Ik) (s : State) : State := { s with ik := f s.ik }

/-- IK_STAT.ERR set with a CODE. -/
def ikErr (code : BitVec 3) (s : State) : State := modIk (fun k => { k with err := true, code := code }) s

/-- ERROR: the frame is not performed (Table 16.3). -/
def ikFail (code : BitVec 3) (s : State) : State := (ikErr code s).emit (.ik 3 none)

/-- Read data as the part sends it, with the CHK of its frame (R616). -/
def ikData (hdr : Byte) (d : BitVec 32) : BitVec 32 × BitVec 4 := (d, crc4 hdr d)

/-- ACCEPT of a new frame: the expected toggle inverts, and the frame is the last accepted (R618). -/
def ikAccept (hdr : Byte) (sent : BitVec 32) (out : Option (BitVec 32)) (s : State) : State :=
  (modIk (fun k => { k with tog := !k.tog, last := some (hdr, sent) }) s).emit (.ik 5 (out.map (ikData hdr)))

/-- ACCEPT of a write: it is performed when its check holds (R618). -/
def ikWrite (hdr : Byte) (f : IkFrame) (perform : State → State) (s : State) : State :=
  let s1 := ikAccept hdr f.data none s
  if f.chk = crc4 hdr f.data then perform s1 else ikErr 1 s1

/-- A repeat of the last accepted frame is answered again; another header is an error (R618). -/
def ikRepeat (kind : BitVec 2) (hdr : Byte) (s : State) : State :=
  match s.ik.last with
  | some (h, d) =>
    if h = hdr then s.emit (.ik 5 (if kind.getLsbD 0 then none else some (ikData hdr d))) else ikFail 7 s
  | none => ikFail 7 s

/-! ### Port-control registers (Table 16.11) -/

/-- Does the clock of the selected target run (R601, Table 15.1)?  The target of the memory master is what its
    registers address. -/
def targetRuns (s : State) : Bool :=
  let k := s.ik
  match selected s with
  | .absent => false
  | .memory => spaceRuns s k.mspace.toNat k.msq.toNat k.mpos.toNat k.maddr.toNat
  | _ => true

/-- A port-control register read. -/
def controlRead (s : State) (reg : Nat) : BitVec 32 :=
  let k := s.ik
  let w : Word :=
    if reg = 0 then 0x9512B001
    else if reg = 1 then flag 0 k.consume
    else if reg = 2 then
      place 4 3 k.code.toNat ||| flag 3 (targetRuns s) ||| flag 2 k.err ||| place 0 2 k.level.toNat
    else if reg = 3 then
      place 24 3 k.nw.toNat ||| place 16 4 k.pos.toNat ||| place 8 6 k.sq.toNat ||| place 0 4 k.port.toNat
    else (k.nonce.extractLsb' (32 * k.nw.toNat) 32).setWidth 64
  w.setWidth 32

/-- The access of an access port goes as far as it can.  Where the level has fallen since it began, so that its
    core goes on, it still completes (R630). -/
def runFlight (k : Nat) (fl : IkFlight) (s : State) : AccessEnd × Option Engine × State :=
  let wr := fl.header.getLsbD 5
  let reg := (fl.header.extractLsb' 1 4).toNat
  let g := fl.args
  let pair (r : AccessEnd × State) : AccessEnd × Option Engine × State := (r.1, none, r.2)
  match keySel s k with
  | .core t =>
    if !(coreDbg s t).halted && s.ik.level == 2 then (.err 5, none, s)
    else
      match t with
      | .engine e =>
        if reg = 2 then engineFeed e fl s
        else if reg = 4 then pair (rdataAccess t wr fl.data g.rsel s)
        else pair (engineCdata e wr fl.data g.addr s)
      | t =>
        if reg = 2 then otherFeed t fl s
        else if reg = 4 then pair (rdataAccess t wr fl.data g.rsel s)
        else pair (otherCdata t wr fl.data g.addr s)
  | .memory => pair (mdataAccess wr fl.data g s)
  | .trace => pair (if reg = 3 then tdataAccess g s else cntAccess g s)
  | .absent => (.err 5, none, s)

/-- The access of a port in flight, changed or ended. -/
def setFlight (k : Nat) (fl : Option IkFlight) (s : State) : State :=
  modIk (fun x => { x with flights := match fl with
    | some f => x.flights.put k f
    | none => x.flights.del k }) s

/-- The access of a word fed to IK_INSTR. -/
def feedFlight (w : BitVec 32) : IkFlight := { header := ikHeader 3 2 false, data := w }

/-- The words fed to a port while an access was in flight execute after it, the oldest first (R620, R637). -/
def feedRest (k : Nat) : List (BitVec 32) → State → State
  | [], s => setFlight k none s
  | w :: ws, s =>
    match runFlight k (feedFlight w) s with
    | (.wait, b, s1) => setFlight k (some { feedFlight w with was := b, fed := ws }) s1
    | (.err c, _, s1) => feedRest k ws (ikErr c s1)
    | (.ok _, _, s1) => feedRest k ws s1

/-- An access in flight completes, if it can now (R620). -/
def finishFlight (s : State) (p : Nat × IkFlight) : State :=
  if p.2.done then s
  else
    match runFlight p.1 p.2 s with
    | (.wait, b, s1) => setFlight p.1 (some { p.2 with was := b }) s1
    | (.err c, _, s1) => feedRest p.1 p.2.fed (ikErr c s1)
    | (.ok d, _, s1) =>
      if p.2.header.getLsbD 5 || !p.2.fed.isEmpty then feedRest p.1 p.2.fed s1
      else setFlight p.1 (some { p.2 with result := d, done := true }) s1

/-- Everything in flight goes as far as it can. -/
def finishFlights (s : State) : State := s.ik.flights.foldl finishFlight s

/-- What an abandoned access of a port waits for is not used. -/
def dropAccess (k : Nat) (s : State) : State :=
  let gone (w : Requester) : List Req := s.reqs.map fun (r : Req) =>
    if r.who = w ∧ r.write = false then { r with who := .gone } else r
  match keySel s k with
  | .memory => { s with reqs := gone .debug, ik := { s.ik with resp := none } }
  | .core (.engine e) => if (s.eng e).mid then s else dropWaits e { s with reqs := gone (.engine e) }
  | _ => s

/-- An abandoned access (R622): whether a write of it was performed is a free value, and so for the words fed
    behind it. -/
def abandon (s : State) (p : Nat × IkFlight) : State :=
  if p.2.done then s
  else
    let did := Config.freeBool s.free && p.2.header.getLsbD 5
    let s0 := { s with free := s.free + 2 }
    let s1 := if did then (runFlight p.1 p.2 s0).2.2 else s0
    let s2 := if Config.freeBool (s.free + 1) then feedRest p.1 p.2.fed s1 else s1
    ikErr 6 (setFlight p.1 none (dropAccess p.1 s2))

/-- IK_CTL written: CONSUME, ABORT and DROP (R622, R629); what is in flight completes before the level falls
    (R630). -/
def writeCtl (d : BitVec 32) (s : State) : State :=
  let s1 := modIk (fun k => { k with consume := d.getLsbD 0 }) s
  let s2 := if d.getLsbD 1 then s1.ik.flights.foldl abandon s1 else s1
  if d.getLsbD 2 then lowerLevel resumeSteward 0 (finishFlights s2) else s2

/-- A port-control register written. -/
def controlWrite (reg : Nat) (d : BitVec 32) (s : State) : State :=
  if reg = 1 then writeCtl d s
  else if reg = 2 then modIk (fun k => { k with err := k.err && !d.getLsbD 2 }) s
  else if reg = 3 then
    modIk (fun k => { k with nw := d.extractLsb' 24 3, pos := d.extractLsb' 16 4,
                             sq := d.extractLsb' 8 6, port := d.setWidth 4 }) s
  else s

/-! ### Halt, resume and step (R632 to R636, R640) -/

/-- The cores that a request to a core names: an engine and its twin in a pair (R640). -/
def withTwin (s : State) : DbgCore → List DbgCore
  | .engine e => match twinOf s e with
    | some t => [.engine e, .engine t]
    | none => [.engine e]
  | t => [t]

/-- HALT requested. -/
def requestHalt (t : DbgCore) (s : State) : State :=
  if (coreDbg s t).halted then s
  else (withTwin s t).foldl (fun s u => modCore u (fun d => { d with haltReq := !d.halted }) s) s

/-- RESUME of a halted core. -/
def resumeCore (t : DbgCore) (s : State) : State :=
  match t with
  | .steward => resumeSteward s
  | .rank k => resumeRank k s
  | .engine e => resumeEngine e s

/-- The source number of a core that is no engine, in a trace packet (Table 16.9). -/
def coreSrc : DbgCore → BitVec 16
  | .rank k => BitVec.ofNat 16 (0xFF00 + k + 1)
  | _ => 0xFFF0

/-- A core that is no engine halts. -/
def haltOther (t : DbgCore) (reason : BitVec 3) (s : State) : State :=
  let s1 := modCore t (fun d => { d with halted := true, haltReq := false, step := false, reason := reason })
    (drawRegs t s)
  corePacket (coreSrc t) 2 (reason.setWidth 8) (coreDbg s1 t).pc s1

/-- STEP of a halted core (R636): an engine halts again after its next instruction.  Another core goes on with its
    firmware, and CORE_HALTED stands for the end of its one instruction (log entry 47). -/
def stepCore (t : DbgCore) (s : State) : State :=
  if !(coreDbg s t).halted then s
  else
    let s1 := resumeCore t s
    match t with
    | .engine e =>
      (withTwin s (.engine e)).foldl (fun s u => match u with
        | .engine e => s.modEng e fun x =>
          if x.run = .running then { x with dbg := { x.dbg with step := true } } else x
        | _ => s) s1
    | t => if (coreDbg s1 t).halted then s1 else modCore t (fun d => { d with step := true }) s1

/-- The core has reached a boundary where it may halt (R632): a WFI that waits completes first.  A core that is
    no engine halts here after a step too (R636). -/
def coreHalted (t : DbgCore) (s : State) : State :=
  let d := coreDbg s t
  if d.halted then s
  else
    match t with
    | .engine e =>
      if !d.haltReq then s
      else
        let s1 := finishWfi e s
        if mayHalt (s1.eng e) then haltEngine e 1 s1 else s1
    | t => if d.haltReq then haltOther t 1 s else if d.step then haltOther t 3 s else s

/-- CORE_HALTED (R632). -/
def execCoreHalted (core : Core) (s : State) : Host.Outcome State Fault Refusal :=
  .next (coreHalted (match core with
    | .steward => .steward
    | .rank k => .rank k.val
    | .engine e => .engine e.val) s)

/-! ### Access-port registers (Table 16.12) -/

/-- The tender of an engine's square goes on once no freeze is left (R49). -/
def thawTender (t : DbgCore) (s : State) : State :=
  match t with
  | .engine e => resumeTenders (e / 9) s
  | _ => s

/-- IK_CCTL written: the freeze bits, HALTBRK, and a request. -/
def writeCctl (t : DbgCore) (d : BitVec 32) (s : State) : State :=
  let s1 := thawTender t
    (modCore t (fun c => { c with frz := d.extractLsb' 8 4, haltBrk := d.getLsbD 3 }) s)
  let s2 := if d.getLsbD 0 then requestHalt t s1 else s1
  let s3 := if d.getLsbD 1 then resumeCore t s2 else s2
  if d.getLsbD 2 then stepCore t s3 else s3

/-- A register of a core port read, but for its data registers. -/
def corePortRead (s : State) (t : DbgCore) (reg : Nat) : BitVec 32 :=
  let d := coreDbg s t
  let w : Word :=
    if reg = 0 then place 8 4 d.frz.toNat ||| flag 3 d.haltBrk
    else if reg = 1 then
      place 16 8 d.fcode.toNat ||| flag 12 d.rst ||| place 8 2 d.bites.toNat ||| place 4 3 d.reason.toNat |||
        place 1 2 (vsuCode s t) ||| flag 0 d.halted
    else if reg = 3 then d.rsel.setWidth 64
    else if reg = 5 then (d.caddr.setWidth 32).setWidth 64
    else if reg = 6 then (d.caddr.extractLsb' 32 16).setWidth 64
    else 0
  w.setWidth 32

/-- A register of a core port written, but for its data registers and IK_INSTR. -/
def corePortWrite (t : DbgCore) (reg : Nat) (d : BitVec 32) (s : State) : State :=
  if reg = 0 then writeCctl t d s
  else if reg = 1 then modCore t (fun c => { c with rst := c.rst && !d.getLsbD 12 }) s
  else if reg = 3 then
    if 33 ≤ d.toNat % 64 then ikErr 4 s
    else modCore t (fun c => { c with rsel := d.setWidth 9 &&& 0x13F }) s
  else if reg = 5 then
    modCore t (fun c => { c with caddr := c.caddr.extractLsb' 32 16 ++ (d &&& 0xFFFFFFFC) }) s
  else if reg = 6 then
    modCore t (fun c => { c with caddr := d.setWidth 16 ++ c.caddr.setWidth 32 }) s
  else s

/-- A register of the memory port read, but for IK_MDATA. -/
def memoryPortRead (k : Ik) (reg : Nat) : BitVec 32 :=
  let w : Word :=
    if reg = 0 then
      place 24 4 k.mpos.toNat ||| place 16 6 k.msq.toNat ||| place 8 8 k.mctx.toNat ||| flag 3 k.minc |||
        place 0 3 k.mspace.toNat
    else if reg = 1 then (k.maddr.setWidth 32).setWidth 64
    else (k.maddr.extractLsb' 32 16).setWidth 64
  w.setWidth 32

/-- A register of the memory port written, but for IK_MDATA. -/
def memoryPortWrite (reg : Nat) (d : BitVec 32) (s : State) : State :=
  if reg = 0 then
    modIk (fun k => { k with mpos := d.extractLsb' 24 4, msq := d.extractLsb' 16 6,
                             mctx := d.extractLsb' 8 8, minc := d.getLsbD 3, mspace := d.setWidth 3 }) s
  else if reg = 1 then
    modIk (fun k => { k with maddr := k.maddr.extractLsb' 32 16 ++ (d &&& 0xFFFFFFFC) }) s
  else modIk (fun k => { k with maddr := d.setWidth 16 ++ k.maddr.setWidth 32 }) s

/-- A register of the trace port read, but for its data registers. -/
def tracePortRead (k : Ik) (reg : Nat) : BitVec 32 :=
  let w : Word :=
    if reg = 0 then flag 2 k.haltev ||| flag 1 k.stopfull ||| flag 0 k.ten
    else if reg = 1 then flag 17 k.full ||| flag 16 k.wrap ||| place 0 15 k.wptr.toNat
    else if reg = 2 then k.taddr.setWidth 64
    else if reg = 4 then
      flag 20 k.chalf ||| place 16 3 k.cidx.toNat ||| place 8 4 k.cpos.toNat ||| place 0 6 k.csq.toNat
    else 0
  w.setWidth 32

/-- IK_TCTL written: a write that sets EN from 0 to 1 starts an empty buffer (R650). -/
def writeTctl (d : BitVec 32) (k : Ik) : Ik :=
  let k1 := { k with haltev := d.getLsbD 2, stopfull := d.getLsbD 1, ten := d.getLsbD 0 }
  if d.getLsbD 0 && !k.ten then { k1 with wptr := 0, wrap := false, full := false } else k1

/-- A register of the trace port written. -/
def tracePortWrite (reg : Nat) (d : BitVec 32) (s : State) : State :=
  if reg = 0 then modIk (writeTctl d) s
  else if reg = 1 then modIk (fun k => { k with wrap := k.wrap && !d.getLsbD 16 }) s
  else if reg = 2 then modIk (fun k => { k with taddr := d.setWidth 20 &&& 0xFFFFC }) s
  else if reg = 4 then
    modIk (fun k => { k with chalf := d.getLsbD 20, cidx := d.extractLsb' 16 3,
                             cpos := d.extractLsb' 8 4, csq := d.setWidth 6 }) s
  else s

/-- How many registers an access port has (Table 16.12). -/
def portRegs : PortSel → Nat
  | .core _ => 8
  | .memory => 4
  | .trace => 6
  | .absent => 0

/-- Does a frame start an access that takes time, a data register's (R620)? -/
def startsAccess (p : PortSel) (reg : Nat) (wr : Bool) : Bool :=
  match p with
  | .core _ => reg == 4 || reg == 7
  | .memory => reg == 3
  | .trace => (reg == 3 || reg == 5) && !wr
  | .absent => false

/-- A register of the selected port read at once. -/
def portRead (s : State) (p : PortSel) (reg : Nat) : BitVec 32 :=
  match p with
  | .core t => corePortRead s t reg
  | .memory => memoryPortRead s.ik reg
  | .trace => tracePortRead s.ik reg
  | .absent => 0

/-- A register of the selected port written at once. -/
def portWrite (p : PortSel) (reg : Nat) (d : BitVec 32) (s : State) : State :=
  match p with
  | .core t => corePortWrite t reg d s
  | .memory => memoryPortWrite reg d s
  | .trace => tracePortWrite reg d s
  | .absent => s

/-! ### Levels (R624) -/

/-- Is the page at IK_MADDR one of an open context? -/
def pageOpen (s : State) : Bool :=
  let a := s.ik.maddr.toNat
  decide (a < 0x8000000000) && s.ik.openCtx.getLsbD (entCtx (liveEntry s (a / 2 ^ 18))).toNat

/-- Does the level allow an access-port frame (Table 16.4)? -/
def levelAllows (s : State) (reg : Nat) (wr : Bool) : Bool :=
  match s.ik.level.toNat with
  | 0 => false
  | 1 =>
    s.ik.port == 11 ||
      (s.ik.port == 10 && (reg != 3 || (!wr && s.ik.mspace == 0 && pageOpen s)))
  | _ => true

/-! ### Frames performed -/

/-- A new frame of a port-control register. -/
def controlFrame (wr : Bool) (reg : Nat) (hdr : Byte) (f : IkFrame) (s : State) : State :=
  if 4 < reg then ikFail 7 s
  else if wr then ikWrite hdr f (controlWrite reg f.data) s
  else
    let d := controlRead s reg
    ikAccept hdr d (some d) s

/-- Is the target of a core port's access not halted, so that it is in the wrong state (R637, R638)? -/
def wrongState (s : State) : PortSel → Bool
  | .core t => !(coreDbg s t).halted
  | _ => false

/-- Is a register IK_INSTR of a core port? -/
def feeds (p : PortSel) (reg : Nat) : Bool :=
  match p with
  | .core _ => reg == 2
  | _ => false

/-- A new frame that starts an access of a data register (R620). -/
def dataFrame (p : PortSel) (wr : Bool) (hdr : Byte) (f : IkFrame) (s : State) : State :=
  let key := selectedKey s
  let start (s : State) : State := setFlight key (some { header := hdr, data := f.data, args := flightArgs s p }) s
  let fresh : State :=
    if wrongState s p then ikFail 5 s
    else if wr then ikWrite hdr f start (setFlight key none s)
    else (start s).emit (.ik 6 none)
  match s.ik.flights.find? fun x => x.1 == key with
  | some (_, fl) =>
    if !fl.done then s.emit (.ik 6 none) else fresh
  | none => fresh

/-- A write of IK_INSTR (R620, R637): it never answers BUSY, and the word executes after what is in flight. -/
def feedFrame (p : PortSel) (hdr : Byte) (f : IkFrame) (s : State) : State :=
  let key := selectedKey s
  if wrongState s p then ikFail 5 s
  else
    ikWrite hdr f (fun s =>
      match s.ik.flights.find? fun x => x.1 == key && !x.2.done with
      | some (_, fl) => setFlight key (some { fl with fed := fl.fed ++ [f.data] }) s
      | none => setFlight key (some (feedFlight f.data)) s) s

/-- The repeat of a data register's read that is in flight, or has its data (R620): the level was asked for when
    it began, and it completes (R630). -/
def readAgain (wr : Bool) (hdr : Byte) (s : State) : Option IkFlight :=
  if wr then none
  else (s.ik.flights.find? fun x => x.1 == selectedKey s && x.2.header == hdr).map Prod.snd

/-- A new frame of an access-port register. -/
def accessFrame (wr : Bool) (reg : Nat) (hdr : Byte) (f : IkFrame) (s : State) : State :=
  let p := selected s
  if let some fl := readAgain wr hdr s then
    if fl.done then ikAccept hdr fl.result (some fl.result) (setFlight (selectedKey s) none s)
    else s.emit (.ik 6 none)
  else if !levelAllows s reg wr then s.emit (.ik 0 none)
  else if p = .absent then ikFail 5 s
  else if portRegs p ≤ reg then ikFail 7 s
  else if startsAccess p reg wr then dataFrame p wr hdr f s
  else if feeds p reg && wr then feedFrame p hdr f s
  else if wr then ikWrite hdr f (portWrite p reg f.data) s
  else
    let d := portRead s p reg
    ikAccept hdr d (some d) s

/-- A frame (R615 to R621): none is answered before the first resync, and while ERR is 1 every
    access-port frame gets ERROR. -/
def ikFrame (kind : BitVec 2) (reg : BitVec 4) (f : IkFrame) (s : State) : State :=
  let hdr := ikHeader kind reg f.tog
  let wr := kind.getLsbD 0
  if !s.boot.powered || !s.ik.synced then s.emit (.ik 7 none)
  else if kind.getLsbD 1 && s.ik.err then s.emit (.ik 3 none)
  else if f.tog != s.ik.tog then ikRepeat kind hdr s
  else if kind.getLsbD 1 then accessFrame wr reg.toNat hdr f s
  else controlFrame wr reg.toNat hdr f s

/-! ### The commands -/

/-- IK_RESYNC (R619). -/
def execIkResync (s : State) : Host.Outcome State Fault Refusal :=
  .next (if s.boot.powered then modIk (fun k => { k with synced := true, tog := false, err := false }) s
    else s)

/-- DROP (R629): a write of IK_CTL with DROP = 1. -/
def execDrop (f : IkFrame) (s : State) : Host.Outcome State Fault Refusal := .next (ikFrame 1 1 f s)

/-- ABORT (R622): a write of IK_CTL with ABORT = 1. -/
def execAbort (f : IkFrame) (s : State) : Host.Outcome State Fault Refusal := .next (ikFrame 1 1 f s)

/-- HALT (R632): a write of IK_CCTL with HALT = 1. -/
def execHalt (f : IkFrame) (s : State) : Host.Outcome State Fault Refusal := .next (ikFrame 3 0 f s)

/-- RESUME (R636): a write of IK_CCTL with RESUME = 1. -/
def execResume (f : IkFrame) (s : State) : Host.Outcome State Fault Refusal := .next (ikFrame 3 0 f s)

/-- STEP (R636): a write of IK_CCTL with STEP = 1. -/
def execStep (f : IkFrame) (s : State) : Host.Outcome State Fault Refusal := .next (ikFrame 3 0 f s)

/-- IK_INSTR (R637): a write of IK_INSTR. -/
def execIkInstr (f : IkFrame) (s : State) : Host.Outcome State Fault Refusal := .next (ikFrame 3 2 f s)

/-- The kind of a frame of an access-port register. -/
def accessKind (wr : Bool) : BitVec 2 := if wr then 3 else 2

/-- IK_RDATA (R638). -/
def execIkRdata (wr : Bool) (f : IkFrame) (s : State) : Host.Outcome State Fault Refusal :=
  .next (ikFrame (accessKind wr) 4 f s)

/-- IK_CDATA (R639). -/
def execIkCdata (wr : Bool) (f : IkFrame) (s : State) : Host.Outcome State Fault Refusal :=
  .next (ikFrame (accessKind wr) 7 f s)

/-- IK_MDATA (R645). -/
def execIkMdata (wr : Bool) (f : IkFrame) (s : State) : Host.Outcome State Fault Refusal :=
  .next (ikFrame (accessKind wr) 3 f s)

/-- IK_TDATA (R650). -/
def execIkTdata (f : IkFrame) (s : State) : Host.Outcome State Fault Refusal := .next (ikFrame 2 3 f s)

/-- IK_CNT (R651). -/
def execIkCnt (f : IkFrame) (s : State) : Host.Outcome State Fault Refusal := .next (ikFrame 2 5 f s)

/-- IK_FRAME (R618): a frame of any other register. -/
def execIkFrame (kind : BitVec 2) (reg : BitVec 4) (f : IkFrame) (s : State) :
    Host.Outcome State Fault Refusal :=
  .next (ikFrame kind reg f s)

/-- IK_ACCESS_DONE (R620): what is in flight completes. -/
def execIkAccessDone (s : State) : Host.Outcome State Fault Refusal :=
  .next (finishFlights s)

/-- Have DURATION seconds of TIMEBASE passed since the unlock (R629)?  TIMEBASE counts nanoseconds (R585). -/
def durationOver (s : State) : Bool :=
  s.ik.duration != 0 &&
    decide (s.ik.unlocked.toNat + s.ik.duration.toNat * 1000000000 ≤ s.mg.timebase.toNat)

/-- DEBUG_DURATION_EXPIRY (R629). -/
def execDebugDurationExpiry (s : State) : Host.Outcome State Fault Refusal :=
  .next (if s.ik.level != 0 && durationOver s then lowerLevel resumeSteward 0 (finishFlights s) else s)

end Sys2Proof.Machine
end

