-- ==== Sys2Proof/Machine/I3c.lean ====
section
/-! DEFINITION. The common command codes of the I3C target (R450 to R452, R456).  What the MIPI I3C
specification gives and the manual does not, such as the order of bytes, is PRESUMED (log entry 23). -/

namespace Sys2Proof.Machine

/-- A CCC reaches the target while the management domain is up (R452). -/
def ccc (f : State → State) (s : State) : State := if s.boot.powered then f s else s

/-- The state with the I3C target changed. -/
def modI3c (f : I3c → I3c) (s : State) : State := { s with i3c := f s.i3c }

/-- The provisional ID (Table 11.2), most significant byte first. -/
def pidBytes (s : State) : List Byte :=
  beBytes 6 (0x5A3 * 2 ^ 33 + 0x9512 * 2 ^ 16 + s.pins.addrSel.toNat * 2 ^ 12)

/-- ENTDAA (R450): the target without a dynamic address sends its identity and takes the address. -/
def execEntdaa (da : BitVec 7) (s : State) : Host.Outcome State Fault Refusal :=
  .next (ccc (fun s => if s.i3c.da.isSome then s
    else (modI3c (fun i => { i with da := some da }) s).emit (.i3cRead (pidBytes s ++ [0x26, 0x00]))) s)

/-- SETDASA (R450, R451): the target takes a dynamic address at its own static address. -/
def execSetdasa (a : StaticAssign) (s : State) : Host.Outcome State Fault Refusal :=
  .next (ccc (fun s => if a.static_ ≠ staticAddr s then s
    else if s.i3c.da.isSome then s.emit .i3cNack
    else modI3c (fun i => { i with da := some a.da }) s) s)

/-- SETNEWDA (R450). -/
def execSetnewda (da : BitVec 7) (s : State) : Host.Outcome State Fault Refusal :=
  .next (ccc (fun s => if s.i3c.da.isSome then modI3c (fun i => { i with da := some da }) s
    else s.emit .i3cNack) s)

/-- RSTDAA (R450). -/
def execRstdaa (s : State) : Host.Outcome State Fault Refusal :=
  .next (ccc (modI3c fun i => { i with da := none }) s)

/-- The in-band interrupts that wait are sent. -/
def sendIbis (s : State) : State :=
  s.i3c.ibiPend.foldl (fun s b => s.emit (.ibi b)) (modI3c (fun i => { i with ibiPend := [] }) s)

/-- ENEC (R450, R456): bit 0 enables in-band interrupts. -/
def execEnec (events : Byte) (s : State) : Host.Outcome State Fault Refusal :=
  .next (ccc (fun s => if events.getLsbD 0 then sendIbis (modI3c (fun i => { i with ibien := true }) s)
    else s) s)

/-- DISEC (R450, R456): bit 0 disables in-band interrupts. -/
def execDisec (events : Byte) (s : State) : Host.Outcome State Fault Refusal :=
  .next (ccc (modI3c fun i => { i with ibien := i.ibien && !events.getLsbD 0 }) s)

/-- GETPID (R451). -/
def execGetpid (s : State) : Host.Outcome State Fault Refusal :=
  .next (ccc (fun s => s.emit (.i3cRead (pidBytes s))) s)

/-- GETBCR (R451). -/
def execGetbcr (s : State) : Host.Outcome State Fault Refusal :=
  .next (ccc (fun s => s.emit (.i3cRead [0x26])) s)

/-- GETDCR (R451). -/
def execGetdcr (s : State) : Host.Outcome State Fault Refusal :=
  .next (ccc (fun s => s.emit (.i3cRead [0x00])) s)

/-- GETSTATUS (R456): a pending interrupt of 1 while a response is ready and interrupts are disabled. -/
def execGetstatus (s : State) : Host.Outcome State Fault Refusal :=
  .next (ccc (fun s => s.emit (.i3cRead
    [0x00, if s.cmd.response.isSome && !s.i3c.ibien then 0x01 else 0x00])) s)

/-- GETMWL (R451). -/
def execGetmwl (s : State) : Host.Outcome State Fault Refusal :=
  .next (ccc (fun s => s.emit (.i3cRead (beBytes 2 s.i3c.mwl.toNat))) s)

/-- GETMRL (R451): with the length of an interrupt's payload, one byte. -/
def execGetmrl (s : State) : Host.Outcome State Fault Refusal :=
  .next (ccc (fun s => s.emit (.i3cRead (beBytes 2 s.i3c.mrl.toNat ++ [0x01]))) s)

/-- SETMWL (R451): refused below 4,120. -/
def execSetmwl (len : BitVec 16) (s : State) : Host.Outcome State Fault Refusal :=
  .next (ccc (fun s => if len.toNat < 4120 then s.emit .i3cNack
    else modI3c (fun i => { i with mwl := len }) s) s)

/-- SETMRL (R451): refused below 4,120. -/
def execSetmrl (len : BitVec 16) (s : State) : Host.Outcome State Fault Refusal :=
  .next (ccc (fun s => if len.toNat < 4120 then s.emit .i3cNack
    else modI3c (fun i => { i with mrl := len }) s) s)

/-- GETMXDS (R450): the full 12.5 MHz; the turnaround fields, which no rule states, are a free value. -/
def execGetmxds (s : State) : Host.Outcome State Fault Refusal :=
  .next (ccc (fun s => { s with free := s.free + 1 }.emit
    (.i3cRead [0x00, (Config.freeWord s.free).setWidth 8 &&& 0x78])) s)

/-- ENTHDR0 (R450): private transfers go on in HDR-DDR mode. -/
def execEnthdr0 (s : State) : Host.Outcome State Fault Refusal :=
  .next (ccc (modI3c fun i => { i with hdr := true }) s)

/-- HDR_EXIT_PATTERN (R450): back to SDR. -/
def execHdrExitPattern (s : State) : Host.Outcome State Fault Refusal :=
  .next (ccc (modI3c fun i => { i with hdr := false }) s)

end Sys2Proof.Machine
end

