-- ==== Sys2Proof/Machine/Dispatch.lean ====
section
/-! DEFINITION. The meaning of every command: one arm per constructor of `Instr`. -/

namespace Sys2Proof.Machine

def exec (i : Instr) (s : State) : Host.Outcome State Fault Refusal :=
  match i with
  | .add e rd ra rb => Sys2Proof.Machine.execAdd e rd ra rb s
  | .sub e rd ra rb => Sys2Proof.Machine.execSub e rd ra rb s
  | .and e rd ra rb => Sys2Proof.Machine.execAnd e rd ra rb s
  | .or e rd ra rb => Sys2Proof.Machine.execOr e rd ra rb s
  | .xor e rd ra rb => Sys2Proof.Machine.execXor e rd ra rb s
  | .andn e rd ra rb => Sys2Proof.Machine.execAndn e rd ra rb s
  | .clt e rd ra rb => Sys2Proof.Machine.execClt e rd ra rb s
  | .cltu e rd ra rb => Sys2Proof.Machine.execCltu e rd ra rb s
  | .ceq e rd ra rb => Sys2Proof.Machine.execCeq e rd ra rb s
  | .shl e rd ra rb => Sys2Proof.Machine.execShl e rd ra rb s
  | .shr e rd ra rb => Sys2Proof.Machine.execShr e rd ra rb s
  | .sar e rd ra rb => Sys2Proof.Machine.execSar e rd ra rb s
  | .ror e rd ra rb => Sys2Proof.Machine.execRor e rd ra rb s
  | .min e rd ra rb => Sys2Proof.Machine.execMin e rd ra rb s
  | .max e rd ra rb => Sys2Proof.Machine.execMax e rd ra rb s
  | .minu e rd ra rb => Sys2Proof.Machine.execMinu e rd ra rb s
  | .maxu e rd ra rb => Sys2Proof.Machine.execMaxu e rd ra rb s
  | .clz e rd ra => Sys2Proof.Machine.execClz e rd ra s
  | .ctz e rd ra => Sys2Proof.Machine.execCtz e rd ra s
  | .popc e rd ra => Sys2Proof.Machine.execPopc e rd ra s
  | .sextB e rd ra => Sys2Proof.Machine.execSextB e rd ra s
  | .sextH e rd ra => Sys2Proof.Machine.execSextH e rd ra s
  | .sextW e rd ra => Sys2Proof.Machine.execSextW e rd ra s
  | .zextW e rd ra => Sys2Proof.Machine.execZextW e rd ra s
  | .addi e rd ra imm => Sys2Proof.Machine.execAddi e rd ra imm s
  | .andi e rd ra imm => Sys2Proof.Machine.execAndi e rd ra imm s
  | .ori e rd ra imm => Sys2Proof.Machine.execOri e rd ra imm s
  | .xori e rd ra imm => Sys2Proof.Machine.execXori e rd ra imm s
  | .clti e rd ra imm => Sys2Proof.Machine.execClti e rd ra imm s
  | .cltiu e rd ra imm => Sys2Proof.Machine.execCltiu e rd ra imm s
  | .shli e rd ra n => Sys2Proof.Machine.execShli e rd ra n s
  | .shri e rd ra n => Sys2Proof.Machine.execShri e rd ra n s
  | .sari e rd ra n => Sys2Proof.Machine.execSari e rd ra n s
  | .rori e rd ra n => Sys2Proof.Machine.execRori e rd ra n s
  | .ldi e rd imm hw => Sys2Proof.Machine.execLdi e rd imm hw s
  | .insi e rd imm hw => Sys2Proof.Machine.execInsi e rd imm hw s
  | .adc e rd ra rb rc => Sys2Proof.Machine.execAdc e rd ra rb rc s
  | .sbb e rd ra rb rc => Sys2Proof.Machine.execSbb e rd ra rb rc s
  | .mul e rd ra rb => Sys2Proof.Machine.execMul e rd ra rb s
  | .mulw e rd ra rb => Sys2Proof.Machine.execMulw e rd ra rb s
  | .mulwu e rd ra rb => Sys2Proof.Machine.execMulwu e rd ra rb s
  | .dstartS e rd ra => Sys2Proof.Machine.execDstartS e rd ra s
  | .dstartU e rd ra => Sys2Proof.Machine.execDstartU e rd ra s
  | .dstepS e rd rb => Sys2Proof.Machine.execDstepS e rd rb s
  | .dstepU e rd rb => Sys2Proof.Machine.execDstepU e rd rb s
  | .dendS e rd ra rb => Sys2Proof.Machine.execDendS e rd ra rb s
  | .dendU e rd ra rb => Sys2Proof.Machine.execDendU e rd ra rb s
  | .dajB e rd ra rb => Sys2Proof.Machine.execDajB e rd ra rb s
  | .dajH e rd ra rb => Sys2Proof.Machine.execDajH e rd ra rb s
  | .dajW e rd ra rb => Sys2Proof.Machine.execDajW e rd ra rb s
  | .dadd e rd ra rb => Sys2Proof.Machine.execDadd e rd ra rb s
  | .dsub e rd ra rb => Sys2Proof.Machine.execDsub e rd ra rb s
  | .fadd e p rd ra rb => Sys2Proof.Machine.execFadd e p rd ra rb s
  | .fsub e p rd ra rb => Sys2Proof.Machine.execFsub e p rd ra rb s
  | .fmul e p rd ra rb => Sys2Proof.Machine.execFmul e p rd ra rb s
  | .fmin e p rd ra rb => Sys2Proof.Machine.execFmin e p rd ra rb s
  | .fmax e p rd ra rb => Sys2Proof.Machine.execFmax e p rd ra rb s
  | .fabs e p rd ra => Sys2Proof.Machine.execFabs e p rd ra s
  | .fneg e p rd ra => Sys2Proof.Machine.execFneg e p rd ra s
  | .feq e p rd ra rb => Sys2Proof.Machine.execFeq e p rd ra rb s
  | .flt e p rd ra rb => Sys2Proof.Machine.execFlt e p rd ra rb s
  | .fle e p rd ra rb => Sys2Proof.Machine.execFle e p rd ra rb s
  | .funord e p rd ra rb => Sys2Proof.Machine.execFunord e p rd ra rb s
  | .fcvt e p rd ra => Sys2Proof.Machine.execFcvt e p rd ra s
  | .ftoi e p rd ra => Sys2Proof.Machine.execFtoi e p rd ra s
  | .ftoiz e p rd ra => Sys2Proof.Machine.execFtoiz e p rd ra s
  | .ftou e p rd ra => Sys2Proof.Machine.execFtou e p rd ra s
  | .itof e p rd ra => Sys2Proof.Machine.execItof e p rd ra s
  | .utof e p rd ra => Sys2Proof.Machine.execUtof e p rd ra s
  | .fma e p rd ra rb rc => Sys2Proof.Machine.execFma e p rd ra rb rc s
  | .fms e p rd ra rb rc => Sys2Proof.Machine.execFms e p rd ra rb rc s
  | .fnma e p rd ra rb rc => Sys2Proof.Machine.execFnma e p rd ra rb rc s
  | .fnms e p rd ra rb rc => Sys2Proof.Machine.execFnms e p rd ra rb rc s
  | .fdstart e p rd ra rb => Sys2Proof.Machine.execFdstart e p rd ra rb s
  | .fdstep e p rd rb => Sys2Proof.Machine.execFdstep e p rd rb s
  | .fdend e p rd ra rb => Sys2Proof.Machine.execFdend e p rd ra rb s
  | .fsstart e p rd ra => Sys2Proof.Machine.execFsstart e p rd ra s
  | .fsstep e p rd => Sys2Proof.Machine.execFsstep e p rd s
  | .fsend e p rd ra => Sys2Proof.Machine.execFsend e p rd ra s
  | .ldB e rd ra imm => Sys2Proof.Machine.execLdB e rd ra imm s
  | .ldBu e rd ra imm => Sys2Proof.Machine.execLdBu e rd ra imm s
  | .ldH e rd ra imm => Sys2Proof.Machine.execLdH e rd ra imm s
  | .ldHu e rd ra imm => Sys2Proof.Machine.execLdHu e rd ra imm s
  | .ldW e rd ra imm => Sys2Proof.Machine.execLdW e rd ra imm s
  | .ldWu e rd ra imm => Sys2Proof.Machine.execLdWu e rd ra imm s
  | .ldD e rd ra imm => Sys2Proof.Machine.execLdD e rd ra imm s
  | .stB e rs ra imm => Sys2Proof.Machine.execStB e rs ra imm s
  | .stH e rs ra imm => Sys2Proof.Machine.execStH e rs ra imm s
  | .stW e rs ra imm => Sys2Proof.Machine.execStW e rs ra imm s
  | .stD e rs ra imm => Sys2Proof.Machine.execStD e rs ra imm s
  | .ldl e rd ra => Sys2Proof.Machine.execLdl e rd ra s
  | .stc e rd ra rb => Sys2Proof.Machine.execStc e rd ra rb s
  | .amoAdd e rd ra rb => Sys2Proof.Machine.execAmoAdd e rd ra rb s
  | .amoXor e rd ra rb => Sys2Proof.Machine.execAmoXor e rd ra rb s
  | .amoMin e rd ra rb => Sys2Proof.Machine.execAmoMin e rd ra rb s
  | .amoMax e rd ra rb => Sys2Proof.Machine.execAmoMax e rd ra rb s
  | .amoSwp e rd ra rb => Sys2Proof.Machine.execAmoSwp e rd ra rb s
  | .damoAdd e rd ra rb => Sys2Proof.Machine.execDamoAdd e rd ra rb s
  | .br e a disp => Sys2Proof.Machine.execBr e a disp s
  | .brl e a disp => Sys2Proof.Machine.execBrl e a disp s
  | .beqz e a ra disp => Sys2Proof.Machine.execBeqz e a ra disp s
  | .bnez e a ra disp => Sys2Proof.Machine.execBnez e a ra disp s
  | .bltz e a ra disp => Sys2Proof.Machine.execBltz e a ra disp s
  | .bgez e a ra disp => Sys2Proof.Machine.execBgez e a ra disp s
  | .bgtz e a ra disp => Sys2Proof.Machine.execBgtz e a ra disp s
  | .blez e a ra disp => Sys2Proof.Machine.execBlez e a ra disp s
  | .bodd e a ra disp => Sys2Proof.Machine.execBodd e a ra disp s
  | .beven e a ra disp => Sys2Proof.Machine.execBeven e a ra disp s
  | .jr e a ra => Sys2Proof.Machine.execJr e a ra s
  | .jrl e a ra => Sys2Proof.Machine.execJrl e a ra s
  | .loop e rs disp => Sys2Proof.Machine.execLoop e rs disp s
  | .syncC e => Sys2Proof.Machine.execSyncC e s
  | .syncI e => Sys2Proof.Machine.execSyncI e s
  | .fenceL e => Sys2Proof.Machine.execFenceL e s
  | .fenceD e => Sys2Proof.Machine.execFenceD e s
  | .fenceS e => Sys2Proof.Machine.execFenceS e s
  | .gate e index => Sys2Proof.Machine.execGate e index s
  | .gret e => Sys2Proof.Machine.execGret e s
  | .jend e => Sys2Proof.Machine.execJend e s
  | .wfi e => Sys2Proof.Machine.execWfi e s
  | .brk e code => Sys2Proof.Machine.execBrk e code s
  | .mtm e k ra => Sys2Proof.Machine.execMtm e k ra s
  | .mfm e rd k => Sys2Proof.Machine.execMfm e rd k s
  | .reservedOpcode e w => Sys2Proof.Machine.execReservedOpcode e w s
  | .exceptionEntry e => Sys2Proof.Machine.execExceptionEntry e s
  | .syncRegisterStore e off v => Sys2Proof.Machine.execSyncRegisterStore e off v s
  | .vdrop e => Sys2Proof.Machine.execVdrop e s
  | .softwareInterrupt e set => Sys2Proof.Machine.execSoftwareInterrupt e set s
  | .traceMark e v => Sys2Proof.Machine.execTraceMark e v s
  | .ecWdCtlStore e v => Sys2Proof.Machine.execEcWdCtlStore e v s
  | .watchdogKick e v => Sys2Proof.Machine.execWatchdogKick e v s
  | .watchdogLate e => Sys2Proof.Machine.execWatchdogLate e s
  | .setvl e rd ra cls => Sys2Proof.Machine.execSetvl e rd ra cls s
  | .vbarrier e => Sys2Proof.Machine.execVbarrier e s
  | .chresume e rd => Sys2Proof.Machine.execChresume e rd s
  | .vqcnt e rd n => Sys2Proof.Machine.execVqcnt e rd n s
  | .vfadd e o => Sys2Proof.Machine.execVfadd e o s
  | .vfsub e o => Sys2Proof.Machine.execVfsub e o s
  | .vfmul e o => Sys2Proof.Machine.execVfmul e o s
  | .vfmin e o => Sys2Proof.Machine.execVfmin e o s
  | .vfmax e o => Sys2Proof.Machine.execVfmax e o s
  | .vfabs e o => Sys2Proof.Machine.execVfabs e o s
  | .vfneg e o => Sys2Proof.Machine.execVfneg e o s
  | .vfeq e o => Sys2Proof.Machine.execVfeq e o s
  | .vflt e o => Sys2Proof.Machine.execVflt e o s
  | .vfle e o => Sys2Proof.Machine.execVfle e o s
  | .vfun e o => Sys2Proof.Machine.execVfun e o s
  | .vcvt e o => Sys2Proof.Machine.execVcvt e o s
  | .vcvtz e o => Sys2Proof.Machine.execVcvtz e o s
  | .vfma e o => Sys2Proof.Machine.execVfma e o s
  | .vfms e o => Sys2Proof.Machine.execVfms e o s
  | .vfnma e o => Sys2Proof.Machine.execVfnma e o s
  | .vfnms e o => Sys2Proof.Machine.execVfnms e o s
  | .vadd e o => Sys2Proof.Machine.execVadd e o s
  | .vsub e o => Sys2Proof.Machine.execVsub e o s
  | .vmul e o => Sys2Proof.Machine.execVmul e o s
  | .vmulh e o => Sys2Proof.Machine.execVmulh e o s
  | .vand e o => Sys2Proof.Machine.execVand e o s
  | .vor e o => Sys2Proof.Machine.execVor e o s
  | .vxor e o => Sys2Proof.Machine.execVxor e o s
  | .vandn e o => Sys2Proof.Machine.execVandn e o s
  | .vshl e o => Sys2Proof.Machine.execVshl e o s
  | .vshr e o => Sys2Proof.Machine.execVshr e o s
  | .vmin e o => Sys2Proof.Machine.execVmin e o s
  | .vmax e o => Sys2Proof.Machine.execVmax e o s
  | .vceq e o => Sys2Proof.Machine.execVceq e o s
  | .vclt e o => Sys2Proof.Machine.execVclt e o s
  | .vadds e o => Sys2Proof.Machine.execVadds e o s
  | .vsubs e o => Sys2Proof.Machine.execVsubs e o s
  | .vpopc e o => Sys2Proof.Machine.execVpopc e o s
  | .vclz e o => Sys2Proof.Machine.execVclz e o s
  | .vcvti e o => Sys2Proof.Machine.execVcvti e o s
  | .vmac e o => Sys2Proof.Machine.execVmac e o s
  | .vdot4 e o => Sys2Proof.Machine.execVdot4 e o s
  | .vdadd e o => Sys2Proof.Machine.execVdadd e o s
  | .vdsub e o => Sys2Proof.Machine.execVdsub e o s
  | .vdmul e o => Sys2Proof.Machine.execVdmul e o s
  | .vdrescale e o => Sys2Proof.Machine.execVdrescale e o s
  | .vdcmpEq e o => Sys2Proof.Machine.execVdcmpEq e o s
  | .vdcmpLt e o => Sys2Proof.Machine.execVdcmpLt e o s
  | .vdcmpLe e o => Sys2Proof.Machine.execVdcmpLe e o s
  | .vdcvt e o => Sys2Proof.Machine.execVdcvt e o s
  | .vdrsum e o => Sys2Proof.Machine.execVdrsum e o s
  | .vfdstart e o => Sys2Proof.Machine.execVfdstart e o s
  | .vfdstep e o => Sys2Proof.Machine.execVfdstep e o s
  | .vfdend e o => Sys2Proof.Machine.execVfdend e o s
  | .vfsstart e o => Sys2Proof.Machine.execVfsstart e o s
  | .vfsstep e o => Sys2Proof.Machine.execVfsstep e o s
  | .vfsend e o => Sys2Proof.Machine.execVfsend e o s
  | .vidstart e o => Sys2Proof.Machine.execVidstart e o s
  | .vidstep e o => Sys2Proof.Machine.execVidstep e o s
  | .vidend e o => Sys2Proof.Machine.execVidend e o s
  | .vidrem e o => Sys2Proof.Machine.execVidrem e o s
  | .vddstart e o => Sys2Proof.Machine.execVddstart e o s
  | .vddstep e o => Sys2Proof.Machine.execVddstep e o s
  | .vddend e o => Sys2Proof.Machine.execVddend e o s
  | .vmov e o => Sys2Proof.Machine.execVmov e o s
  | .viota e o => Sys2Proof.Machine.execViota e o s
  | .vcompress e o => Sys2Proof.Machine.execVcompress e o s
  | .vexpand e o => Sys2Proof.Machine.execVexpand e o s
  | .vrsum e o => Sys2Proof.Machine.execVrsum e o s
  | .vrmin e o => Sys2Proof.Machine.execVrmin e o s
  | .vrmax e o => Sys2Proof.Machine.execVrmax e o s
  | .vrand e o => Sys2Proof.Machine.execVrand e o s
  | .vrior e o => Sys2Proof.Machine.execVrior e o s
  | .vrxor e o => Sys2Proof.Machine.execVrxor e o s
  | .vrpopc e o => Sys2Proof.Machine.execVrpopc e o s
  | .vectorReservedOpcode e w => Sys2Proof.Machine.execVectorReservedOpcode e w s
  | .vsuStrip e => Sys2Proof.Machine.execVsuStrip e s
  | .vsuIdleExpiry e => Sys2Proof.Machine.execVsuIdleExpiry e s
  | .vsuGated e => Sys2Proof.Machine.execVsuGated e s
  | .vsuWakeDone e => Sys2Proof.Machine.execVsuWakeDone e s
  | .cqStripArrive e n => Sys2Proof.Machine.execCqStripArrive e n s
  | .cqOutputSend e n => Sys2Proof.Machine.execCqOutputSend e n s
  | .stalemate chain => Sys2Proof.Machine.execStalemate chain s
  | .tenderGo w sq n v => Sys2Proof.Machine.execTenderGo w sq n v s
  | .tenderUnit sq n => Sys2Proof.Machine.execTenderUnit sq n s
  | .registerWrite w addr v => Sys2Proof.Machine.execRegisterWrite w addr v s
  | .memUeLogRead r => Sys2Proof.Machine.execMemUeLogRead r s
  | .mgXcoalRead r second => Sys2Proof.Machine.execMgXcoalRead r second s
  | .write p => Sys2Proof.Machine.execWrite p s
  | .readLive p => Sys2Proof.Machine.execReadLive p s
  | .readShadow p => Sys2Proof.Machine.execReadShadow p s
  | .shoot p => Sys2Proof.Machine.execShoot p s
  | .writeShoot p => Sys2Proof.Machine.execWriteShoot p s
  | .shootComplete p => Sys2Proof.Machine.execShootComplete p s
  | .shootDrainComplete => Sys2Proof.Machine.execShootDrainComplete s
  | .castle w => Sys2Proof.Machine.execCastle w s
  | .castleFenceRestore => Sys2Proof.Machine.execCastleFenceRestore s
  | .rebuildGo w => Sys2Proof.Machine.execRebuildGo w s
  | .rebuildEntry => Sys2Proof.Machine.execRebuildEntry s
  | .patrolScrub => Sys2Proof.Machine.execPatrolScrub s
  | .doorbell ctx tail => Sys2Proof.Machine.execDoorbell ctx tail s
  | .descriptorRead ctx => Sys2Proof.Machine.execDescriptorRead ctx s
  | .squareReserve sq => Sys2Proof.Machine.execSquareReserve sq s
  | .runtimeMeasure ctx => Sys2Proof.Machine.execRuntimeMeasure ctx s
  | .jobComplete job => Sys2Proof.Machine.execJobComplete job s
  | .quiesceComplete sq => Sys2Proof.Machine.execQuiesceComplete sq s
  | .squareFail sq => Sys2Proof.Machine.execSquareFail sq s
  | .d2dLinkFail q => Sys2Proof.Machine.execD2dLinkFail q s
  | .parkIdleExpiry sq => Sys2Proof.Machine.execParkIdleExpiry sq s
  | .tileStoreWakeDone sq => Sys2Proof.Machine.execTileStoreWakeDone sq s
  | .spareSubstitution sq reason pos selfTestOk => Sys2Proof.Machine.execSpareSubstitution sq reason pos selfTestOk s
  | .structureSwitch => Sys2Proof.Machine.execStructureSwitch s
  | .stewardLoopPeriod m => Sys2Proof.Machine.execStewardLoopPeriod m s
  | .overcurrentGuard => Sys2Proof.Machine.execOvercurrentGuard s
  | .powerBrake => Sys2Proof.Machine.execPowerBrake s
  | .powerBrakeRelease => Sys2Proof.Machine.execPowerBrakeRelease s
  | .thermtrip => Sys2Proof.Machine.execThermtrip s
  | .stage1RatioChange mv => Sys2Proof.Machine.execStage1RatioChange mv s
  | .vinValid mv straps => Sys2Proof.Machine.execVinValid mv straps s
  | .vinReset => Sys2Proof.Machine.execVinReset s
  | .vauxValid straps => Sys2Proof.Machine.execVauxValid straps s
  | .vauxLoss => Sys2Proof.Machine.execVauxLoss s
  | .managementDomainUp => Sys2Proof.Machine.execManagementDomainUp s
  | .conversionUp => Sys2Proof.Machine.execConversionUp s
  | .hbmTrainingDone rowsRepaired => Sys2Proof.Machine.execHbmTrainingDone rowsRepaired s
  | .zeroFillDone => Sys2Proof.Machine.execZeroFillDone s
  | .selfTestDone failed => Sys2Proof.Machine.execSelfTestDone failed s
  | .deviceReset force => Sys2Proof.Machine.execDeviceReset force s
  | .resetN force => Sys2Proof.Machine.execResetN force s
  | .resetNRelease => Sys2Proof.Machine.execResetNRelease s
  | .testen => Sys2Proof.Machine.execTesten s
  | .perstN => Sys2Proof.Machine.execPerstN s
  | .getInfo f => Sys2Proof.Machine.execGetInfo f s
  | .openPhase1 f => Sys2Proof.Machine.execOpenPhase1 f s
  | .openPhase2 f => Sys2Proof.Machine.execOpenPhase2 f s
  | .close f => Sys2Proof.Machine.execClose f s
  | .claim f => Sys2Proof.Machine.execClaim f s
  | .setKey f => Sys2Proof.Machine.execSetKey f s
  | .getLedger f => Sys2Proof.Machine.execGetLedger f s
  | .archiveLedger f => Sys2Proof.Machine.execArchiveLedger f s
  | .quote f => Sys2Proof.Machine.execQuote f s
  | .quoteSigned => Sys2Proof.Machine.execQuoteSigned s
  | .loadStructure f => Sys2Proof.Machine.execLoadStructure f s
  | .applyStructure f => Sys2Proof.Machine.execApplyStructure f s
  | .loadFirmware f => Sys2Proof.Machine.execLoadFirmware f s
  | .setPolicy f => Sys2Proof.Machine.execSetPolicy f s
  | .getPolicy f => Sys2Proof.Machine.execGetPolicy f s
  | .setCalibration f => Sys2Proof.Machine.execSetCalibration f s
  | .readHealth f => Sys2Proof.Machine.execReadHealth f s
  | .readSensors f => Sys2Proof.Machine.execReadSensors f s
  | .grantContext f => Sys2Proof.Machine.execGrantContext f s
  | .revokeContext f => Sys2Proof.Machine.execRevokeContext f s
  | .debugUnlock f => Sys2Proof.Machine.execDebugUnlock f s
  | .resetDomainDevice f => Sys2Proof.Machine.execResetDomainDevice f s
  | .resetDomainRank f => Sys2Proof.Machine.execResetDomainRank f s
  | .resetDomainSquare f => Sys2Proof.Machine.execResetDomainSquare f s
  | .resetDomainEngine f => Sys2Proof.Machine.execResetDomainEngine f s
  | .spareNow f => Sys2Proof.Machine.execSpareNow f s
  | .unknownCommand opcode f => Sys2Proof.Machine.execUnknownCommand opcode f s
  | .responseRead => Sys2Proof.Machine.execResponseRead s
  | .sessionTimeout => Sys2Proof.Machine.execSessionTimeout s
  | .lockoutExpiry slot => Sys2Proof.Machine.execLockoutExpiry slot s
  | .entdaa da => Sys2Proof.Machine.execEntdaa da s
  | .setdasa a => Sys2Proof.Machine.execSetdasa a s
  | .setnewda da => Sys2Proof.Machine.execSetnewda da s
  | .rstdaa => Sys2Proof.Machine.execRstdaa s
  | .enec events => Sys2Proof.Machine.execEnec events s
  | .disec events => Sys2Proof.Machine.execDisec events s
  | .getpid => Sys2Proof.Machine.execGetpid s
  | .getbcr => Sys2Proof.Machine.execGetbcr s
  | .getdcr => Sys2Proof.Machine.execGetdcr s
  | .getstatus => Sys2Proof.Machine.execGetstatus s
  | .getmwl => Sys2Proof.Machine.execGetmwl s
  | .getmrl => Sys2Proof.Machine.execGetmrl s
  | .setmwl len => Sys2Proof.Machine.execSetmwl len s
  | .setmrl len => Sys2Proof.Machine.execSetmrl len s
  | .getmxds => Sys2Proof.Machine.execGetmxds s
  | .enthdr0 => Sys2Proof.Machine.execEnthdr0 s
  | .remap v => Sys2Proof.Machine.execRemap v s
  | .stewardWatchdogKick v => Sys2Proof.Machine.execStewardWatchdogKick v s
  | .stewardWatchdogExpiry => Sys2Proof.Machine.execStewardWatchdogExpiry s
  | .nvRefresh => Sys2Proof.Machine.execNvRefresh s
  | .cxlMemRead addr => Sys2Proof.Machine.execCxlMemRead addr s
  | .cxlMemWrite addr mask data poison => Sys2Proof.Machine.execCxlMemWrite addr mask data poison s
  | .hostSnoop addr => Sys2Proof.Machine.execHostSnoop addr s
  | .cxlHbaseWrite v => Sys2Proof.Machine.execCxlHbaseWrite v s
  | .hbHostbaseCopy => Sys2Proof.Machine.execHbHostbaseCopy s
  | .spdmGetMeasurements nonce => Sys2Proof.Machine.execSpdmGetMeasurements nonce s
  | .cxlLinkDown => Sys2Proof.Machine.execCxlLinkDown s
  | .cxlLinkUp width speed => Sys2Proof.Machine.execCxlLinkUp width speed s
  | .flitReceive link f => Sys2Proof.Machine.execFlitReceive link f s
  | .frxLinkTrained link peer => Sys2Proof.Machine.execFrxLinkTrained link peer s
  | .frxReadRequest link p => Sys2Proof.Machine.execFrxReadRequest link p s
  | .frxWriteRequest link p => Sys2Proof.Machine.execFrxWriteRequest link p s
  | .frxAmoRequest link p => Sys2Proof.Machine.execFrxAmoRequest link p s
  | .frxDamoRequest link p => Sys2Proof.Machine.execFrxDamoRequest link p s
  | .frxResponse link p => Sys2Proof.Machine.execFrxResponse link p s
  | .frxWriteAcknowledge link p => Sys2Proof.Machine.execFrxWriteAcknowledge link p s
  | .frxRequestTimeout tag => Sys2Proof.Machine.execFrxRequestTimeout tag s
  | .frxStrip link p => Sys2Proof.Machine.execFrxStrip link p s
  | .frxFreezeNotice link p => Sys2Proof.Machine.execFrxFreezeNotice link p s
  | .frxReadyNotice link p => Sys2Proof.Machine.execFrxReadyNotice link p s
  | .frxAbortNotice link p => Sys2Proof.Machine.execFrxAbortNotice link p s
  | .ikResync => Sys2Proof.Machine.execIkResync s
  | .drop f => Sys2Proof.Machine.execDrop f s
  | .abort f => Sys2Proof.Machine.execAbort f s
  | .halt f => Sys2Proof.Machine.execHalt f s
  | .coreHalted core => Sys2Proof.Machine.execCoreHalted core s
  | .resume f => Sys2Proof.Machine.execResume f s
  | .step f => Sys2Proof.Machine.execStep f s
  | .ikInstr f => Sys2Proof.Machine.execIkInstr f s
  | .ikRdata wr f => Sys2Proof.Machine.execIkRdata wr f s
  | .ikCdata wr f => Sys2Proof.Machine.execIkCdata wr f s
  | .ikMdata wr f => Sys2Proof.Machine.execIkMdata wr f s
  | .ikTdata f => Sys2Proof.Machine.execIkTdata f s
  | .ikCnt f => Sys2Proof.Machine.execIkCnt f s
  | .ikAccessDone => Sys2Proof.Machine.execIkAccessDone s
  | .debugDurationExpiry => Sys2Proof.Machine.execDebugDurationExpiry s
  | .cxlCacheCompletion tag status data => Sys2Proof.Machine.execCxlCacheCompletion tag status data s
  | .msiXUnmask vec => Sys2Proof.Machine.execMsiXUnmask vec s
  | .spdmChallenge nonce => Sys2Proof.Machine.execSpdmChallenge nonce s
  | .ideKmKeyProg stream key => Sys2Proof.Machine.execIdeKmKeyProg stream key s
  | .hdrExitPattern => Sys2Proof.Machine.execHdrExitPattern s
  | .openNonceExpiry => Sys2Proof.Machine.execOpenNonceExpiry s
  | .perstNRelease => Sys2Proof.Machine.execPerstNRelease s
  | .testenRelease => Sys2Proof.Machine.execTestenRelease s
  | .frxLinkLoss link => Sys2Proof.Machine.execFrxLinkLoss link s
  | .ikFrame kind reg f => Sys2Proof.Machine.execIkFrame kind reg f s

end Sys2Proof.Machine
end

