-- ==== Sys2Proof/Machine/Tick.lean ====
section
/-! DEFINITION. One tick of the block on an empty queue: 1 µs passes (R587), and every counter that time
alone moves goes on.  What a full count then does is the command of that event (log entry 1). -/

namespace Sys2Proof.Machine

/-- ECLK per microsecond at an operating-point index (Table 1.5). -/
def eclkPerUs (opp : BitVec 3) : Nat :=
  match opp.toNat with
  | 0 => 400
  | 1 => 800
  | 2 => 1200
  | 3 => 1500
  | 4 => 1800
  | _ => 2100

/-- A watchdog count goes on while it runs, up to CLOSE (R609). -/
def wdTick (w : EngWd) : EngWd := if w.en && decide (w.t < w.close) then { w with t := w.t + 1 } else w

/-- A kick of before a tick has crossed by then (R597). -/
def EngWd.crossed (w : EngWd) : EngWd := { w with recent := false }

/-- The VSU's idle count after `n` ECLK in which it is on: the ECLK in a row in which it has had nothing to do
    and was not kept on (R180). -/
def idleTick (n : Nat) (x : Engine) : BitVec 13 :=
  if x.vec.q.isEmpty && x.vec.gpend.isEmpty && !x.mode.getLsbD 4 then
    BitVec.ofNat 13 (min 4096 (x.vsu.idle.toNat + n))
  else 0

/-- EC_CYCLE and the VSU's idle count after `n` ECLK; a halt holds both (R633, R642). -/
def cycleTick (n : Nat) (x : Engine) : Engine :=
  let v := x.vsu
  { x with
    cycle := if x.dbg.halted && x.dbg.frz.getLsbD 1 then x.cycle else x.cycle + BitVec.ofNat 64 n
    vsu := if !x.dbg.halted && v.st == .on then { v with idle := idleTick n x } else v }

/-- An engine after a tick: its watchdog counts ticks, the rest counts while the square's ECLK runs. -/
def engineTick (q : Square) (x : Engine) : Engine :=
  let y := { x with wd := (if wdFrozen x then x.wd else wdTick x.wd).crossed }
  if q.st = .parked ∨ q.st = .failed then y else cycleTick (eclkPerUs q.opp) y

/-- The engines after a tick. -/
def tickEngines (s : State) : State :=
  (List.range 576).foldl (fun s e => s.modEng e (engineTick (s.sqr (e / 9)))) s

/-- The steward's watchdog and TIMEBASE after a tick (R585, R587, R613). -/
def tickMg (halted : Bool) (m : Mg) : Mg :=
  let runs := m.running && m.wdEn && !halted && decide (m.wdT < m.wdClose)
  { m with timebase := m.timebase + 1000, wdT := if runs then m.wdT + 1 else m.wdT }

/-- A lockout runs down by a microsecond (R463). -/
def tickLockout (l : Lockout) : Lockout := { l with left := l.left - 1000 }

/-- Both copies of the lockout record run down; their write counts stay. -/
def tickLockouts (r : NvRec (Vector Lockout 4)) : NvRec (Vector Lockout 4) :=
  let f (c : Nat × Vector Lockout 4) : Nat × Vector Lockout 4 := (c.1, c.2.map tickLockout)
  ⟨r.a.map f, r.b.map f⟩

/-- The words that wait in the NV store buffers go to the store, the oldest first, 8 bytes each, and their bytes
    are checked as they are read (R120).  A word with a byte that does not decode is a detection (R126); whether
    it and those behind it still land is a free value (log entry 62). -/
def drainNv (s0 : State) : State :=
  let s := { s0 with nvWas := [] }
  let s1 := if s0.nvWas.isEmpty then s
    else
      match probeChip 6 0 0 0 (8 * s0.nvWas.length) id s with
      | (false, t) => t
      | (true, t) =>
        let bad := s.flaws.chip.find? fun x => x.within 6 0 0 0 (8 * s0.nvWas.length) && x.flaw.bad
        let was := s0.nvWas.reverse.getD ((bad.map ChipFlaw.off).getD 0 / 8) s0.nv
        if Config.freeBool t.free then { t with free := t.free + 1 }
        else { t with free := t.free + 1, nv := { was with health := t.nv.health, healthSeq := t.nv.healthSeq } }
  { s1 with flaws := { s1.flaws with chip := s1.flaws.chip.filter fun x => x.array != 6 } }

/-- Within a tick the packets that wait in the squares' queues reach the trace buffer, square by square (R649; log
    entry 29). -/
def tickTrace (s : State) : State := (List.range 64).foldl (fun s i => drainTrace 4 i s) s

/-- One tick: while step 1 of a boot lasts, only the time since VIN valid goes on (R482), and with no power
    nothing. -/
def tick (s : State) : State :=
  if !s.boot.powered then
    if s.boot.vinValid then { s with boot := { s.boot with pre := s.boot.pre + 1 } } else s
  else
    let s0 := drainNv s
    let s1 := { s0 with mg := tickMg (stewardWdFrozen s0) s0.mg,
                        nv := { s0.nv with lockout := tickLockouts s0.nv.lockout } }
    if s1.boot.conversion then tickTrace (tickLinks (tickEngines s1)) else s1

end Sys2Proof.Machine
end

