-- ==== Sys2Proof/Machine/Step.lean ====
section
/-! DEFINITION. One step of the block: the command at the front of the queue, or a tick when none waits. -/

namespace Sys2Proof.Machine

/-- The state with a command at the front of its queue. -/
def State.push (s : State) (c : Instr) : State := { s with pending := c :: s.pending }

/-- The command at the front of the queue is taken and run with the rest of the queue; with none the
    block ticks. -/
def step (s : State) : Host.Outcome State Fault Refusal :=
  match s.pending with
  | c :: cs => exec c { s with pending := cs }
  | [] => .next (tick s)

/-- The state with the command that a table word spells at the front of its queue; no row of the table
    gives bits, so no word spells one. -/
def State.withFetchWord (s : State) (nbits w : Nat) : State :=
  match Sys2Proof.decodeTableWord nbits w with
  | some c => s.push c
  | none => s

end Sys2Proof.Machine
end

