-- ==== Sys2Proof/Machine/Package.lean ====
section
/-! DEFINITION. The package as software and the board see it: the function of every ball (R655 to R659, Tables
17.2 to 17.4) and the levels of the output pins (R476, R491, R661, R662, R667). -/

namespace Sys2Proof.Machine

/-- The function of a ball.  A lane ball has a link, a lane, and whether it receives and is the negative leg. -/
inductive Ball
  | vin
  | vaux
  | gnd
  | mgnd
  | vio18
  | reserved
  | frx (link lane : Nat) (receive negative : Bool)
  | cxl (lane : Nat) (receive negative : Bool)
  | pin (name : String)
  deriving DecidableEq, Repr

/-- A Frarix signal ball of a link at a row (R656). -/
def frxBall (link r : Nat) : Ball :=
  let j := (r - 21) / 2
  .frx link (j % 8) (decide (8 ≤ j)) (decide (r % 2 = 0))

/-- A CXL lane ball of region X (R657). -/
def cxlBall (r c : Nat) : Ball := .cxl ((c - 17) / 2) (decide (r ≤ 62)) (decide (r % 2 = 1))

/-- The rows of region M, from row 64 down, columns 49 to 56 (Table 17.3). -/
def regionM : List (List Ball) :=
  [[.pin "PERST_N", .pin "CLKREQ_N", .pin "XRCAL", .pin "XRCALG", .pin "REFCLK_P", .pin "REFCLK_N", .mgnd,
    .pin "TDIODE_P"],
   [.gnd, .gnd, .gnd, .gnd, .mgnd, .mgnd, .mgnd, .pin "TDIODE_N"],
   [.pin "SCL", .pin "SDA", .pin "IKCLK", .pin "IKDIO", .pin "VSENSE_P", .pin "VSENSE_N", .pin "TESTEN", .vio18],
   [.pin "RESET_N", .pin "READY", .pin "ALERT_N", .pin "THERMTRIP_N", .pin "PWRBRK_N", .pin "FORCE_OPENING",
    .vio18, .vio18],
   [.pin "ADDR_SEL0", .pin "ADDR_SEL1", .pin "ADDR_SEL2", .vio18, .gnd, .gnd, .gnd, .gnd],
   List.replicate 8 .vaux]

/-- The ball of a row and a column, both from 1 to 64: the rule of the first region that holds it (R655). -/
def ballAt (r c : Nat) : Ball :=
  if 1 ≤ r ∧ r ≤ 10 then if (r + c) % 2 = 0 then .vin else .gnd
  else if 21 ≤ r ∧ r ≤ 52 ∧ c ≤ 8 then if c % 2 = 1 then frxBall ((c - 1) / 2) r else .gnd
  else if 21 ≤ r ∧ r ≤ 52 ∧ 57 ≤ c then if c % 2 = 0 then frxBall (4 + (64 - c) / 2) r else .gnd
  else if 61 ≤ r ∧ 17 ≤ c ∧ c ≤ 48 then if c % 2 = 1 then cxlBall r c else .gnd
  else if 59 ≤ r ∧ 17 ≤ c ∧ c ≤ 48 then .reserved
  else if 59 ≤ r ∧ 49 ≤ c ∧ c ≤ 56 then (regionM.getD (64 - r) []).getD (c - 49) .gnd
  else .gnd

/-- Every ball of the array. -/
def allBalls : List Ball :=
  (List.range 64).flatMap fun r => (List.range 64).map fun c => ballAt (r + 1) (c + 1)

/-- What the part drives on its output pins. -/
structure PinLevels where
  ready : Bool
  alertLow : Bool
  thermtripLow : Bool
  clkreqLow : Bool
  vio18 : Bool
  deriving DecidableEq, Repr

/-- The output pins: nothing is driven while the management domain has no supply (R667); CLKREQ_N is then low for
    good (R662), and VIO18 carries 1.8 V (R661). -/
def pinLevels (s : State) : PinLevels :=
  let on := s.boot.vinValid || s.boot.vaux
  { ready := on && s.boot.ready, alertLow := on && (s.mg.alert != 0 || s.boot.step == 15),
    thermtripLow := on && s.pins.thermtrip, clkreqLow := on, vio18 := on }

end Sys2Proof.Machine
end

