-- ==== Sys2Proof/WellFormed.lean ====
section
/-! DEFINITION. Which commands are well formed: the operands that the rules of the spec allow a row of the
table.  A command that is not well formed is none that the block can be sent. -/

namespace Sys2Proof

/-- The offsets of the sync registers of the engine control block (R146, Table 3.4). -/
def syncOffset (off : BitVec 12) : Bool :=
  let o := off.toNat
  o == 0x008 || o == 0x0A0 || o == 0x0A8 || o == 0x180 || o == 0x218 || o == 0x240 || o == 0x250 ||
    (decide (0x100 ≤ o ∧ o < 0x180) && o % 0x20 != 0x18 && o % 8 == 0)

/-- Is an address an 8-byte register address of an engine's windows (Table 3.3)? -/
def engineRegister (a : Word) : Bool :=
  let n := a.toNat
  n % 8 == 0 && (decide (0xFFFF10000000 ≤ n ∧ n < 0xFFFF10001000) ||
    decide (0xFFFF30000000 ≤ n ∧ n < 0xFFFF30001000) ||
    decide (0xFFFF40000000 ≤ n ∧ n < 0xFFFF41000000))

/-- Is an address an 8-byte register address of the hub target in the steward's space (Table 11.11)? -/
def hubRegister (a : Word) : Bool :=
  a.toNat % 8 == 0 && decide (0x60000000 ≤ a.toNat ∧ a.toNat < 0x61000000)

/-- Is an address an 8-byte register address in BAR2 (Table 13.2)? -/
def barRegister (a : Word) : Bool := a.toNat % 8 == 0 && decide (0x8000 ≤ a.toNat ∧ a.toNat < 0xC000)

/-- Is an address an 8-byte register address of the CXL component registers (Table 13.2)? -/
def componentRegister (a : Word) : Bool := a.toNat % 8 == 0 && decide (a.toNat < 0x8000)

/-- Is an address an 8-byte register address of the configuration space? -/
def configRegister (a : Word) : Bool := a.toNat % 8 == 0 && decide (a.toNat < 0x1000)

/-- Is a write of some bytes to BAR0 one that lies in one doorbell page (Table 13.2)? -/
def barDoorbell (n : Nat) (a : Word) : Bool :=
  decide (a.toNat < 0x100000 ∧ 1 ≤ n ∧ n ≤ 8 ∧ a.toNat % 0x1000 + n ≤ 0x1000)

/-- The lists of a loop sample have one entry for each square, quarter, stack and power-stage die. -/
def LoopSample.wf (m : LoopSample) : Bool :=
  m.sqTemp.length == 64 && m.sqPower.length == 64 && m.sqBusy.length == 64 &&
    m.sqMarginShort.length == 64 && m.quarterTemp.length == 4 && m.stackTemp.length == 8 &&
    m.stageTemp.length == 4

/-- A packet of a type with a payload of a length that its LEN gives (R544, R545). -/
def FrxPacket.shaped (p : FrxPacket) (typ : Byte) (n : Nat) : Bool :=
  p.typ == typ && p.len.toNat == n && p.payload.length == n

/-- The sector address of a request has bits 5:0 equal to 0 (R545). -/
def FrxPacket.aligned (p : FrxPacket) : Bool := (p.payload.headD 0).toNat % 64 == 0

/-- The kind of a chain notice (R556). -/
def FrxPacket.notice (p : FrxPacket) : Nat := p.tag.toNat / 256 % 16

/-- The opcodes of Table 11.6. -/
def knownOpcode (op : Byte) : Bool :=
  [0x01, 0x02, 0x03, 0x04, 0x05, 0x10, 0x11, 0x12, 0x20, 0x21, 0x22, 0x30, 0x31, 0x32, 0x40, 0x41, 0x50,
    0x51, 0x60, 0x61, 0x62].contains op.toNat

/-- The scope of RESET_DOMAIN, in the payload's first byte (R474). -/
def Frame.scope (f : Frame) : Nat := (f.body.headD 0).toNat

/-- Is a writer an engine of a square? -/
def Writer.ofSquare (w : Writer) (sq : SqId) : Bool :=
  match w with
  | .engine e => decide (engSq e = sq)
  | .steward => false
  | .host => false
  | .hostDecoder => false
  | .hostConfig => false
  | .hostDoorbell _ => false

/-- Does a writer reach a register address of its own space? -/
def Writer.reaches (w : Writer) (a : Word) : Bool :=
  match w with
  | .engine _ => engineRegister a
  | .steward => hubRegister a
  | .host => barRegister a
  | .hostDecoder => componentRegister a
  | .hostConfig => configRegister a
  | .hostDoorbell n => barDoorbell n a

/-- Is a writer an engine or the steward? -/
def Writer.inner (w : Writer) : Bool :=
  match w with
  | .engine _ => true
  | .steward => true
  | .host => false
  | .hostDecoder => false
  | .hostConfig => false
  | .hostDoorbell _ => false

/-- Is a reader no engine? -/
def Reader.notEngine (r : Reader) : Bool :=
  match r with
  | .engine _ _ => false
  | .steward => true
  | .debugMaster => true

/-- Is a command well formed? -/
def Instr.wf : Instr → Bool
  | .syncRegisterStore _ off _ => syncOffset off
  | .tenderGo w sq _ _ => w.ofSquare sq
  | .registerWrite w a _ => w.reaches a
  | .mgXcoalRead r _ => r.notEngine
  | .castle w => w.inner
  | .rebuildGo w => w.inner
  | .stewardLoopPeriod m => m.wf
  | .selfTestDone l => decide l.Nodup
  | .resetDomainDevice f => f.scope == 0
  | .resetDomainRank f => f.scope == 1
  | .resetDomainSquare f => f.scope == 2
  | .resetDomainEngine f => f.scope == 3
  | .unknownCommand op _ => !knownOpcode op
  | .cxlLinkUp w sp => decide (w.toNat ≤ 4 ∧ 1 ≤ sp.toNat ∧ sp.toNat ≤ 6)
  | .flitReceive _ f => decide (f.ftype.toNat ≤ 1)
  | .frxReadRequest _ p => p.shaped 1 16 && p.aligned
  | .frxWriteRequest _ p => p.shaped 2 80 && p.aligned
  | .frxAmoRequest _ p => p.shaped 3 24 && p.aligned && decide (2 ≤ p.code.toNat ∧ p.code.toNat ≤ 6)
  | .frxDamoRequest _ p => p.shaped 4 32 && p.aligned
  | .frxResponse _ p => p.typ == 5 && p.payload.length == p.len.toNat && decide (p.len.toNat ≤ 64)
  | .frxWriteAcknowledge _ p => p.shaped 6 0
  | .frxStrip _ p => p.shaped 7 256
  | .frxFreezeNotice _ p => p.shaped 8 0 && p.notice == 1
  | .frxReadyNotice _ p => p.shaped 8 0 && p.notice == 2
  | .frxAbortNotice _ p => p.shaped 8 0 && p.notice == 3
  | .drop f => f.data.getLsbD 2
  | .abort f => f.data.getLsbD 1
  | .halt f => f.data.getLsbD 0
  | .resume f => f.data.getLsbD 1
  | .step f => f.data.getLsbD 2
  | _ => true

end Sys2Proof
end

