-- ==== Sys2Proof/Safety.lean ====
section
/-! DEFINITION. The terms that statements about the block use: when an instruction of an engine does
its own work, what its commit leaves, what stays the same, and the canonical form of memory. -/

namespace Sys2Proof.Machine

/-! ### Instructions that do their own work -/

/-- The state after the fetch of the instruction at an engine's boundary; one whose access is under way has been
    fetched (R117). -/
def fetched (e : Nat) (s : State) : State :=
  if (s.eng e).mid then s
  else
    match (fetchCheck e).run s with
    | .ok _ s1 => s1
    | .error _ s1 => s1

/-- Does the fetch raise nothing and wait for nothing? -/
def fetches (e : Nat) (s : State) : Bool :=
  (s.eng e).mid ||
    match (fetchCheck e).run s with
    | .ok _ _ => true
    | .error _ _ => false

/-- The engine as an instruction finds it, after its fetch. -/
def found (e : Nat) (s : State) : Engine := (fetched e s).eng e

/-- Does an instruction meet no decode fault on an engine (Table 5.8), and does it not stand at the end
    of a loop that may not end with it (R172)? -/
def decodes (x : Engine) (i : Inst) : Bool :=
  (x.vec.gpend.isEmpty || i.streaming) && i.reserved.isNone && !i.illegal &&
    !(x.slot.isSome && i.slotBad) && !(i.priv && x.rights != 0) &&
    !(atLoopEnd x.loops (instPc x) && (i.loopBad || x.slot.isSome))

/-- An instruction gets to its own work: the engine runs its job and issues it, no event is taken at the boundary,
    the instruction is fetched, and it meets no decode fault. -/
def ready (e : Nat) (i : Inst) (s : State) : Bool :=
  decide ((s.eng e).run = .running) && mayIssue e i s && (eventBefore i (s.eng e)).isNone && fetches e s && decodes (found e s) i

/-- The state after an instruction whose work left `s` has committed, a debug step has ended, and an engine that
    only brought this instruction to its end has stopped (R68). -/
def committed (e : Nat) (i : Inst) (fl : Flow) (s : State) : State := stopAfter e (stepEnd e (retire e i fl s))

/-- The state after an instruction whose work left `s` has taken a fault of its own: it has issued (R651), and
    with the exception a debug step has ended. -/
def faulted (e : Nat) (i : Inst) (v : Ev) (s : State) : State :=
  stepEnd e (takeFault e v (discarded e (s.modEng e fun x => { x with count := countIssued i x.count })))

/-- A command that is an instruction completes: when it is ready and its work answers a flow, the next
    state is the commit of that work. -/
def Runs (c : Instr) (e : Nat) (i : Inst) : Prop :=
  ∀ (s s1 : State) (fl : Flow), ready e i s = true → i.run.run (fetched e s) = .ok fl s1 →
    exec c s = .next (committed e i fl s1)

/-- A command that is an instruction writes a function of the engine to gd and nothing else. -/
def Writes (c : Instr) (e : Nat) (i : Inst) (rd : Reg) (f : Engine → Word) : Prop :=
  ∀ s : State, ready e i s = true →
    exec c s = .next (committed e i .next ((fetched e s).modEng e fun x => x.setReg rd (f x)))

/-- A command that is an instruction writes a function of the engine to the pair gd. -/
def WritesPair (c : Instr) (e : Nat) (i : Inst) (rd : Reg) (f : Engine → Word × Word) : Prop :=
  ∀ s : State, ready e i s = true →
    exec c s = .next (committed e i .next
      ((fetched e s).modEng e fun x => x.setPair rd (f x).1 (f x).2))

/-! ### What stays the same -/

/-- HBM and every tile store read as before. -/
def SameMemory (s t : State) : Prop := ∀ a : Nat, t.hbm.get a = s.hbm.get a ∧ t.tile.get a = s.tile.get a

/-- Every engine but one is as before. -/
def OthersKept (e : Nat) (s t : State) : Prop := ∀ k : Nat, k ≠ e → t.eng k = s.eng k

/-! ### The forms that every step keeps -/

/-- HBM and the tile stores hold their bytes, and both copies of the translation map their entries, in
    canonical form. -/
def State.memoryForm (s : State) : Prop :=
  s.hbm.wf = true ∧ s.tile.wf = true ∧ SMap.wf (0 : Word) s.hub.live = true ∧
    SMap.wf (0 : Word) s.hub.shadow = true

/-- Jobs have distinct identities, below the next one to be given. -/
def State.jobForm (s : State) : Prop :=
  (s.jobs.map Job.id).Nodup ∧ ∀ j ∈ s.jobs, j.id < s.nextJob

end Sys2Proof.Machine
end

