-- ==== Sys2Proof/Certificates/Slice0/Obligations.lean ====
section
/-! DEFINITION. The statements about the BN9512 for the provers. -/

open Sys2Proof Sys2Proof.Machine

/-- O1. When the queue holds a command c in front of the commands cs, step is exec of c on the state
    whose queue is cs; in particular a state with c put in front of its queue steps to exec of c on
    it. (00_scope) -/
def Obligations.StepRunsFrontCommand : Prop :=
  (∀ (s : State) (c : Instr) (cs : List Instr), s.pending = c :: cs →
    step s = exec c { s with pending := cs }) ∧
  ∀ (s : State) (c : Instr), step (s.push c) = exec c s

/-- O2. No command faults and none is refused: for every command and every state, exec answers a next
    state. The spec gives every row of the table an effect. (95_what_each_step_holds) -/
def Obligations.EveryCommandAnswers : Prop :=
  ∀ (c : Instr) (s : State), ∃ t : State, exec c s = .next t

/-- O3. With an empty queue and no power in the management domain a step changes nothing; with power it
    adds 1000 to TIMEBASE, and HBM and tile stores read as before. That the tick is what an idle
    step does is the choice of log entry 1. (15_clocks_resets_crossings) -/
def Obligations.EmptyQueueTicks : Prop :=
  ∀ s : State, s.pending = [] →
    (s.boot.powered = false → step s = .next s) ∧
    (s.boot.powered = true → ∃ t : State, step s = .next t ∧
      t.mg.timebase = s.mg.timebase + 1000 ∧ SameMemory s t ∧ t.pending = [])

/-- O4. For every state whose HBM and tile stores, and the live and shadow copies of the translation
    map, are in canonical form (addresses or pages strictly rising, nothing listed that is 0) and
    whose jobs have distinct identities below the next one to be given, if a step answers a next
    state then that state has both forms too. The canonical form is the choice of log entry 6; the
    identities are the model's own. (02_memory_and_map, 13_data_plane_and_frarix) -/
def Obligations.StateFormKept : Prop :=
  ∀ s t : State, s.memoryForm → s.jobForm → step s = .next t → t.memoryForm ∧ t.jobForm

/-- O5. The reset state holds HBM, the tile stores and both map copies in canonical form, every byte of
    the memories reads 0, and no job and no command waits. What a byte of memory reads before the
    first zero fill is no rule of the spec: the 0 is the choice of log entry 6, the same for every
    register without a reset value that of log entries 4 and 7. (02_memory_and_map) -/
def Obligations.ResetStateForm : Prop :=
  State.reset.memoryForm ∧ State.reset.jobForm ∧
    (∀ a : Nat, State.reset.hbm.get a = 0 ∧ State.reset.tile.get a = 0) ∧
    State.reset.jobs = [] ∧ State.reset.pending = []

/-- O6. On every engine g0 reads 0 and a write to it changes nothing; g31 reads the 48-bit stack pointer
    of the current ring, zero-extended, and a write to it writes bits 47:0 into that stack pointer;
    any other register reads back what was written; and a write to one register leaves the reading
    of every other register, and every stack pointer of another ring, as it was. (R133, R135) -/
def Obligations.RegisterFileRules : Prop :=
  ∀ (x : Engine) (r : Reg) (v : Word),
    x.reg 0 = 0 ∧ x.setReg 0 v = x ∧
    x.reg 31 = (x.stk[x.trap.ring.toNat]).setWidth 64 ∧
    ((x.setReg 31 v).stk[x.trap.ring.toNat] = v.setWidth 48) ∧
    (r ≠ 0 → r ≠ 31 → (x.setReg r v).reg r = v) ∧
    (∀ k : Reg, k ≠ r → (x.setReg r v).reg k = x.reg k) ∧
    (∀ n : Fin 4, (r ≠ 31 ∨ n.val ≠ x.trap.ring.toNat) → (x.setReg r v).stk[n] = x.stk[n])

/-- O7. For every engine, operands and state in which the instruction is ready, each instruction of
    major opcode 0x01 completes, and its next state is the commit of writing to gd the value of
    Table 4.3 of the registers as they were: sums and differences modulo 2^64, logic, comparisons as
    1 or 0, shifts by gb[5:0], extremes, counts of bits (said bit by bit in BitCounts), and sign and
    zero extensions. MUL completes with the low 64 bits of the product in gd, MULW and MULWU with
    the signed and the unsigned 128-bit product in the pair gd. (R194, R197, R187, R199) -/
def Obligations.IntegerRegisterResults : Prop :=
  ∀ (e : Eng) (rd ra rb : Reg),
    Writes (.add e rd ra rb) e (addInst e rd ra rb) rd (fun x => x.reg ra + x.reg rb) ∧
    Writes (.sub e rd ra rb) e (subInst e rd ra rb) rd (fun x => x.reg ra - x.reg rb) ∧
    Writes (.and e rd ra rb) e (andInst e rd ra rb) rd (fun x => x.reg ra &&& x.reg rb) ∧
    Writes (.or e rd ra rb) e (orInst e rd ra rb) rd (fun x => x.reg ra ||| x.reg rb) ∧
    Writes (.xor e rd ra rb) e (xorInst e rd ra rb) rd (fun x => x.reg ra ^^^ x.reg rb) ∧
    Writes (.andn e rd ra rb) e (andnInst e rd ra rb) rd (fun x => x.reg ra &&& ~~~(x.reg rb)) ∧
    Writes (.clt e rd ra rb) e (cltInst e rd ra rb) rd (fun x => if (x.reg ra).slt (x.reg rb) then 1 else 0) ∧
    Writes (.cltu e rd ra rb) e (cltuInst e rd ra rb) rd (fun x => if (x.reg ra).ult (x.reg rb) then 1 else 0) ∧
    Writes (.ceq e rd ra rb) e (ceqInst e rd ra rb) rd (fun x => if x.reg ra = x.reg rb then 1 else 0) ∧
    Writes (.shl e rd ra rb) e (shlInst e rd ra rb) rd (fun x => x.reg ra <<< ((x.reg rb).toNat % 64)) ∧
    Writes (.shr e rd ra rb) e (shrInst e rd ra rb) rd (fun x => x.reg ra >>> ((x.reg rb).toNat % 64)) ∧
    Writes (.sar e rd ra rb) e (sarInst e rd ra rb) rd (fun x => (x.reg ra).sshiftRight ((x.reg rb).toNat % 64)) ∧
    Writes (.ror e rd ra rb) e (rorInst e rd ra rb) rd (fun x => (x.reg ra).rotateRight ((x.reg rb).toNat % 64)) ∧
    Writes (.min e rd ra rb) e (minInst e rd ra rb) rd (fun x => if (x.reg rb).slt (x.reg ra) then x.reg rb else x.reg ra) ∧
    Writes (.max e rd ra rb) e (maxInst e rd ra rb) rd (fun x => if (x.reg ra).slt (x.reg rb) then x.reg rb else x.reg ra) ∧
    Writes (.minu e rd ra rb) e (minuInst e rd ra rb) rd (fun x => if (x.reg rb).ult (x.reg ra) then x.reg rb else x.reg ra) ∧
    Writes (.maxu e rd ra rb) e (maxuInst e rd ra rb) rd (fun x => if (x.reg ra).ult (x.reg rb) then x.reg rb else x.reg ra) ∧
    Writes (.clz e rd ra) e (clzInst e rd ra) rd (fun x => clzW (x.reg ra)) ∧
    Writes (.ctz e rd ra) e (ctzInst e rd ra) rd (fun x => ctzW (x.reg ra)) ∧
    Writes (.popc e rd ra) e (popcInst e rd ra) rd (fun x => popcW (x.reg ra)) ∧
    Writes (.sextB e rd ra) e (sextBInst e rd ra) rd (fun x => ((x.reg ra).extractLsb' 0 8).signExtend 64) ∧
    Writes (.sextH e rd ra) e (sextHInst e rd ra) rd (fun x => ((x.reg ra).extractLsb' 0 16).signExtend 64) ∧
    Writes (.sextW e rd ra) e (sextWInst e rd ra) rd (fun x => ((x.reg ra).extractLsb' 0 32).signExtend 64) ∧
    Writes (.zextW e rd ra) e (zextWInst e rd ra) rd (fun x => ((x.reg ra).extractLsb' 0 32).zeroExtend 64) ∧
    Writes (.mul e rd ra rb) e (mulInst e rd ra rb) rd (fun x =>
      BitVec.ofNat 64 ((x.reg ra).toNat * (x.reg rb).toNat)) ∧
    (∃ f : Engine → Word × Word, WritesPair (.mulw e rd ra rb) e (mulwInst e rd ra rb) rd f ∧
      ∀ x : Engine, ((f x).2 ++ (f x).1).toInt = (x.reg ra).toInt * (x.reg rb).toInt) ∧
    (∃ f : Engine → Word × Word, WritesPair (.mulwu e rd ra rb) e (mulwuInst e rd ra rb) rd f ∧
      ∀ x : Engine, ((f x).2 ++ (f x).1).toNat = (x.reg ra).toNat * (x.reg rb).toNat)

/-- O8. The count of leading zero bits is n, 0 to 64, with the n top bits 0 and, below 64, the next bit
    1; the count of trailing zero bits likewise from bit 0; the number of one bits is the sum of the
    64 bits. (R194) -/
def Obligations.BitCounts : Prop :=
  ∀ a : Word,
    ((clzW a).toNat ≤ 64 ∧ (∀ i < (clzW a).toNat, a.getLsbD (63 - i) = false) ∧
      ((clzW a).toNat < 64 → a.getLsbD (63 - (clzW a).toNat) = true)) ∧
    ((ctzW a).toNat ≤ 64 ∧ (∀ i < (ctzW a).toNat, a.getLsbD i = false) ∧
      ((ctzW a).toNat < 64 → a.getLsbD (ctzW a).toNat = true)) ∧
    (popcW a).toNat = ((List.range 64).map fun i => (a.getLsbD i).toNat).sum

/-- O9. For every engine, operands and state in which the instruction is ready, each immediate
    instruction completes and its next state is the commit of writing to gd the value of Table 4.4:
    sign-extended immediates for ADDI, CLTI and CLTIU, zero-extended ones for ANDI, ORI and XORI,
    shifts by n, the shifted halfword for LDI, and for INSI gd with halfword hw replaced. (R195,
    R196, R186) -/
def Obligations.ImmediateResults : Prop :=
  ∀ (e : Eng) (rd ra : Reg) (imm : BitVec 16) (n : BitVec 6) (hw : BitVec 2),
    Writes (.addi e rd ra imm) e (addiInst e rd ra imm) rd (fun x => x.reg ra + imm.signExtend 64) ∧
    Writes (.andi e rd ra imm) e (andiInst e rd ra imm) rd (fun x => x.reg ra &&& imm.zeroExtend 64) ∧
    Writes (.ori e rd ra imm) e (oriInst e rd ra imm) rd (fun x => x.reg ra ||| imm.zeroExtend 64) ∧
    Writes (.xori e rd ra imm) e (xoriInst e rd ra imm) rd (fun x => x.reg ra ^^^ imm.zeroExtend 64) ∧
    Writes (.clti e rd ra imm) e (cltiInst e rd ra imm) rd (fun x => if (x.reg ra).slt (imm.signExtend 64) then 1 else 0) ∧
    Writes (.cltiu e rd ra imm) e (cltiuInst e rd ra imm) rd (fun x => if (x.reg ra).ult (imm.signExtend 64) then 1 else 0) ∧
    Writes (.shli e rd ra n) e (shliInst e rd ra n) rd (fun x => x.reg ra <<< n.toNat) ∧
    Writes (.shri e rd ra n) e (shriInst e rd ra n) rd (fun x => x.reg ra >>> n.toNat) ∧
    Writes (.sari e rd ra n) e (sariInst e rd ra n) rd (fun x => (x.reg ra).sshiftRight n.toNat) ∧
    Writes (.rori e rd ra n) e (roriInst e rd ra n) rd (fun x => (x.reg ra).rotateRight n.toNat) ∧
    Writes (.ldi e rd imm hw) e (ldiInst e rd imm hw) rd (fun _ => imm.zeroExtend 64 <<< (16 * hw.toNat)) ∧
    (∃ f : Engine → Word, Writes (.insi e rd imm hw) e (insiInst e rd imm hw) rd f ∧
      ∀ x : Engine, (f x).extractLsb' (16 * hw.toNat) 16 = imm ∧
        ∀ k < 64, (k < 16 * hw.toNat ∨ 16 * hw.toNat + 16 ≤ k) →
          (f x).getLsbD k = (x.reg rd).getLsbD k)

/-- O10. Ready, ADC and SBB complete with the pair gd holding the 65-bit sum, or the difference modulo
    2^64 and the borrow of R198 (gc[63:1] ignored); an odd gd, or one above 28, names no pair and
    the instruction is then not ready (R188, R190). (R198, R188, R190) -/
def Obligations.CarryResults : Prop :=
  ∀ (e : Eng) (rd ra rb rc : Reg),
    WritesPair (.adc e rd ra rb rc) e (adcInst e rd ra rb rc) rd (fun x =>
      let n := (x.reg ra).toNat + (x.reg rb).toNat + (x.reg rc).toNat % 2
      (BitVec.ofNat 64 n, if 2 ^ 64 ≤ n then 1 else 0)) ∧
    WritesPair (.sbb e rd ra rb rc) e (sbbInst e rd ra rb rc) rd (fun x =>
      (x.reg ra - x.reg rb - BitVec.ofNat 64 ((x.reg rc).toNat % 2),
        if (x.reg ra).toNat < (x.reg rb).toNat + (x.reg rc).toNat % 2 then 1 else 0)) ∧
    (∀ s : State, ready e (adcInst e rd ra rb rc) s = true → rd.toNat % 2 = 0 ∧ rd.toNat ≤ 28)

/-- O11. Ready, each division step completes and its next state is the commit of writing the pair gd:
    DSTART 0 and ga, or the magnitude of ga for .S; DSTEP, with t = 4 R + the top two bits of Q and
    q the largest k in 0 to 3 with k d at most t, the values t - q d and Q shifted left by two with
    q; DEND the fix-up of R200. (R200) -/
def Obligations.DivisionStepResults : Prop :=
  ∀ (e : Eng) (rd ra rb : Reg),
    WritesPair (.dstartU e rd ra) e (dstartUInst e rd ra) rd (fun x => (0, x.reg ra)) ∧
    WritesPair (.dstartS e rd ra) e (dstartSInst e rd ra) rd (fun x =>
      (0, BitVec.ofNat 64 (x.reg ra).toInt.natAbs)) ∧
    WritesPair (.dstepU e rd rb) e (dstepUInst e rd rb) rd (fun x =>
      dstep (x.reg rb) (x.reg rd) (x.reg (nextReg rd))) ∧
    WritesPair (.dstepS e rd rb) e (dstepSInst e rd rb) rd (fun x =>
      dstep (BitVec.ofNat 64 (x.reg rb).toInt.natAbs) (x.reg rd) (x.reg (nextReg rd))) ∧
    WritesPair (.dendU e rd ra rb) e (dendUInst e rd ra rb) rd (fun x =>
      if x.reg rb = 0 then (x.reg ra, BitVec.allOnes 64)
      else (x.reg rd, x.reg (nextReg rd))) ∧
    WritesPair (.dendS e rd ra rb) e (dendSInst e rd ra rb) rd (fun x =>
      if x.reg rb = 0 then (x.reg ra, BitVec.allOnes 64)
      else (if (x.reg ra).msb then -x.reg rd else x.reg rd,
        if (x.reg ra).msb != (x.reg rb).msb then -x.reg (nextReg rd) else x.reg (nextReg rd))) ∧
    (∀ d r q : Word, ∃ k ≤ 3, k * d.toNat ≤ 4 * r.toNat + q.toNat / 2 ^ 62 ∧
      (∀ j ≤ 3, j * d.toNat ≤ 4 * r.toNat + q.toNat / 2 ^ 62 → j ≤ k) ∧
      dstep d r q = (BitVec.ofNat 64 (4 * r.toNat + q.toNat / 2 ^ 62 - k * d.toNat),
        BitVec.ofNat 64 (4 * q.toNat + k)))

/-- The pair after DSTART, 32 DSTEP and DEND of one division. -/
def divided (sg : Bool) (a b : Word) : Word × Word :=
  let d := if sg then absW b else b
  let p := Nat.repeat (fun p => dstep d p.1 p.2) 32 (0, if sg then absW a else a)
  dend sg a b p.1 p.2

/-- O12. For every dividend and divisor the functions that the division steps apply to the pair gd,
    start, 32 steps and fix-up, leave the quotient rounded toward zero in gd+1 and the remainder,
    with the sign of the dividend, in gd, unsigned and signed; division by zero leaves all ones and
    the dividend; -2^63 by -1 leaves -2^63 and 0. (R201, R202, R200) -/
def Obligations.DivisionSequenceDivides : Prop :=
  ∀ a b : Word,
    (b ≠ 0 → divided false a b = (a % b, a / b)) ∧
    (b ≠ 0 → divided true a b =
      (BitVec.ofInt 64 (a.toInt.tmod b.toInt), BitVec.ofInt 64 (a.toInt.tdiv b.toInt))) ∧
    (∀ sg : Bool, divided sg a 0 = (a, BitVec.allOnes 64)) ∧
    divided true (BitVec.intMin 64) (BitVec.allOnes 64) = (0, BitVec.intMin 64)

/-- O13. Ready, the DAJ instructions complete with gd := ga - ((k >> 2) | (k >> 3)), k the complement of
    ga xor gb under the mask of Table 4.6; DADD and DSUB of two valid P15 values complete with the
    P15 value of the sum or difference while its magnitude is below 10^15, the flags unchanged, and,
    where DCTL.OVF selects saturation, with the saturated value and FFLAGS.DOVF set above it. Where
    it does not, and where an operand is no valid P15 value, the decimal exception is taken and gd
    and the flags are as the instruction found them. With digits of x and y in a and b, t1 = a plus
    the digits 6, t2 = t1 + b and t3 = t1 xor b, DAJ of t2 and t3 leaves the digits of x + y, the
    carry in the next nibble; so 45 + 38 gives 83 and 99 + 99 gives 198. The words are opcode 0x0D
    with the functions of Table 4.6. Every integer below 10^15 in magnitude reads back from its P15
    value, whose sign code is 0xC, or 0xD below zero. (R203, R204, R205) -/
def Obligations.PackedDigitResults : Prop :=
  ∀ (e : Eng) (rd ra rb : Reg),
    (∀ p ∈ [(Instr.dajB e rd ra rb, dajBInst e rd ra rb, (0x110 : Word)),
        (.dajH e rd ra rb, dajHInst e rd ra rb, 0x11110),
        (.dajW e rd ra rb, dajWInst e rd ra rb, 0x111111110)],
      Writes p.1 e p.2.1 rd fun x =>
        let k := ~~~(x.reg ra ^^^ x.reg rb) &&& p.2.2
        x.reg ra - ((k >>> 2) ||| (k >>> 3))) ∧
    (∀ p ∈ [(Instr.dadd e rd ra rb, daddInst e rd ra rb, false),
        (.dsub e rd ra rb, dsubInst e rd ra rb, true)], ∀ (s : State) (a b : Int),
      ready e p.2.1 s = true → decRead 15 ((found e s).reg ra).toNat = some a →
      decRead 15 ((found e s).reg rb).toNat = some b →
      let z := if p.2.2 then a - b else a + b
      (z.natAbs < 10 ^ 15 →
        exec p.1 s = .next (committed e p.2.1 .next ((fetched e s).modEng e fun x =>
          x.setReg rd (BitVec.ofNat 64 (decWrite 15 z))))) ∧
      (10 ^ 15 ≤ z.natAbs → (found e s).dctl.getLsbD 12 = false →
        exec p.1 s = .next (committed e p.2.1 .next ((fetched e s).modEng e fun x =>
          { x.setReg rd (BitVec.ofNat 64 (decWrite 15 (z.sign * (10 ^ 15 - 1)))) with
            fflags := x.fflags ||| 0x40 })))) ∧
    (∀ p ∈ [(Instr.dadd e rd ra rb, daddInst e rd ra rb, false),
        (.dsub e rd ra rb, dsubInst e rd ra rb, true)], ∀ s : State, ready e p.2.1 s = true →
      (decRead 15 ((found e s).reg ra).toNat = none ∨ decRead 15 ((found e s).reg rb).toNat = none →
        exec p.1 s = .next (faulted e p.2.1 { code := 0x0F, detail := 2 } (fetched e s))) ∧
      (∀ a b : Int, decRead 15 ((found e s).reg ra).toNat = some a →
        decRead 15 ((found e s).reg rb).toNat = some b → (found e s).dctl.getLsbD 12 = true →
        10 ^ 15 ≤ (if p.2.2 then a - b else a + b).natAbs →
        exec p.1 s = .next (faulted e p.2.1 { code := 0x0F, detail := 1 } (fetched e s)))) ∧
    (∀ p ∈ [(dajBInst e rd ra rb, (0x000 : BitVec 11)), (dajHInst e rd ra rb, 0x001),
        (dajWInst e rd ra rb, 0x002), (daddInst e rd ra rb, 0x003), (dsubInst e rd ra rb, 0x004)],
      p.1.word = (0x0D : BitVec 6) ++ rd ++ ra ++ rb ++ p.2) ∧
    (∀ p ∈ [(2, (0x110 : Word), (0x66 : Word)), (4, 0x11110, 0x6666), (8, 0x111111110, 0x66666666)],
      ∀ x < 10 ^ p.1, ∀ y < 10 ^ p.1,
        let t1 := BitVec.ofNat 64 (toDigits p.1 x) + p.2.2
        let b : Word := BitVec.ofNat 64 (toDigits p.1 y)
        let t2 := t1 + b
        let t3 := t1 ^^^ b
        let k := ~~~(t2 ^^^ t3) &&& p.2.1
        t2 - ((k >>> 2) ||| (k >>> 3)) = BitVec.ofNat 64 (toDigits (p.1 + 1) (x + y))) ∧
    (∀ n v : Nat, toDigits (n + 1) v % 16 = v % 10 ∧ toDigits (n + 1) v / 16 = toDigits n (v / 10) ∧
      toDigits 0 v = 0) ∧
    (∀ z : Int, z.natAbs < 10 ^ 15 → decRead 15 (decWrite 15 z) = some z ∧
      decWrite 15 z % 16 = (if z < 0 then 0xD else 0xC))

/-- O14. For every instruction of opcodes 0x0E and 0x0F in both precisions, ready: where the operation
    delivers a value with flags of which FCTL enables no trap, it completes, gd takes the value and
    FFLAGS the OR of the flags; where it delivers flags of which FCTL enables a trap, or meets a
    subnormal that DN does not admit, the exception is taken at the instruction and the engine it is
    taken from has its registers and FFLAGS as the instruction found them. (R207, R208, R209, R211,
    R210) -/
def Obligations.FloatResults : Prop :=
  ∀ (e : Eng) (p : Bool) (rd ra rb rc : Reg),
    ∀ q ∈ ([(Instr.fadd e p rd ra rb, faddInst e p rd ra rb,
          fun x => fadd (fmtOf p) x.fctl (fpReg x p ra) (fpReg x p rb)),
        (Instr.fsub e p rd ra rb, fsubInst e p rd ra rb,
          fun x => fsub (fmtOf p) x.fctl (fpReg x p ra) (fpReg x p rb)),
        (Instr.fmul e p rd ra rb, fmulInst e p rd ra rb,
          fun x => fmul (fmtOf p) x.fctl (fpReg x p ra) (fpReg x p rb)),
        (Instr.fmin e p rd ra rb, fminInst e p rd ra rb,
          fun x => fmin (fmtOf p) x.fctl (fpReg x p ra) (fpReg x p rb)),
        (Instr.fmax e p rd ra rb, fmaxInst e p rd ra rb,
          fun x => fmax (fmtOf p) x.fctl (fpReg x p ra) (fpReg x p rb)),
        (Instr.feq e p rd ra rb, feqInst e p rd ra rb,
          fun x => feq (fmtOf p) x.fctl (fpReg x p ra) (fpReg x p rb)),
        (Instr.flt e p rd ra rb, fltInst e p rd ra rb,
          fun x => flt (fmtOf p) x.fctl (fpReg x p ra) (fpReg x p rb)),
        (Instr.fle e p rd ra rb, fleInst e p rd ra rb,
          fun x => fle (fmtOf p) x.fctl (fpReg x p ra) (fpReg x p rb)),
        (.funord e p rd ra rb, funInst e p rd ra rb,
          fun x => fun' (fmtOf p) x.fctl (fpReg x p ra) (fpReg x p rb)),
        (.fabs e p rd ra, fabsInst e p rd ra, fun x => fabs (fmtOf p) x.fctl (fpReg x p ra)),
        (.fneg e p rd ra, fnegInst e p rd ra, fun x => fneg (fmtOf p) x.fctl (fpReg x p ra)),
        (.fcvt e p rd ra, fcvtInst e p rd ra,
          fun x => fcvt (fmtOf p) (fmtOf !p) x.fctl (fpReg x p ra)),
        (.ftoi e p rd ra, ftoiInst e p rd ra,
          fun x => ftoint (fmtOf p) x.fctl (rmOf x.fctl) true 64 (fpReg x p ra)),
        (.ftoiz e p rd ra, ftoizInst e p rd ra,
          fun x => ftoint (fmtOf p) x.fctl 1 true 64 (fpReg x p ra)),
        (.ftou e p rd ra, ftouInst e p rd ra,
          fun x => ftoint (fmtOf p) x.fctl (rmOf x.fctl) false 64 (fpReg x p ra)),
        (.itof e p rd ra, itofInst e p rd ra,
          fun x => (fmtOf p).ofInt (rmOf x.fctl) (dnOf x.fctl) (x.reg ra).toInt),
        (.utof e p rd ra, utofInst e p rd ra,
          fun x => (fmtOf p).ofInt (rmOf x.fctl) (dnOf x.fctl) (x.reg ra).toNat),
        (.fma e p rd ra rb rc, fmaInst e p rd ra rb rc,
          fun x => ffma false false (fmtOf p) x.fctl (fpReg x p ra) (fpReg x p rb) (fpReg x p rc)),
        (.fms e p rd ra rb rc, fmsInst e p rd ra rb rc,
          fun x => ffma false true (fmtOf p) x.fctl (fpReg x p ra) (fpReg x p rb) (fpReg x p rc)),
        (.fnma e p rd ra rb rc, fnmaInst e p rd ra rb rc,
          fun x => ffma true false (fmtOf p) x.fctl (fpReg x p ra) (fpReg x p rb) (fpReg x p rc)),
        (.fnms e p rd ra rb rc, fnmsInst e p rd ra rb rc,
          fun x => ffma true true (fmtOf p) x.fctl (fpReg x p ra) (fpReg x p rb) (fpReg x p rc))] : List (Instr × Inst × (Engine → FRes))),
      ∀ s : State, ready e q.2.1 s = true →
      (∀ (n : Nat) (fl : BitVec 5), q.2.2 (found e s) = .val n fl → fl &&& teOf (found e s).fctl = 0 →
        exec q.1 s = .next (committed e q.2.1 .next ((fetched e s).modEng e fun x =>
          { x.setReg rd (BitVec.ofNat 64 n) with fflags := x.fflags ||| fl.setWidth 7 }))) ∧
      (∀ (n : Nat) (fl : BitVec 5), q.2.2 (found e s) = .val n fl → fl &&& teOf (found e s).fctl ≠ 0 →
        exec q.1 s = .next (faulted e q.2.1
          { code := 0x0D, detail := (fl &&& teOf (found e s).fctl).setWidth 8 } (fetched e s))) ∧
      (q.2.2 (found e s) = .denorm →
        exec q.1 s = .next (faulted e q.2.1 { code := 0x0E } (fetched e s)))

/-- O15. Ready, START and STEP of opcode 0x10 with no subnormal operand that DN does not admit complete,
    set no flag, and write the pair gd: FDSTART the significand of the dividend and 0, FDSTEP two
    quotient bits by the significand of the divisor, FSSTART the initial remainder and 0, FSSTEP two
    root bits; FDEND and FSEND whose result sets no enabled trap complete with the rounded result in
    gd, 0 in gd+1, and FFLAGS the OR of its flags. (R213, R211, R188) -/
def Obligations.FloatStepResults : Prop :=
  ∀ (e : Eng) (p : Bool) (rd ra rb : Reg) (s : State),
    let x := found e s
    let F := fmtOf p
    let v (r : Reg) : Option FVal := F.operand (dnOf x.fctl) (fpReg x p r)
    let pair (i : Inst) (q : Word × Word) : Host.Outcome State Fault Refusal :=
      .next (committed e i .next ((fetched e s).modEng e fun y => y.setPair rd q.1 q.2))
    let fin (i : Inst) (n : Nat) (fl : BitVec 5) : Host.Outcome State Fault Refusal :=
      .next (committed e i .next ((fetched e s).modEng e fun y =>
        { y.setPair rd (BitVec.ofNat 64 n) 0 with fflags := y.fflags ||| fl.setWidth 7 }))
    (∀ a b : FVal, ready e (fdstartInst e p rd ra rb) s = true → v ra = some a → v rb = some b →
      exec (.fdstart e p rd ra rb) s = pair (fdstartInst e p rd ra rb) (BitVec.ofNat 64 a.sig, 0)) ∧
    (∀ b : FVal, ready e (fdstepInst e p rd rb) s = true → v rb = some b →
      exec (.fdstep e p rd rb) s =
        pair (fdstepInst e p rd rb) (divStep b.sig (x.reg rd) (x.reg (nextReg rd)))) ∧
    (∀ a : FVal, ready e (fsstartInst e p rd ra) s = true → v ra = some a →
      exec (.fsstart e p rd ra) s = pair (fsstartInst e p rd ra) (F.rootStart a, 0)) ∧
    (ready e (fsstepInst e p rd) s = true →
      exec (.fsstep e p rd) s = pair (fsstepInst e p rd) (F.rootStep (x.reg rd) (x.reg (nextReg rd)))) ∧
    (∀ (a b : FVal) (n : Nat) (fl : BitVec 5), ready e (fdendInst e p rd ra rb) s = true →
      v ra = some a → v rb = some b → fl &&& teOf x.fctl = 0 →
      F.divEnd (rmOf x.fctl) (dnOf x.fctl) a b (x.reg rd) (x.reg (nextReg rd)) = .val n fl →
      exec (.fdend e p rd ra rb) s = fin (fdendInst e p rd ra rb) n fl) ∧
    (∀ (a : FVal) (n : Nat) (fl : BitVec 5), ready e (fsendInst e p rd ra) s = true →
      v ra = some a → fl &&& teOf x.fctl = 0 →
      F.rootEnd (rmOf x.fctl) (dnOf x.fctl) a (x.reg rd) (x.reg (nextReg rd)) = .val n fl →
      exec (.fsend e p rd ra) s = fin (fsendInst e p rd ra) n fl)

/-- O16. For both formats, every rounding mode and every exact magnitude m x 2^e other than 0: where
    rounding delivers neither DENORM nor overflow nor underflow, the result is a normal number of
    the same sign; inexact is set if and only if it differs from the exact value; in modes 0 (RNE)
    and 4 (RMM) its distance is at most half a unit in the last place, and at exactly half a unit
    its significand is even in mode 0 and it is the larger magnitude in mode 4; in mode 1 (RTZ) it
    is the exact value cut toward zero, in mode 2 (RDN) the nearest result not above it, in mode 3
    (RUP) the nearest not below it, each less than a unit away. (R355, R363) -/
def Obligations.RoundedResultIsCorrect : Prop :=
  ∀ (f : FFmt) (rm : BitVec 3) (dn neg : Bool) (m : Nat) (e : Int) (n : Nat) (fl : BitVec 5),
    (f = f32 ∨ f = f64) → m ≠ 0 → f.round rm dn neg m e = .val n fl → fl &&& (flagOF ||| flagUF) = 0 →
    ∃ (sig : Nat) (k : Int), f.decode n = (.fin neg sig k, false) ∧
      2 ^ f.frac ≤ sig ∧ sig < 2 ^ (f.frac + 1) ∧
      let b := min e k
      let exact := m * 2 ^ (e - b).toNat
      let got := sig * 2 ^ (k - b).toNat
      let ulp := 2 ^ (k - b).toNat
      (fl = 0 ∨ fl = flagNX) ∧ (fl = 0 ↔ exact = got) ∧
      let cut := got ≤ exact ∧ exact < got + ulp
      let up := exact ≤ got ∧ got < exact + ulp
      (rm = 0 → 2 * exact ≤ 2 * got + ulp ∧ 2 * got ≤ 2 * exact + ulp ∧
        (2 * exact = 2 * got + ulp ∨ 2 * got = 2 * exact + ulp → sig % 2 = 0)) ∧
      (rm = 1 → cut) ∧ (rm = 2 → if neg then up else cut) ∧ (rm = 3 → if neg then cut else up) ∧
      (rm = 4 → 2 * exact < 2 * got + ulp ∧ 2 * got ≤ 2 * exact + ulp)

/-- O17. For every load of Table 4.10, ready: when the access of its n bytes at EA = (ga + imm)[47:0]
    answers the value v, the instruction completes with v, sign-extended for LD.B, LD.H and LD.W and
    zero-extended for the others, in gd; when the access raises an event, the exception is taken at
    the instruction and gd is not written. (R214, R150) -/
def Obligations.LoadResults : Prop :=
  ∀ (e : Eng) (rd ra : Reg) (imm : BitVec 16),
    ∀ q ∈ ([(.ldB e rd ra imm, ldBInst e rd ra imm, 1, fun v => (v.extractLsb' 0 8).signExtend 64),
        (.ldBu e rd ra imm, ldBuInst e rd ra imm, 1, fun v => v),
        (.ldH e rd ra imm, ldHInst e rd ra imm, 2, fun v => (v.extractLsb' 0 16).signExtend 64),
        (.ldHu e rd ra imm, ldHuInst e rd ra imm, 2, fun v => v),
        (.ldW e rd ra imm, ldWInst e rd ra imm, 4, fun v => (v.extractLsb' 0 32).signExtend 64),
        (.ldWu e rd ra imm, ldWuInst e rd ra imm, 4, fun v => v),
        (.ldD e rd ra imm, ldDInst e rd ra imm, 8, fun v => v)] :
          List (Instr × Inst × Nat × (Word → Word))),
      ∀ s s1 : State, ready e q.2.1 s = true →
      (∀ v : Word, (loadAt e (effAddr (found e s) ra imm) q.2.2.1).run (fetched e s) = .ok v s1 →
        exec q.1 s = .next (committed e q.2.1 .next (s1.modEng e fun x => x.setReg rd (q.2.2.2 v)))) ∧
      (∀ v : Ev, (loadAt e (effAddr (found e s) ra imm) q.2.2.1).run (fetched e s) =
          .error (.ev v) s1 →
        exec q.1 s = .next (faulted e q.2.1 v s1))

/-- A naturally aligned access of 1, 2, 4 or 8 bytes. -/
def natural (va : Word) (n : Nat) : Prop := (n = 1 ∨ n = 2 ∨ n = 4 ∨ n = 8) ∧ va.toNat % n = 0

/-- No byte of a tile store from a key on is one that an error has struck. -/
def cleanTile (s : State) (key n : Nat) : Prop :=
  ∀ i < n, key + i ∉ s.flaws.tileUe ∧ key + i ∉ s.flaws.tileCe

/-- A sector of HBM that can be read and in which no error lies. -/
def cleanHbm (s : State) (pa : Nat) : Prop :=
  unreachable s.hub pa = false ∧ pa / 64 ∉ s.poison ∧ pa / 64 ∉ s.flaws.inner ∧ pa / 64 ∉ s.flaws.hbmUe ∧
    pa / 64 ∉ s.flaws.hbmCe

/-- An engine's translation cache holds a good entry for the page of a job-space address, which grants a
    need to the engine's rights and leads to local HBM. -/
def cachedHbm (s : State) (e : Nat) (va : Word) (need : Need) (ent : Word) : Prop :=
  va.toNat < 0x8000000000 ∧
    (s.eng e).caches.tlb.find? (fun p => p.1 == va.toNat / 2 ^ 18) = some (va.toNat / 2 ^ 18, ent) ∧
    permOk ent (s.eng e).rights need = true ∧ entTgt ent = 0 ∧
    ∀ x ∈ s.flaws.chip, ChipFlaw.within 3 e (va.toNat / 2 ^ 18) 0 8 x = false

/-- The physical address in local HBM that an entry gives a job-space address (R83). -/
def hbmAddr (ent va : Word) : Nat := entPage ent * 2 ^ 18 + va.toNat % 2 ^ 18

/-- O18. A naturally aligned load of 1, 2, 4 or 8 bytes at an address of the own tile store, outside the
    sanctuary or in ring 0 and away from errors, on an engine with no access under way, answers the
    number whose low byte is at the address and changes nothing but the record of the access under
    way; so does a load of a page whose cached translation leads to local HBM, is not cached (NS)
    and grants R. (R83, R141, R215) -/
def Obligations.LocalLoadValue : Prop :=
  ∀ (e : Eng) (s : State) (va : Word) (n : Nat), natural va n → (s.eng e).mid = false →
    let answers (v : Nat) : Prop := ∃ t : State, (loadAt e va n).run s = .ok (BitVec.ofNat 64 v) t ∧
      (t = s ∨ ∃ w : Way, t = s.modEng e fun x => { x with way := w })
    (0xFFFF00000000 ≤ va.toNat → va.toNat + n ≤ 0xFFFF00040000 →
      ((s.eng e).rights = 0 ∨ va.toNat + n ≤ 0xFFFF0003FF00) →
      cleanTile s (e * 2 ^ 18 + (va.toNat - 0xFFFF00000000)) n →
      answers (leNat
        ((List.range n).map fun i => s.tile.get (e * 2 ^ 18 + (va.toNat - 0xFFFF00000000) + i)))) ∧
    (∀ ent : Word, cachedHbm s e va .r ent → entNs ent = true → cleanHbm s (hbmAddr ent va) →
      answers (leNat ((List.range n).map fun i => s.hbm.get (hbmAddr ent va + i))))

/-- O19. For every store of Table 4.10, ready: when the access that stores the low n bytes of gs at EA =
    (ga + imm)[47:0] answers, the instruction completes with the state that the access left; when it
    raises an event, the exception is taken at the instruction. (R214, R150) -/
def Obligations.StoreResults : Prop :=
  ∀ (e : Eng) (rs ra : Reg) (imm : BitVec 16),
    ∀ q ∈ [(Instr.stB e rs ra imm, stBInst e rs ra imm, 1), (.stH e rs ra imm, stHInst e rs ra imm, 2),
        (.stW e rs ra imm, stWInst e rs ra imm, 4), (.stD e rs ra imm, stDInst e rs ra imm, 8)],
      ∀ s s1 : State, ready e q.2.1 s = true →
      ((storeAt e (effAddr (found e s) ra imm) q.2.2 ((found e s).reg rs)).run (fetched e s) =
          .ok () s1 → exec q.1 s = .next (committed e q.2.1 .next s1)) ∧
      (∀ v : Ev, (storeAt e (effAddr (found e s) ra imm) q.2.2 ((found e s).reg rs)).run (fetched e s) =
          .error (.ev v) s1 →
        exec q.1 s = .next (faulted e q.2.1 v s1))

/-- O20. Ready and with no access under way, a store at a naturally aligned EA in the own tile store,
    or, on a square that is not paired, in a page whose cached translation leads to local HBM and
    grants W, with no error in the way, completes; afterwards byte i of the n stored bytes reads
    bits 8i+7 to 8i of gs, every other byte of HBM and of the tile stores reads as before the
    access, and every general register and stack pointer, the status and the floating-point flags of
    the engine are as the instruction found them. (R83, R141, R214) -/
def Obligations.LocalStoreFrame : Prop :=
  ∀ (e : Eng) (rs ra : Reg) (imm : BitVec 16),
    ∀ q ∈ [(Instr.stB e rs ra imm, stBInst e rs ra imm, 1), (.stH e rs ra imm, stHInst e rs ra imm, 2),
        (.stW e rs ra imm, stWInst e rs ra imm, 4), (.stD e rs ra imm, stDInst e rs ra imm, 8)],
      ∀ s : State, ready e q.2.1 s = true →
      let s0 := fetched e s
      let x := found e s
      let va := effAddr x ra imm
      let n := q.2.2
      let kept (t : State) : Prop := (t.eng e).g = x.g ∧ (t.eng e).stk = x.stk ∧
        (t.eng e).trap = x.trap ∧ (t.eng e).fflags = x.fflags ∧ (t.eng e).m = x.m
      natural va n → x.mid = false →
      (∀ key : Nat, key = e * 2 ^ 18 + (va.toNat - 0xFFFF00000000) → 0xFFFF00000000 ≤ va.toNat →
        va.toNat + n ≤ 0xFFFF00040000 → (x.rights = 0 ∨ va.toNat + n ≤ 0xFFFF0003FF00) →
        ∃ t : State, exec q.1 s = .next t ∧ kept t ∧
          (∀ i < n, t.tile.get (key + i) = (x.reg rs).extractLsb' (8 * i) 8) ∧
          (∀ a : Nat, (a < key ∨ key + n ≤ a) → t.tile.get a = s0.tile.get a) ∧
          ∀ a : Nat, t.hbm.get a = s0.hbm.get a) ∧
      (∀ ent : Word, cachedHbm s0 e va .w ent → cleanHbm s0 (hbmAddr ent va) →
        (s0.sqr (e.val / 9)).paired = false →
        ∃ t : State, exec q.1 s = .next t ∧ kept t ∧
          (∀ i < n, t.hbm.get (hbmAddr ent va + i) = (x.reg rs).extractLsb' (8 * i) 8) ∧
          (∀ a : Nat, (a < hbmAddr ent va ∨ hbmAddr ent va + n ≤ a) → t.hbm.get a = s0.hbm.get a) ∧
          ∀ a : Nat, t.tile.get a = s0.tile.get a)

/-- O21. With EC_MODE.SPLIT = 0, a load or store of n = 2, 4 or 8 bytes outside the register windows at
    an address that is no multiple of n raises the misaligned-access fault with EC_FADDR the address
    and changes nothing; with SPLIT = 1, one whose address is in no job space and no tile store
    raises a bus error. (R215) -/
def Obligations.MisalignedAccessFaults : Prop :=
  ∀ (e : Eng) (s : State) (va v : Word) (n : Nat), n ∈ [2, 4, 8] → va.toNat % n ≠ 0 → windowOf va = none →
    ((s.eng e).mode.getLsbD 3 = false →
      (loadAt e va n).run s = .error (.ev { code := 0x05, acc := 2, faddr := va }) s ∧
      (storeAt e va n v).run s = .error (.ev { code := 0x05, acc := 3, faddr := va }) s) ∧
    ((s.eng e).mode.getLsbD 3 = true → splitRegion va = false →
      (loadAt e va n).run s = .error (.ev { code := 0x06, acc := 2, faddr := va }) s ∧
      (storeAt e va n v).run s = .error (.ev { code := 0x06, acc := 3, faddr := va }) s)

/-- O22. For a partition, a context, a ring, a need, a page and an entry: the check answers 1 exactly
    when the page is outside the partition (or there is none), else 2 exactly when V = 0, else 3
    exactly when CTX is neither the context nor FF, else 4 exactly when TGT is reserved, else 5
    exactly when the permission is missing; and it passes exactly when none of the five holds. (R85,
    R82) -/
def Obligations.TranslationChecks : Prop :=
  ∀ (part : Option Partition) (c : Byte) (ring : BitVec 2) (n : Need) (page : Nat) (ent : Word),
    let r := checkEntry part c ring n page ent
    let inPart := ∃ p, part = some p ∧ p.pgFirst ≤ page ∧ page < p.pgFirst + p.pgCount
    let ctxOk := ent.extractLsb' 16 8 = c ∨ ent.extractLsb' 16 8 = 0xFF
    (r = some 1 ↔ ¬ inPart) ∧
    (r = some 2 ↔ inPart ∧ ent.getLsbD 0 = false) ∧
    (r = some 3 ↔ inPart ∧ ent.getLsbD 0 = true ∧ ¬ ctxOk) ∧
    (r = some 4 ↔ inPart ∧ ent.getLsbD 0 = true ∧ ctxOk ∧ ent.extractLsb' 1 2 = 3) ∧
    (r = some 5 ↔ inPart ∧ ent.getLsbD 0 = true ∧ ctxOk ∧ ent.extractLsb' 1 2 ≠ 3 ∧
      permOk ent ring n = false) ∧
    (r = none ↔ inPart ∧ ent.getLsbD 0 = true ∧ ctxOk ∧ ent.extractLsb' 1 2 ≠ 3 ∧
      permOk ent ring n = true)

/-- O23. Ready, with no access under way, at a naturally aligned address of the own tile store outside
    the sanctuary and away from errors: LDL completes with the word in gd and a reservation on its
    sector; STC completes with 0 in gd and the word stored while the engine holds the reservation,
    else with 1 and nothing stored, and no reservation after it either way; each AMO completes with
    the old word in gd and the new word stored (sum, exclusive or, signed minimum, signed maximum,
    gb). DAMO.ADD at local HBM, on a square that is not paired, of two valid P31 values whose sum
    fits completes with 0 in gd and the P31 sum stored. No other byte changes. (R114, R115, R116,
    R221, R222) -/
def Obligations.AtomicResults : Prop :=
  ∀ (e : Eng) (rd ra rb : Reg) (s : State),
    let s0 := fetched e s
    let x := found e s
    let va := ea48 (x.reg ra)
    let key := e.val * 2 ^ 18 + (va.toNat - 0xFFFF00000000)
    let old := BitVec.ofNat 64 (leNat ((List.range 8).map fun i => s0.tile.get (key + i)))
    let stored (t : State) (w : Word) : Prop :=
      (∀ i < 8, t.tile.get (key + i) = w.extractLsb' (8 * i) 8) ∧
      (∀ a : Nat, (a < key ∨ key + 8 ≤ a) → t.tile.get a = s0.tile.get a) ∧
      ∀ a : Nat, t.hbm.get a = s0.hbm.get a
    let here := x.mid = false ∧ va.toNat % 8 = 0 ∧ 0xFFFF00000000 ≤ va.toNat ∧ va.toNat + 8 ≤ 0xFFFF0003FF00 ∧
      cleanTile s0 key 8
    (here → ready e (ldlInst e rd ra) s = true → exec (.ldl e rd ra) s =
      .next (committed e (ldlInst e rd ra) .next (s0.modEng e fun y =>
        { y.setReg rd old with resv := some (tileSector key) }))) ∧
    (here → ready e (stcInst e rd ra rb) s = true → x.resv = some (tileSector key) →
      ∃ t : State, exec (.stc e rd ra rb) s = .next t ∧ stored t (x.reg rb) ∧
        (t.eng e).resv = none ∧ (rd ≠ 0 → (t.eng e).reg rd = 0)) ∧
    (here → ready e (stcInst e rd ra rb) s = true → x.resv ≠ some (tileSector key) →
      exec (.stc e rd ra rb) s = .next (committed e (stcInst e rd ra rb) .next (s0.modEng e fun y =>
        { y.setReg rd 1 with resv := none }))) ∧
    (∀ q ∈ [(Instr.amoAdd e rd ra rb, amoAddInst e rd ra rb, old + x.reg rb),
        (.amoXor e rd ra rb, amoXorInst e rd ra rb, old ^^^ x.reg rb),
        (.amoMin e rd ra rb, amoMinInst e rd ra rb, if (x.reg rb).slt old then x.reg rb else old),
        (.amoMax e rd ra rb, amoMaxInst e rd ra rb, if old.slt (x.reg rb) then x.reg rb else old),
        (.amoSwp e rd ra rb, amoSwpInst e rd ra rb, x.reg rb)],
      here → ready e q.2.1 s = true → ∃ t : State, exec q.1 s = .next t ∧ stored t q.2.2 ∧
        (rd ≠ 0 → rd ≠ 31 → (t.eng e).reg rd = old)) ∧
    (∀ (ent : Word) (a b : Int), x.mid = false → va.toNat % 16 = 0 → (s0.sqr (e.val / 9)).paired = false →
      cachedHbm s0 e va .rw ent → cleanHbm s0 (hbmAddr ent va) →
      decRead 31 (leNat (s0.hbm.bytes (hbmAddr ent va) 16)) = some a →
      decRead 31 ((x.reg (nextReg rb)) ++ (x.reg rb)).toNat = some b → (a + b).natAbs < 10 ^ 31 →
      ready e (damoAddInst e rd ra rb) s = true →
      ∃ t : State, exec (.damoAdd e rd ra rb) s = .next t ∧ (rd ≠ 0 → (t.eng e).reg rd = 0) ∧
        (t.eng e).fflags = x.fflags ∧
        (∀ i < 16, t.hbm.get (hbmAddr ent va + i) =
          (BitVec.ofNat 128 (decWrite 31 (a + b))).extractLsb' (8 * i) 8) ∧
        (∀ k : Nat, (k < hbmAddr ent va ∨ hbmAddr ent va + 16 ≤ k) → t.hbm.get k = s0.hbm.get k) ∧
        ∀ k : Nat, t.tile.get k = s0.tile.get k)

/-- The stream of an engine after a branch at its PC with an outcome, an annul bit and a target: the slot
    is next unless an untaken branch annuls it. -/
def branched (x y : Engine) (taken annul : Bool) (tgt : Word) : Prop :=
  if taken = true ∨ annul = false then y.pc = ea48 (x.pc + 4) ∧ y.slot = some ⟨ea48 x.pc, taken, tgt⟩
  else y.pc = ea48 (x.pc + 8) ∧ y.slot = none

/-- The registers of an engine that a branch leaves alone, and all of memory. -/
def branchFrame (e : Nat) (x : Engine) (s t : State) : Prop :=
  (t.eng e).stk = x.stk ∧ (t.eng e).m = x.m ∧ (t.eng e).trap = x.trap ∧ (t.eng e).fflags = x.fflags ∧
    (t.eng e).fctl = x.fctl ∧ (t.eng e).loops = x.loops ∧ (t.eng e).vec.vl = x.vec.vl ∧ SameMemory s t

/-- O24. For every branch and jump, annul bit, displacement and state in which it is ready: it
    completes; its target is PC + 4 disp modulo 2^48, or ga[47:0] for JR and JRL; BR, BRL, JR and
    JRL are taken, a conditional branch when its condition on ga holds; the delay slot at PC + 4 is
    next, with the outcome and the target pending, unless an untaken branch with A = 1 annuls it and
    the stream goes on at PC + 8; BRL and JRL write PC + 8 to g30 after ga is read, and no other
    general register, stack pointer, flag, loop register or byte of memory changes. (R223, R224,
    R225, R160, R134) -/
def Obligations.BranchResults : Prop :=
  ∀ (e : Eng) (a : Bool) (ra : Reg) (disp : BitVec 16) (far : BitVec 25) (s : State),
    let x := found e s
    let v := x.reg ra
    let near := ea48 (x.pc + 4 * disp.signExtend 64)
    let goal := ea48 (x.pc + 4 * far.signExtend 64)
    let link : Word := ea48 (x.pc + 8)
    (∀ q ∈ [(Instr.beqz e a ra disp, beqzInst e a ra disp, decide (v.toInt = 0)),
        (.bnez e a ra disp, bnezInst e a ra disp, decide (v.toInt ≠ 0)),
        (.bltz e a ra disp, bltzInst e a ra disp, decide (v.toInt < 0)),
        (.bgez e a ra disp, bgezInst e a ra disp, decide (v.toInt ≥ 0)),
        (.bgtz e a ra disp, bgtzInst e a ra disp, decide (v.toInt > 0)),
        (.blez e a ra disp, blezInst e a ra disp, decide (v.toInt ≤ 0)),
        (.bodd e a ra disp, boddInst e a ra disp, decide (v.toNat % 2 = 1)),
        (.beven e a ra disp, bevenInst e a ra disp, decide (v.toNat % 2 = 0))],
      ready e q.2.1 s = true → ∃ t : State, exec q.1 s = .next t ∧
        branched x (t.eng e) q.2.2 a near ∧ (t.eng e).g = x.g ∧ branchFrame e x (fetched e s) t) ∧
    (ready e (brInst e a far) s = true → ∃ t : State, exec (.br e a far) s = .next t ∧
      branched x (t.eng e) true a goal ∧ (t.eng e).g = x.g ∧ branchFrame e x (fetched e s) t) ∧
    (ready e (brlInst e a far) s = true → ∃ t : State, exec (.brl e a far) s = .next t ∧
      branched x (t.eng e) true a goal ∧ (t.eng e).g = x.g.set 30 link ∧
      branchFrame e x (fetched e s) t) ∧
    (ready e (jrInst e a ra) s = true → ∃ t : State, exec (.jr e a ra) s = .next t ∧
      branched x (t.eng e) true a (ea48 v) ∧ (t.eng e).g = x.g ∧ branchFrame e x (fetched e s) t) ∧
    (ready e (jrlInst e a ra) s = true → ∃ t : State, exec (.jrl e a ra) s = .next t ∧
      branched x (t.eng e) true a (ea48 v) ∧ (t.eng e).g = x.g.set 30 link ∧
      branchFrame e x (fetched e s) t)

/-- O25. Ready with fewer than four active levels n and a displacement of at least 1: with gs[31:0] not
    0 LOOP completes with LPS of level n the next address, LPE the end, LPC the count, ACTIVE n set
    and RING n the current ring, the other levels as they were, and goes on at PC + 4; with gs[31:0]
    = 0 it completes with no level taken and goes on at end + 4; with four active levels or a
    displacement below 1 it raises the illegal-loop-end fault with the end as address. (R168, R169,
    R226) -/
def Obligations.LoopInstructionResult : Prop :=
  ∀ (e : Eng) (rs : Reg) (disp : BitVec 21) (s : State), ready e (loopInst e rs disp) s = true →
    let x := found e s
    let n := activeLevels x.loops.st
    let stop := ea48 (x.pc + 4 * disp.signExtend 64)
    let count := (x.reg rs).extractLsb' 0 32
    let i := loopInst e rs disp
    (n < 4 → 1 ≤ disp.toInt → count ≠ 0 → ∃ l : LoopRegs,
      exec (.loop e rs disp) s = .next (committed e i .next
        ((fetched e s).modEng e fun y => { y with loops := l })) ∧
      l.lps = x.loops.lps.setIfInBounds n (ea48 (x.pc + 4)) ∧
      l.lpe = x.loops.lpe.setIfInBounds n stop ∧ l.lpc = x.loops.lpc.setIfInBounds n count ∧
      l.st.getLsbD n = true ∧ l.st.extractLsb' (8 + 2 * n) 2 = x.trap.ring ∧
      ∀ k < 4, k ≠ n → l.st.getLsbD k = x.loops.st.getLsbD k ∧
        l.st.extractLsb' (8 + 2 * k) 2 = x.loops.st.extractLsb' (8 + 2 * k) 2) ∧
    (n < 4 → 1 ≤ disp.toInt → count = 0 →
      exec (.loop e rs disp) s = .next (committed e i (.goto (ea48 (stop + 4))) (fetched e s))) ∧
    (n = 4 ∨ disp.toInt < 1 →
      exec (.loop e rs disp) s = .next (faulted e i { code := 0x0C, faddr := stop } (fetched e s)))

/-- O26. For an engine with no open group, an instruction that is no branch and commits counts one
    instruction issued and one committed; in a delay slot the stream goes on at the pending target,
    or past the slot, and no slot is pending; outside one it goes on at PC + 4, but where PC is the
    end of the innermost active level in the ring of that level, a count of 2 or more goes down by
    one and the stream goes on at the level's start, and a count of 1 or 0 becomes 0, the level
    ends, and the stream goes on at PC + 4. No general register, mask or stack pointer changes.
    (R170, R160, R184) -/
def Obligations.StreamAdvances : Prop :=
  ∀ (x : Engine) (i : Inst), i.streaming = false → x.vec.gpend = [] →
    let y := retireEng i .next x
    let pc := ea48 x.pc
    y.g = x.g ∧ y.m = x.m ∧ y.stk = x.stk ∧ y.trap = x.trap ∧ y.slot = none ∧
    y.count[0] = x.count[0] + 1 ∧ y.count[1] = x.count[1] + 1 ∧
    (∀ sl : Slot, x.slot = some sl → y.loops = x.loops ∧
      y.pc = if sl.taken then sl.tgt else ea48 (sl.bpc + 8)) ∧
    (x.slot = none → activeLevels x.loops.st = 0 → y.loops = x.loops ∧ y.pc = ea48 (pc + 4)) ∧
    (∀ n : Fin 4, x.slot = none → activeLevels x.loops.st = n.val + 1 →
      (x.loops.lpe[n] ≠ pc ∨ x.loops.st.extractLsb' (8 + 2 * n.val) 2 ≠ x.trap.ring →
        y.loops = x.loops ∧ y.pc = ea48 (pc + 4)) ∧
      (x.loops.lpe[n] = pc → x.loops.st.extractLsb' (8 + 2 * n.val) 2 = x.trap.ring →
        (2 ≤ (x.loops.lpc[n]).toNat → y.pc = x.loops.lps[n] ∧ y.loops.st = x.loops.st ∧
          y.loops.lpc = x.loops.lpc.set n (x.loops.lpc[n] - 1)) ∧
        ((x.loops.lpc[n]).toNat ≤ 1 → y.pc = ea48 (pc + 4) ∧ y.loops.lpc = x.loops.lpc.set n 0 ∧
          y.loops.st.getLsbD n.val = false ∧
          ∀ k < 16, k ≠ n.val → y.loops.st.getLsbD k = x.loops.st.getLsbD k)))

/-- O27. Ready: SYNC.C with no VSU work to wait for applies every pending sync-register write and
    completes, but where a VSU wake is then under way it waits for that (R182), and for no store on
    its way to the host or a remote device (log entry 80); SYNC.I with no store of the engine on its
    way to the host or a remote device completes with an empty instruction cache, and with one it
    waits; FENCE.L with no VSU work completes; FENCE.D completes with an empty data cache too;
    FENCE.S and JEND, with no write of the engine on its way to the host or a remote device and no
    deferred error, complete likewise, and JEND ends the engine's part of the job; a deferred error
    is raised by FENCE.S as a bus error and its record cleared; WFI completes when an enabled
    interrupt is pending or a halt is requested, and otherwise waits, nothing of it committed.
    (R175, R177, R182, R67, R229, R549, R678) -/
def Obligations.OrderingInstructionResults : Prop :=
  ∀ (e : Eng) (s : State),
    let s0 := fetched e s
    let x := found e s
    let quiet := vsuBusy x = false
    let sent := writesOut s0 e = false
    let noData (y : Engine) : Engine := { y with caches := { y.caches with dc := [] } }
    (ready e (syncCInst e) s = true → quiet → (applyAllSync x).vsu.inWake = false →
      exec (.syncC e) s = .next (committed e (syncCInst e) .next (s0.modEng e applyAllSync))) ∧
    (ready e (syncCInst e) s = true → quiet → (applyAllSync x).vsu.inWake = true →
      exec (.syncC e) s = .next (s0.modEng e applyAllSync)) ∧
    (ready e (syncIInst e) s = true → storesOut s0 e = false →
      exec (.syncI e) s = .next (committed e (syncIInst e) .next
        (s0.modEng e fun y => { y with caches := { y.caches with ic := [] } }))) ∧
    (ready e (syncIInst e) s = true → storesOut s0 e = true → exec (.syncI e) s = .next s0) ∧
    (ready e (fenceLInst e) s = true → quiet →
      exec (.fenceL e) s = .next (committed e (fenceLInst e) .next s0)) ∧
    (ready e (fenceDInst e) s = true → quiet →
      exec (.fenceD e) s = .next (committed e (fenceDInst e) .next (s0.modEng e noData))) ∧
    (ready e (fenceSInst e) s = true → quiet → sent → x.defer = none →
      exec (.fenceS e) s = .next (committed e (fenceSInst e) .next (s0.modEng e noData))) ∧
    (∀ (va : Word) (acc : BitVec 3), ready e (fenceSInst e) s = true → quiet → sent →
      x.defer = some (va, acc) →
      exec (.fenceS e) s = .next (faulted e (fenceSInst e) { code := 0x06, acc := acc, faddr := va }
        (s0.modEng e fun y => { noData y with defer := none }))) ∧
    (ready e (jendInst e) s = true → quiet → sent → x.defer = none →
      exec (.jend e) s = .next (committed e (jendInst e) .next
        (s0.modEng e fun y => { noData y with run := .ended }))) ∧
    (ready e (wfiInst e) s = true → (x.trap.ipend &&& x.trap.ien ≠ 0 ∨ x.dbg.haltReq = true) →
      exec (.wfi e) s = .next (committed e (wfiInst e) .next
        (s0.modEng e fun y => { y with wfi := true }))) ∧
    (ready e (wfiInst e) s = true → x.trap.ipend &&& x.trap.ien = 0 → x.dbg.haltReq = false →
      exec (.wfi e) s = .next (s0.modEng e fun y => { y with wfi := true }))

/-- O28. Ready, MTM completes with bits 7:6 and 3:0 of ga in the mask register, m0 discarding; MFM
    completes with the mask register, zero-extended, in gd; BRK halts the engine at the BRK itself
    with reason 2 when halting on breakpoints is enabled for it, and otherwise takes ILLEGAL with
    DETAIL 3 at the instruction. (R230, R231, R634) -/
def Obligations.MaskMoveAndBreakResults : Prop :=
  ∀ (e : Eng) (k : BitVec 3) (r : Reg) (code : BitVec 16) (s : State),
    let s0 := fetched e s
    (ready e (mtmInst e k r) s = true → k ≠ 0 → exec (.mtm e k r) s =
      .next (committed e (mtmInst e k r) .next (s0.modEng e fun y =>
        { y with m := y.m.set k.toNat ((y.reg r).extractLsb' 0 8 &&& 0xCF) }))) ∧
    (ready e (mtmInst e 0 r) s = true → exec (.mtm e 0 r) s =
      .next (committed e (mtmInst e 0 r) .next (s0.modEng e fun y => y))) ∧
    Writes (.mfm e r k) e (mfmInst e r k) r (fun y => (y.m[k.toNat]).zeroExtend 64) ∧
    (ready e (brkInst e code) s = true → (found e s).dbg.haltBrk = true →
      ∃ t : State, exec (.brk e code) s = .next t ∧ (t.eng e).dbg.halted = true ∧
        (t.eng e).dbg.reason = 2 ∧ (t.eng e).pc = (found e s).pc ∧ (t.eng e).g = (found e s).g) ∧
    (ready e (brkInst e code) s = true → (found e s).dbg.haltBrk = false →
      ∃ w : BitVec 32, exec (.brk e code) s = .next (faulted e (brkInst e code)
        { code := 0x01, detail := 3, faddr := w.zeroExtend 64 } s0))

/-- O29. Ready, GATE whose index is above the limit or whose table is invalid raises the gate fault with
    DETAIL 1, one whose readable entry is invalid with DETAIL 2, one called from a ring above
    MINCALL with DETAIL 3, and one to an outer ring with DETAIL 4. With a readable valid entry whose
    MINCALL admits the caller and whose RING is no outer ring, and a frame that can be pushed, it
    completes: the frame has EC_CAUSE as before the call but with CODE 0x3E, PC + 4, the status
    before the call and FLAGS 0, the stack pointer of the target ring is the frame's address, the
    ring is the entry's, and the stream goes on at the entry's PC. GRET whose frame is a gate frame
    of this or an outer ring completes: the stack pointer 64 higher, the frame's ring, IE from the
    frame in ring 0 only, and the stream at the frame's PC. GRET of an exception frame of this or an
    outer ring, outside a debug step, completes: stack pointer, ring and IE likewise, VPROG from the
    frame, EC_LOOPST from FLAGS where no store to it is pending, every pending sync-register write
    applied, in ring 0 EC_CAUSE and EC_FADDR from the frame (reserved bits 0), VHELD cleared where
    VVALID is set and kept elsewhere, no general register changed; with DS = 0 the stream goes on at
    the frame's PC, with DS = 1 at PC + 4 in the delay slot of the frame's branch. A frame of an
    inner ring raises PRIV with DETAIL 1. That the CAUSE word of a gate frame is EC_CAUSE with CODE
    0x3E is log entry 20. (R235, R236, R238, R244, R249) -/
def Obligations.GateResults : Prop :=
  ∀ (e : Eng) (idx : BitVec 12) (s : State),
    let s0 := fetched e s
    let x := found e s
    let a := ea48 ((x.trap.gatebase &&& 0xFFFFFFFFFFF8#64) + 8 * idx.zeroExtend 64)
    let valid := x.trap.gatebase.getLsbD 63 = true ∧ idx ≤ x.trap.gatebase.extractLsb' 48 12
    let gatef (d : Byte) (u : State) : Host.Outcome State Fault Refusal :=
      .next (faulted e (gateInst e idx) { code := 0x09, detail := d, faddr := a } u)
    (ready e (gateInst e idx) s = true → ¬ valid → exec (.gate e idx) s = gatef 1 s0) ∧
    (∀ (bs : List Byte) (s1 : State),
      let ent := BitVec.ofNat 64 (leNat bs)
      let open_ := x.trap.ring ≤ ent.extractLsb' 48 2
      ready e (gateInst e idx) s = true → valid → (readTable e 0 a 8).run s0 = .ok bs s1 →
      (ent.getLsbD 63 = false → exec (.gate e idx) s = gatef 2 s1) ∧
      (ent.getLsbD 63 = true → ¬ open_ → exec (.gate e idx) s = gatef 3 s1) ∧
      (ent.getLsbD 63 = true → open_ → x.trap.ring < ent.extractLsb' 0 2 →
        exec (.gate e idx) s = gatef 4 s1)) ∧
    (∀ (bs : List Byte) (s1 s2 : State) (sp : BitVec 48) (t : BitVec 2),
      let ent := BitVec.ofNat 64 (leNat bs)
      let f : Frame64 := ⟨ea48 (x.pc + 4), statusWord x.trap, (x.trap.cause &&& ~~~0xFF#64) ||| 0x3E,
        x.trap.faddr, x.vec.vprog.zeroExtend 64, 0, 0, 0⟩
      ready e (gateInst e idx) s = true → valid → (readTable e 0 a 8).run s0 = .ok bs s1 →
      ent.getLsbD 63 = true → x.trap.ring ≤ ent.extractLsb' 48 2 → t = ent.extractLsb' 0 2 →
      t ≤ x.trap.ring → pushFrame e t f s1 = ((true, sp), s2) →
      exec (.gate e idx) s = .next (committed e (gateInst e idx)
        (.goto (ent &&& 0xFFFFFFFFFFFC#64)) (s2.modEng e fun y =>
          { y with stk := y.stk.set t.toNat sp, trap := { y.trap with ring := t } }))) ∧
    (∀ (bs : List Byte) (s1 : State),
      let c := x.trap.ring
      let f := Frame64.ofBytes bs
      let sp := x.stk[c.toNat]
      ready e (gretInst e) s = true → (readTable e c (sp.zeroExtend 64) 64).run s0 = .ok bs s1 →
      c ≤ f.status.extractLsb' 0 2 → f.cause.extractLsb' 0 8 = 0x3E →
      exec (.gret e) s = .next (committed e (gretInst e) (.goto (ea48 f.pc)) (s1.modEng e fun y =>
        { y with stk := y.stk.set c.toNat (sp + 64),
                 trap := { y.trap with ring := f.status.extractLsb' 0 2,
                                       ie := if c = 0 then f.status.getLsbD 4 else y.trap.ie } }))) ∧
    ∀ (bs : List Byte) (s1 : State),
      let c := x.trap.ring
      let f := Frame64.ofBytes bs
      let sp := x.stk[c.toNat]
      ready e (gretInst e) s = true → (readTable e c (sp.zeroExtend 64) 64).run s0 = .ok bs s1 →
      (f.status.extractLsb' 0 2 < c →
        exec (.gret e) s = .next (faulted e (gretInst e) { code := 0x04, detail := 1 } s1)) ∧
      (c ≤ f.status.extractLsb' 0 2 → f.cause.extractLsb' 0 8 ≠ 0x3E → x.dbg.step = false →
        ∃ t : State, exec (.gret e) s = .next t ∧
          let y := t.eng e
          let released := f.flags.getLsbD 18 = true ∧ x.trap.vheld = true
          y.stk[c.toNat] = sp + 64 ∧ y.trap.ring = f.status.extractLsb' 0 2 ∧
          y.trap.ie = (if c = 0 then f.status.getLsbD 4 else x.trap.ie) ∧ y.g = x.g ∧ y.sync = [] ∧
          ((∀ p ∈ x.sync, p.1 ≠ 0x180) → y.loops.st = f.flags.extractLsb' 0 16 &&& 0xFF0F) ∧
          y.trap.cause = (if c = 0 then f.cause &&& 0x7F0FFFF7FF else x.trap.cause) ∧
          y.trap.faddr = (if c = 0 then f.faddr else x.trap.faddr) ∧
          (released → y.trap.vheld = false) ∧
          (¬ released → y.trap.vheld = x.trap.vheld ∧ y.vec.vprog = f.vprog.extractLsb' 0 24) ∧
          (f.flags.getLsbD 16 = false → y.pc = ea48 f.pc ∧ y.slot = none) ∧
          (f.flags.getLsbD 16 = true → y.pc = ea48 (ea48 f.pc + 4) ∧
            y.slot = some ⟨ea48 f.pc, f.flags.getLsbD 17, ea48 f.btgt⟩))

/-- O30. An engine that runs its job and reaches a scalar reserved encoding with no fault before it
    takes exception 0x02, and a vector reserved encoding 0x03, with the word in EC_FADDR; one that
    reaches a word of opcode 0x00 or 0x3F takes ILLEGAL (0x01) with the word in EC_FADDR; one that
    reaches JEND or WFI in ring 1, 2 or 3, in no delay slot, takes exception 0x04 (PRIV); each from
    the state after the fetch, with no effect of the instruction. (R190, R191, R228, R317) -/
def Obligations.DecodeTraps : Prop :=
  ∀ (e : Eng) (w : BitVec 32) (s : State), (s.eng e).run = .running → canIssue e s = true → (s.eng e).wfi = false →
    ((s.eng e).vsu.stall && (s.eng e).vsu.inWake) = false → boundaryEvent (s.eng e) = none →
    fetches e s = true → (found e s).vec.gpend = [] →
    let trapped (v : Ev) : Host.Outcome State Fault Refusal :=
      .next (stepEnd e (takeFault e v (discarded e (fetched e s))))
    (scalarReserved w = true →
      exec (.reservedOpcode e w) s = trapped { code := 0x02, faddr := w.zeroExtend 64 }) ∧
    (vectorReserved w = true →
      exec (.vectorReservedOpcode e w) s = trapped { code := 0x03, faddr := w.zeroExtend 64 }) ∧
    (opcodeOf w = 0x00 ∨ opcodeOf w = 0x3F →
      exec (.reservedOpcode e w) s = trapped { code := 0x01, faddr := w.zeroExtend 64 }) ∧
    ((found e s).slot = none → (found e s).rights ≠ 0 →
      ∀ c ∈ [Instr.jend e, .wfi e], exec c s = trapped { code := 0x04 })

/-- O31. Where the vector entry of the event can be read and is valid, and the frame can be pushed on
    the stack of the target ring T (the smaller of the entry's ring and the current one, 0 for a
    watchdog or interrupt): the stack pointer of T is the frame's address, the ring is T, IE is 0 if
    T is 0 and else unchanged, EC_CAUSE and EC_FADDR are the new event, no loop level is active, no
    reservation is held, no sync-register write is pending, no delay slot is pending, the PC is the
    entry's, and no general register changes. EXCEPTION_ENTRY with an enabled interrupt pending on a
    running engine of a BUSY square, whose instruction at the boundary has no fault of its own, and
    a valid vector table, makes that entry with the frame of the interrupted PC, once what the
    engine waited for has been let go. (R246, R254, R244) -/
def Obligations.ExceptionEntryEffects : Prop :=
  (∀ (e : Eng) (v : Ev) (mode : BitVec 5) (ring : BitVec 2) (f : Frame64) (s s1 s2 : State)
    (pc a : Word) (r : BitVec 2) (sp : BitVec 48),
    let cur := (s1.eng e).trap.ring
    let t : BitVec 2 := if v.code ∈ [(0x00 : Byte), 0x14, 0x20, 0x21] then 0 else if r < cur then r else cur
    readVector e v.code s = ((some (pc, r), a), s1) → pushFrame e t f s1 = ((true, sp), s2) →
    let u := enterException e v mode ring f s
    let y := u.eng e
    y.pc = pc ∧ y.stk[t.toNat] = sp ∧ y.trap.ring = t ∧ y.trap.cause = causeWord v mode ring ∧
    y.trap.faddr = v.faddr ∧ y.trap.ie = (if t = 0 then false else (s2.eng e).trap.ie) ∧
    y.loops.st.extractLsb' 0 4 = 0 ∧ y.resv = none ∧ y.sync = [] ∧ y.slot = none ∧
    y.g = (s2.eng e).g) ∧
  ∀ (e : Eng) (code : Byte) (s : State),
    let x := s.eng e
    x.run = .running → x.dbg.halted = false → x.dbg.haltReq = false →
      x.wfi = false → (s.sqr (e.val / 9)).st = .busy → x.wd.ready = false → x.vec.held = none →
      x.vec.imprecise = [] → boundaryOpen x = true → x.trap.vecbase.getLsbD 63 = true →
      readyInterrupt x.trap = some code →
      (∀ w s', (issueBody e (instHere e s)).run s ≠ .error (.ev w) s') →
      exec (.exceptionEntry e) s = .next (stepEnd e (enterException e { code := code } x.mode x.trap.ring
        (frameOf x x.pc none none) (leaveInst e s)))

/-- O32. Ready, in a ring that may write the register: a store to a sync register completes with the
    value pending; VDROP with work held completes with the VSU queue empty, VPROG 0 and VHELD 0 and
    keeps IE and DBL, on an engine of no chain; the software interrupt completes with EC_IPEND.SOFT
    set or cleared and TND kept; a trace mark completes with what R648 records; a store to EC_WD_CTL
    and a kick complete with the watchdog as WatchdogWindow says, where a kick that follows another
    within a tick may merge with it (log entry 1); and an enabled watchdog whose count has reached
    CLOSE bites late, while one below CLOSE stays as it is. That VDROP stores IE as it was, and the
    software interrupt 2 or 0, is log entry 27; that the late bite is a command of its own, log
    entry 1, and that it changes nothing before it is due, log entry 9. (R146, R254, R261, R612,
    R648, R145, R610) -/
def Obligations.ControlRegisterStoreResults : Prop :=
  ∀ (e : Eng) (off : BitVec 12) (v : Word) (set : Bool) (s : State),
    let s0 := fetched e s
    let x := found e s
    (ready e (syncRegisterStoreInst e off v) s = true → syncOffset off = true → off ≠ 0x240 →
      x.rights.toNat ≤ ecbWriteRing off.toNat → exec (.syncRegisterStore e off v) s =
      .next (committed e (syncRegisterStoreInst e off v) .next
        (s0.modEng e fun y => { y with sync := y.sync.put off.toNat v }))) ∧
    (ready e (vdropInst e) s = true → x.rights = 0 → x.trap.vheld = true →
      (lengOf s0 e).bind (chainOf s0) = none → ∃ t : State, exec (.vdrop e) s = .next t ∧
        (t.eng e).vec.q = [] ∧ (t.eng e).vec.vprog = 0 ∧ (t.eng e).trap.vheld = false ∧
        (t.eng e).trap.ie = x.trap.ie ∧ (t.eng e).trap.dbl = x.trap.dbl ∧ (t.eng e).g = x.g) ∧
    (ready e (softwareInterruptInst e set) s = true → x.rights = 0 → ∃ t : State,
      exec (.softwareInterrupt e set) s = .next t ∧ (t.eng e).trap.ipend.getLsbD 1 = set ∧
        (t.eng e).trap.ipend.getLsbD 0 = x.trap.ipend.getLsbD 0 ∧ (t.eng e).g = x.g) ∧
    (ready e (traceMarkInst e v) s = true → exec (.traceMark e v) s =
      .next (committed e (traceMarkInst e v) .next (traceMark e v s0))) ∧
    (ready e (ecWdCtlStoreInst e v) s = true → x.rights = 0 → exec (.ecWdCtlStore e v) s =
      .next (committed e (ecWdCtlStoreInst e v) .next (s0.modEng e (wdCtl v)))) ∧
    (ready e (watchdogKickInst e v) s = true → x.rights = 0 → ∃ (m : Bool) (n : Nat),
      (x.wd.recent = false → m = false ∧ n = 0) ∧ exec (.watchdogKick e v) s =
      .next (committed e (watchdogKickInst e v) .next
        (({ s0 with free := s0.free + n } : State).modEng e (wdKick v m)))) ∧
    ((s.eng e).wd.en = true → (s.eng e).wd.close ≤ (s.eng e).wd.t →
      exec (.watchdogLate e) s = .next (s.modEng e (wdBite false))) ∧
    ((s.eng e).wd.en = false ∨ (s.eng e).wd.t < (s.eng e).wd.close → ∃ t : State,
      exec (.watchdogLate e) s = .next t ∧ t.eng e = s.eng e)

/-- O33. A store to EC_WD_CTL of a watchdog that is off writes OPEN and CLOSE; with EN written 1 it is
    on, from a count of 0, when CLOSE is above OPEN, and else stays off with CFGERR; while it is on
    the store changes nothing. A kick with the key while it is on: inside the window OPEN <= t <
    CLOSE the count returns to 0 and a first bite is cancelled; before OPEN it is an early bite, and
    at CLOSE or later a late one; a bite returns the count to 0, and a second one before an accepted
    kick says so. A wrong key only sets BADKEY, and a kick that merges with one before it changes
    nothing. (R609, R611, R612, R610) -/
def Obligations.WatchdogWindow : Prop :=
  ∀ (x : Engine) (v : Word),
    let w := (wdCtl v x).wd
    let opn := v.extractLsb' 16 24
    let close := v.extractLsb' 40 24
    let k := (wdKick v false x).wd
    let bite (early : Bool) : Prop := k.t = 0 ∧ k.bite1 = true ∧ k.ready = true ∧
      k.second = x.wd.bite1 ∧ k.early = (x.wd.early || early) ∧ k.late = (x.wd.late || !early)
    (x.wd.en = true → wdCtl v x = x) ∧
    (x.wd.en = false → w.opn = opn ∧ w.close = close ∧
      (v.getLsbD 0 = false → w.en = false ∧ w.cfgerr = x.wd.cfgerr) ∧
      (v.getLsbD 0 = true → opn < close → w.en = true ∧ w.t = 0) ∧
      (v.getLsbD 0 = true → close ≤ opn → w.en = false ∧ w.cfgerr = true)) ∧
    (v.extractLsb' 0 16 ≠ 0x4B1C → k = { x.wd with badkey := true }) ∧
    (v.extractLsb' 0 16 = 0x4B1C → wdKick v true x = x) ∧
    (v.extractLsb' 0 16 = 0x4B1C → x.wd.en = true → x.dbg.halted = false →
      (x.wd.opn ≤ x.wd.t → x.wd.t < x.wd.close → k.t = 0 ∧ k.bite1 = false ∧ k.early = x.wd.early ∧
        k.late = x.wd.late) ∧
      (x.wd.t < x.wd.opn → bite true) ∧
      (x.wd.opn ≤ x.wd.t → x.wd.close ≤ x.wd.t → bite false))

/-- O34. Ready: SETVL completes with VL and gd the smaller of gs and VLMAX of the class (16777215, 8192
    G, 1024 G, 512 G, 256 G, 128 G, 64 G); VBARRIER with no VSU work completes; CHRESUME completes
    with its status in gd, 1 when the engine is a member of no chain, 2 when its chain aborted it, 0
    when its chain is frozen, else 1; VQCNT completes with the frozen bit, the end-of-packet bit and
    the number of strips of its queue in gd. (R287, R351, R352, R353, R354) -/
def Obligations.VectorControlResults : Prop :=
  ∀ (e : Eng) (rd ra : Reg) (cls : BitVec 3) (n : BitVec 2) (s : State),
    let s0 := fetched e s
    let x := found e s
    let g := 2 ^ x.vec.gs.toNat
    let cap := [16777215, 8192 * g, 1024 * g, 512 * g, 256 * g, 128 * g, 64 * g].getD cls.toNat 0
    let vl := min (x.reg ra).toNat cap
    (ready e (setvlInst e rd ra cls) s = true → cls ≠ 7 ∧ exec (.setvl e rd ra cls) s =
      .next (committed e (setvlInst e rd ra cls) .next (s0.modEng e fun y =>
        ({ y with vec := { y.vec with vl := BitVec.ofNat 24 vl } }).setReg rd (BitVec.ofNat 64 vl)))) ∧
    (ready e (vbarrierInst e) s = true → vsuBusy x = false →
      exec (.vbarrier e) s = .next (committed e (vbarrierInst e) .next s0)) ∧
    (ready e (chresumeInst e rd) s = true → ∃ (st : Word) (s1 : State), chresume e s0 = (st, s1) ∧
      exec (.chresume e rd) s = .next (committed e (chresumeInst e rd) .next
        (s1.modEng e fun y => y.setReg rd st)) ∧
      ((lengOf s0 e).bind (chainOf s0) = none → st = 1 ∧ s1 = s0) ∧
      (∀ l c : Nat, lengOf s0 e = some l → chainOf s0 l = some c →
        (l ∈ (chainSt s0 c).aborted → st = 2) ∧
        (l ∉ (chainSt s0 c).aborted → (chainSt s0 c).frozen = true → st = 0) ∧
        (l ∉ (chainSt s0 c).aborted → (chainSt s0 c).frozen = false → st = 1))) ∧
    (ready e (vqcntInst e rd n) s = true → ∃ w : Word, exec (.vqcnt e rd n) s =
      .next (committed e (vqcntInst e rd n) .next (s0.modEng e fun y => y.setReg rd w)) ∧
      w.getLsbD 5 = queueFrozen s0 e ∧
      w.getLsbD 4 = (((s0.eng e).cq.toList.getD n.toNat {}).strips.any fun t => t.eop) ∧
      w.extractLsb' 0 4 = BitVec.ofNat 4 ((s0.eng e).cq.toList.getD n.toNat {}).strips.length)

/-- O35. For every streaming instruction of Tables 7.5 to 7.14 whose word spells an operation, ready,
    with no group open, no held work and the checks of R292 and R318 passed: with C = 0, room in the
    issue queue and no frozen chain that holds it back, it completes, and the queue of the VSU gains
    one group of one member, the word and its operands as captured at commit, with VL, the group
    size, FCTL, DCTL, EC_MODE and the ring as they stand, starting at VPROG, which becomes 0; with C
    = 1 outside a delay slot it completes as a member of a group that waits for its last member, and
    nothing is committed. No general register and no byte of memory changes. (R270, R271, R290,
    R291, R292, R318) -/
def Obligations.VectorInstructionsCommit : Prop :=
  ∀ (e : Eng) (o : VR) (p : VT),
    ∀ q ∈ ([(Instr.vfadd e o, wordVR 0x31 o.c o.m o.d o.a o.b o.t 0x00),
        (Instr.vfsub e o, wordVR 0x31 o.c o.m o.d o.a o.b o.t 0x01),
        (Instr.vfmul e o, wordVR 0x31 o.c o.m o.d o.a o.b o.t 0x02),
        (Instr.vfmin e o, wordVR 0x31 o.c o.m o.d o.a o.b o.t 0x03),
        (Instr.vfmax e o, wordVR 0x31 o.c o.m o.d o.a o.b o.t 0x04),
        (Instr.vfabs e o, wordVR 0x31 o.c o.m o.d o.a o.b o.t 0x05),
        (Instr.vfneg e o, wordVR 0x31 o.c o.m o.d o.a o.b o.t 0x06),
        (Instr.vfeq e o, wordVR 0x31 o.c o.m o.d o.a o.b o.t 0x07),
        (Instr.vflt e o, wordVR 0x31 o.c o.m o.d o.a o.b o.t 0x08),
        (Instr.vfle e o, wordVR 0x31 o.c o.m o.d o.a o.b o.t 0x09),
        (Instr.vfun e o, wordVR 0x31 o.c o.m o.d o.a o.b o.t 0x0A),
        (Instr.vcvt e o, wordVR 0x31 o.c o.m o.d o.a o.b o.t 0x10),
        (Instr.vcvtz e o, wordVR 0x31 o.c o.m o.d o.a o.b o.t 0x11),
        (Instr.vfma e p, wordVT 0x32 p.c p.m p.d p.a p.b p.x 0 p.t),
        (Instr.vfms e p, wordVT 0x32 p.c p.m p.d p.a p.b p.x 1 p.t),
        (Instr.vfnma e p, wordVT 0x32 p.c p.m p.d p.a p.b p.x 2 p.t),
        (Instr.vfnms e p, wordVT 0x32 p.c p.m p.d p.a p.b p.x 3 p.t),
        (Instr.vadd e o, wordVR 0x33 o.c o.m o.d o.a o.b o.t 0x00),
        (Instr.vsub e o, wordVR 0x33 o.c o.m o.d o.a o.b o.t 0x01),
        (Instr.vmul e o, wordVR 0x33 o.c o.m o.d o.a o.b o.t 0x02),
        (Instr.vmulh e o, wordVR 0x33 o.c o.m o.d o.a o.b o.t 0x03),
        (Instr.vand e o, wordVR 0x33 o.c o.m o.d o.a o.b o.t 0x04),
        (Instr.vor e o, wordVR 0x33 o.c o.m o.d o.a o.b o.t 0x05),
        (Instr.vxor e o, wordVR 0x33 o.c o.m o.d o.a o.b o.t 0x06),
        (Instr.vandn e o, wordVR 0x33 o.c o.m o.d o.a o.b o.t 0x07),
        (Instr.vshl e o, wordVR 0x33 o.c o.m o.d o.a o.b o.t 0x08),
        (Instr.vshr e o, wordVR 0x33 o.c o.m o.d o.a o.b o.t 0x09),
        (Instr.vmin e o, wordVR 0x33 o.c o.m o.d o.a o.b o.t 0x0A),
        (Instr.vmax e o, wordVR 0x33 o.c o.m o.d o.a o.b o.t 0x0B),
        (Instr.vceq e o, wordVR 0x33 o.c o.m o.d o.a o.b o.t 0x0C),
        (Instr.vclt e o, wordVR 0x33 o.c o.m o.d o.a o.b o.t 0x0D),
        (Instr.vadds e o, wordVR 0x33 o.c o.m o.d o.a o.b o.t 0x0E),
        (Instr.vsubs e o, wordVR 0x33 o.c o.m o.d o.a o.b o.t 0x0F),
        (Instr.vpopc e o, wordVR 0x33 o.c o.m o.d o.a o.b o.t 0x10),
        (Instr.vclz e o, wordVR 0x33 o.c o.m o.d o.a o.b o.t 0x11),
        (Instr.vcvti e o, wordVR 0x33 o.c o.m o.d o.a o.b o.t 0x12),
        (Instr.vmac e p, wordVT 0x34 p.c p.m p.d p.a p.b p.x 0 p.t),
        (Instr.vdot4 e p, wordVT 0x34 p.c p.m p.d p.a p.b p.x 1 p.t),
        (Instr.vdadd e o, wordVR 0x35 o.c o.m o.d o.a o.b o.t 0x00),
        (Instr.vdsub e o, wordVR 0x35 o.c o.m o.d o.a o.b o.t 0x01),
        (Instr.vdmul e o, wordVR 0x35 o.c o.m o.d o.a o.b o.t 0x02),
        (Instr.vdrescale e o, wordVR 0x35 o.c o.m o.d o.a o.b o.t 0x03),
        (Instr.vdcmpEq e o, wordVR 0x35 o.c o.m o.d o.a o.b o.t 0x04),
        (Instr.vdcmpLt e o, wordVR 0x35 o.c o.m o.d o.a o.b o.t 0x05),
        (Instr.vdcmpLe e o, wordVR 0x35 o.c o.m o.d o.a o.b o.t 0x06),
        (Instr.vdcvt e o, wordVR 0x35 o.c o.m o.d o.a o.b o.t 0x08),
        (Instr.vdrsum e o, wordVR 0x35 o.c o.m o.d o.a o.b o.t 0x0C),
        (Instr.vfdstart e p, wordVT 0x36 p.c p.m p.d p.a p.b p.x 0 p.t),
        (Instr.vfdstep e p, wordVT 0x36 p.c p.m p.d p.a p.b p.x 1 p.t),
        (Instr.vfdend e p, wordVT 0x36 p.c p.m p.d p.a p.b p.x 2 p.t),
        (Instr.vfsstart e p, wordVT 0x36 p.c p.m p.d p.a p.b p.x 3 p.t),
        (Instr.vfsstep e p, wordVT 0x36 p.c p.m p.d p.a p.b p.x 4 p.t),
        (Instr.vfsend e p, wordVT 0x36 p.c p.m p.d p.a p.b p.x 5 p.t),
        (Instr.vidstart e p, wordVT 0x36 p.c p.m p.d p.a p.b p.x 6 p.t),
        (Instr.vidstep e p, wordVT 0x36 p.c p.m p.d p.a p.b p.x 7 p.t),
        (Instr.vidend e p, wordVT 0x36 p.c p.m p.d p.a p.b p.x 8 p.t),
        (Instr.vidrem e p, wordVT 0x36 p.c p.m p.d p.a p.b p.x 9 p.t),
        (Instr.vddstart e p, wordVT 0x36 p.c p.m p.d p.a p.b p.x 10 p.t),
        (Instr.vddstep e p, wordVT 0x36 p.c p.m p.d p.a p.b p.x 11 p.t),
        (Instr.vddend e p, wordVT 0x36 p.c p.m p.d p.a p.b p.x 12 p.t),
        (Instr.vmov e o, wordVR 0x37 o.c o.m o.d o.a o.b o.t 0x00),
        (Instr.viota e o, wordVR 0x37 o.c o.m o.d o.a o.b o.t 0x01),
        (Instr.vcompress e o, wordVR 0x37 o.c o.m o.d o.a o.b o.t 0x02),
        (Instr.vexpand e o, wordVR 0x37 o.c o.m o.d o.a o.b o.t 0x03),
        (Instr.vrsum e o, wordVR 0x37 o.c o.m o.d o.a o.b o.t 0x10),
        (Instr.vrmin e o, wordVR 0x37 o.c o.m o.d o.a o.b o.t 0x11),
        (Instr.vrmax e o, wordVR 0x37 o.c o.m o.d o.a o.b o.t 0x12),
        (Instr.vrand e o, wordVR 0x37 o.c o.m o.d o.a o.b o.t 0x13),
        (Instr.vrior e o, wordVR 0x37 o.c o.m o.d o.a o.b o.t 0x14),
        (Instr.vrxor e o, wordVR 0x37 o.c o.m o.d o.a o.b o.t 0x15),
        (Instr.vrpopc e o, wordVR 0x37 o.c o.m o.d o.a o.b o.t 0x16)] :
          List (Instr × BitVec 32)),
      ∀ (s : State) (op : VOp), ready e (streamInst e q.2) s = true → vopOfWord q.2 = some op →
      let s0 := fetched e s
      let x := found e s
      let m := captureMember x q.2 (ea48 x.pc) op
      let g : VGroup :=
        { members := [m], strip := stripLen [(m, op)], vl := x.vec.vl.toNat, gs := x.vec.gs, fctl := x.fctl,
          dctl := x.dctl, mode := x.mode, ring := x.rights, start := x.vec.vprog.toNat,
          prog := x.vec.vprog.toNat, first := x.vec.vprog.toNat }
      x.vec.gpend = [] → x.trap.vheld = false → x.vec.stopped = false → x.dbg.step = false →
      (vC q.2 = false → groupFault (groupEnv s0 e) none 0 0 [] [(m, op)] = none →
        (x.vec.q = [] ∨ queued x < 8) → commitHeld s0 e = false →
        ∃ t : State, exec q.1 s = .next t ∧ (t.eng e).vec.q = x.vec.q ++ [g] ∧
          (t.eng e).vec.vprog = 0 ∧ (t.eng e).g = x.g ∧ SameMemory s0 t) ∧
      (vC q.2 = true → x.slot = none → ∃ t : State, exec q.1 s = .next t ∧
        (t.eng e).vec.gpend = [(q.2, ea48 x.pc)] ∧ (t.eng e).vec.q = x.vec.q ∧
        (t.eng e).g = x.g ∧ SameMemory s0 t)

/-- O36. With the VSU on, no held work, and no halt, quiesce or freeze: a group whose elements are all
    done, and which has no output packet to end, completes and leaves the queue; a group with
    elements left advances by the elements up to the end of the strip of its next element, when all
    of them commit; where its last element is not among them what its streams have gathered for a
    sector of the host or of a remote device leaves, and where it is, the group completes and leaves
    the queue. Neither changes a byte of memory after the elements. With a halt, a quiesce or a
    freeze, a group that stands where it may stop stops there, and one that has stopped stays; after
    the end of its job a group that stands where it may stop is dropped with the other work of its
    engine. An engine whose VSU is not on, or has no group, is unchanged (log entry 9). (R293, R324,
    R310, R306, R68) -/
def Obligations.VsuAdvancesStrips : Prop :=
  ∀ (e : Eng) (s s1 : State) (g : VGroup) (gs : List VGroup),
    (vsuReady (s.eng e) = false → exec (.vsuStrip e) s = .next s) ∧
    (vsuReady (s.eng e) = true → stopCause s e = true →
      ((s.eng e).vec.stopped = true → exec (.vsuStrip e) s = .next s) ∧
      ((s.eng e).vec.stopped = false → (s.eng e).run ≠ .stopping → canStop (s.eng e) = true →
        exec (.vsuStrip e) s = .next (groupStops e s))) ∧
    (vsuReady (s.eng e) = true → stopCause s e = false → (s.eng e).run = .stopping →
      canStop (s.eng e) = true → exec (.vsuStrip e) s = .next (haltWork e s)) ∧
    ((s.eng e).vec.q = g :: gs → vsuReady (s.eng e) = true → stopCause s e = false →
      (s.eng e).run ≠ .stopping →
      let s0 := continueGroup e s
      let stop := min g.vl ((g.prog / g.strip + 1) * g.strip)
      (g.vl ≤ g.prog → openOutputs s0 e g = [] → ∃ t : State, exec (.vsuStrip e) s = .next t ∧
        (t.eng e).vec.q = gs ∧ SameMemory s t) ∧
      (g.prog < g.vl → (runElements e stop (stop - g.prog)).run s0 = .ok () s1 →
        stopCause s1 e = false → ∀ h : VGroup, (s1.eng e).vec.q = h :: gs →
        (h.prog ≠ g.vl → h.far = [] → exec (.vsuStrip e) s = .next s1) ∧
        (h.prog ≠ g.vl → ∃ t : State, exec (.vsuStrip e) s = .next t ∧ SameMemory s1 t ∧
          ((s1.eng e).dbg.feed = false → (t.eng e).vec.q = { h with far := [] } :: gs)) ∧
        (h.prog = g.vl → ∃ t : State,
          exec (.vsuStrip e) s = .next t ∧ (t.eng e).vec.q = gs ∧ SameMemory s1 t)))

/-- The element function of a streaming word. -/
def elemOf (w : BitVec 32) : Option (VEnv → Nat → Nat → Nat → ERes) :=
  match vopOfWord w with
  | some ⟨_, _, _, _, _, .elem f⟩ => some f
  | _ => none

/-- A streaming word computes, without a flag, a function of its source elements. -/
def Computes (w : BitVec 32) (f : Nat → Nat → Nat → Nat) (dom : Nat → Nat → Nat → Prop) : Prop :=
  ∃ g, elemOf w = some g ∧ ∀ (v : VEnv) (a b c : Nat), dom a b c →
    (g v a b c).val = f a b c ∧ (g v a b c).flags = 0

/-- O37. For every type code 0 to 7, of width w and signedness, and source elements below 2^w: sums,
    differences and products modulo 2^w, the high half of the product, bitwise logic, shifts by b
    mod w (arithmetic for signed types), minima, maxima and comparisons by the signedness, saturated
    sums and differences, the count of one bits and of leading zero bits, the width conversion, and
    for opcode 0x34 a x b + c modulo 2^w and the four byte products added to c; none sets a flag.
    (R330, R331, R332) -/
def Obligations.VectorIntegerElements : Prop :=
  ∀ (o : VR) (p : VT), o.t.toNat < 8 →
    let w := 8 * 2 ^ (o.t.toNat % 4)
    let val (n : Nat) : Int := if o.t.toNat < 4 ∧ 2 ^ (w - 1) ≤ n then (n : Int) - 2 ^ w else n
    let cut (z : Int) : Nat := (z % 2 ^ w).toNat
    let lo : Int := if o.t.toNat < 4 then -2 ^ (w - 1) else 0
    let hi : Int := if o.t.toNat < 4 then 2 ^ (w - 1) - 1 else 2 ^ w - 1
    let clamp (z : Int) : Nat := cut (max lo (min hi z))
    let fits (a b _ : Nat) : Prop := a < 2 ^ w ∧ b < 2 ^ w
    let word (fn : BitVec 6) : BitVec 32 := wordVR 0x33 o.c o.m o.d o.a o.b o.t fn
    let wordT (fn : BitVec 4) (t : BitVec 2) : BitVec 32 := wordVT 0x34 p.c p.m p.d p.a p.b p.x fn t
    (∀ q ∈ ([(0x00, fun a b => cut (val a + val b)), (0x01, fun a b => cut (val a - val b)),
        (0x02, fun a b => cut (val a * val b)), (0x03, fun a b => cut (val a * val b / 2 ^ w)),
        (0x04, fun a b => a &&& b), (0x05, fun a b => a ||| b), (0x06, fun a b => a ^^^ b),
        (0x07, fun a b => a &&& (2 ^ w - 1 - b)), (0x08, fun a b => a * 2 ^ (b % w) % 2 ^ w),
        (0x09, fun a b => cut (val a / 2 ^ (b % w))),
        (0x0A, fun a b => if val b < val a then b else a),
        (0x0B, fun a b => if val a < val b then b else a),
        (0x0C, fun a b => if a = b then 1 else 0), (0x0D, fun a b => if val a < val b then 1 else 0),
        (0x0E, fun a b => clamp (val a + val b)), (0x0F, fun a b => clamp (val a - val b))] :
          List (BitVec 6 × (Nat → Nat → Nat))),
      Computes (word q.1) (fun a b _ => q.2 a b) fits) ∧
    Computes (word 0x10) (fun a _ _ => ((List.range w).filter fun i => a.testBit i).length) fits ∧
    (∃ f : Nat → Nat, Computes (word 0x11) (fun a _ _ => f a) fits ∧
      ∀ a < 2 ^ w, f a ≤ w ∧ a < 2 ^ (w - f a) ∧ (f a < w → 2 ^ (w - f a - 1) ≤ a)) ∧
    (o.b.toNat < 8 → Computes (word 0x12)
      (fun a _ _ => cut (if o.b.toNat < 4 ∧ 2 ^ (8 * 2 ^ (o.b.toNat % 4) - 1) ≤ a
        then (a : Int) - 2 ^ (8 * 2 ^ (o.b.toNat % 4)) else a))
      fun a _ _ => a < 2 ^ (8 * 2 ^ (o.b.toNat % 4))) ∧
    Computes (wordT 0 0) (fun a b c => (a * b + c) % 2 ^ 32) (fun _ _ _ => True) ∧
    Computes (wordT 0 1) (fun a b c => (a * b + c) % 2 ^ 64) (fun _ _ _ => True) ∧
    Computes (wordT 1 1) (fun a b c => (a % 256 * (b % 256) + a / 2 ^ 8 % 256 * (b / 2 ^ 8 % 256) +
      a / 2 ^ 16 % 256 * (b / 2 ^ 16 % 256) + a / 2 ^ 24 % 256 * (b / 2 ^ 24 % 256) + c) % 2 ^ 32)
      (fun _ _ _ => True)

/-- O38. In both formats, for VFADD to VFUN, the conversions between the formats and to integers rounded
    toward zero, and the fused forms: where the scalar operation of the same elements under the
    captured FCTL delivers a value and flags, the element has that value and those flags; where the
    scalar operation raises DENORM, the element sets the DENORM flag alone and has the value of DN =
    0. (R325, R327, R328, R329, R309, R361) -/
def Obligations.VectorFloatElements : Prop :=
  ∀ (o : VR) (p : VT) (f : FFmt), (o.t = 8 ∧ p.t = 0 ∧ f = f32) ∨ (o.t = 9 ∧ p.t = 1 ∧ f = f64) →
    let word (fn : BitVec 6) : BitVec 32 := wordVR 0x31 o.c o.m o.d o.a o.b o.t fn
    let wordT (fn : BitVec 4) : BitVec 32 := wordVT 0x32 p.c p.m p.d p.a p.b p.x fn p.t
    let g := if f = f64 then f32 else f64
    ∀ q ∈ ([(word 0x00, fun v a b _ => fadd f v a b), (word 0x01, fun v a b _ => fsub f v a b),
        (word 0x02, fun v a b _ => fmul f v a b), (word 0x03, fun v a b _ => fmin f v a b),
        (word 0x04, fun v a b _ => fmax f v a b), (word 0x05, fun v a _ _ => fabs f v a),
        (word 0x06, fun v a _ _ => fneg f v a), (word 0x07, fun v a b _ => feq f v a b),
        (word 0x08, fun v a b _ => flt f v a b), (word 0x09, fun v a b _ => fle f v a b),
        (word 0x0A, fun v a b _ => fun' f v a b),
        (wordVR 0x31 o.c o.m o.d o.a (if f = f64 then 8 else 9) o.t 0x10, fun v a _ _ => fcvt g f v a),
        (wordVR 0x31 o.c o.m o.d o.a o.t 3 0x11, fun v a _ _ => ftoint f v 1 true 64 a),
        (wordT 0, fun v a b c => ffma false false f v a b c),
        (wordT 1, fun v a b c => ffma false true f v a b c),
        (wordT 2, fun v a b c => ffma true false f v a b c),
        (wordT 3, fun v a b c => ffma true true f v a b c)] :
          List (BitVec 32 × (Word → Nat → Nat → Nat → FRes))),
      ∃ h, elemOf q.1 = some h ∧ ∀ (v : VEnv) (a b c : Nat),
        (∀ (n : Nat) (fl : BitVec 5), q.2 v.fctl a b c = .val n fl →
          (h v a b c).val = n ∧ (h v a b c).flags = fl.zeroExtend 9) ∧
        (q.2 v.fctl a b c = .denorm → (h v a b c).flags = 0x20 ∧
          ∀ (n : Nat) (fl : BitVec 5), q.2 (v.fctl &&& ~~~0x10) a b c = .val n fl →
            (h v a b c).val = n)

/-- O39. For P15 and P31 elements that are valid, at scales for which the result needs no rounding and
    fits: VDADD and VDSUB at one common scale the sum and difference, VDMUL to W62 at the sum of the
    scales the product, VDRESCALE to a greater scale the value times the power of ten, VDCVT from a
    64-bit integer to scale 0 the integer, the comparisons at one common scale 1 or 0, and VDRSUM
    the sum of its elements and its initial value; no flag is set. An invalid digit or sign in a
    source of VDADD, VDSUB, VDMUL or a comparison sets DDATA alone and gives zero. (R326, R333,
    R334, R335, R336, R337, R338) -/
def Obligations.VectorDecimalElements : Prop :=
  ∀ (o : VR) (n : Nat) (ty : ETy), (o.t = 10 ∧ n = 15 ∧ ty = .p15) ∨ (o.t = 11 ∧ n = 31 ∧ ty = .p31) →
    let word (fn : BitVec 6) : BitVec 32 := wordVR 0x35 o.c o.m o.d o.a o.b o.t fn
    let exact (w : BitVec 32) (d : ETy) (scales : VEnv → Prop) (f : VEnv → Int → Int → Int)
        (lim : Nat) : Prop :=
      ∃ g, elemOf w = some g ∧ ∀ (v : VEnv) (a b c : Nat) (x y : Int), readDec ty a = some x →
        readDec ty b = some y → scales v → (f v x y).natAbs < 10 ^ lim →
        readDec d (g v a b c).val = some (f v x y) ∧ (g v a b c).flags = 0
    let same (v : VEnv) : Prop := v.sa = v.sd ∧ v.sb = v.sd
    let bad (w : BitVec 32) (d : ETy) : Prop :=
      ∃ g, elemOf w = some g ∧ ∀ (v : VEnv) (a b c : Nat), (readDec ty a = none ∨ readDec ty b = none) →
        (g v a b c).val = d.zero ∧ (g v a b c).flags = 0x80
    let compares (w : BitVec 32) (r : Int → Int → Bool) : Prop :=
      ∃ g, elemOf w = some g ∧ ∀ (v : VEnv) (a b c : Nat) (x y : Int), readDec ty a = some x →
        readDec ty b = some y → v.sa = v.sb →
        (g v a b c).val = (if r x y then 1 else 0) ∧ (g v a b c).flags = 0
    exact (word 0x00) ty same (fun _ x y => x + y) n ∧ exact (word 0x01) ty same (fun _ x y => x - y) n ∧
    exact (word 0x02) .w62 (fun v => v.sd = v.sa + v.sb) (fun _ x y => x * y) 62 ∧
    exact (wordVR 0x35 o.c o.m o.d o.a o.t o.t 0x03) ty (fun v => v.sa ≤ v.sd)
      (fun v x _ => x * 10 ^ (v.sd - v.sa)) n ∧
    compares (word 0x04) (fun x y => x == y) ∧ compares (word 0x05) (fun x y => decide (x < y)) ∧
    compares (word 0x06) (fun x y => decide (x ≤ y)) ∧
    bad (word 0x00) ty ∧ bad (word 0x01) ty ∧ bad (word 0x02) .w62 ∧ bad (word 0x04) .bit ∧ bad (word 0x05) .bit ∧ bad (word 0x06) .bit ∧
    (∃ g, elemOf (wordVR 0x35 o.c o.m o.d o.a 3 o.t 0x08) = some g ∧ ∀ (v : VEnv) (a b c : Nat),
      v.sd = 0 → (BitVec.ofNat 64 a).toInt.natAbs < 10 ^ n →
      readDec ty (g v a b c).val = some (BitVec.ofNat 64 a).toInt ∧ (g v a b c).flags = 0) ∧
    (∃ (r : VRed) (op : VOp), vopOfWord (word 0x0C) = some op ∧ op.kind = .reduce r ∧
      ∀ (v : VEnv) (b : Nat) (y : Int) (as : List (Nat × Int)), same v → readDec ty b = some y →
        (∀ p ∈ as, readDec ty p.1 = some p.2) → (y + (as.map Prod.snd).sum).natAbs < 10 ^ n →
        readDec ty (r.finish v (as.foldl (fun acc p => (r.step v acc p.1).1) (r.start v b).1)).val =
          some (y + (as.map Prod.snd).sum) ∧
        (r.start v b).2 = 0 ∧ (∀ p ∈ as, ∀ acc : List Int, (r.step v acc p.1).2 = 0) ∧
        (r.finish v (as.foldl (fun acc p => (r.step v acc p.1).1) (r.start v b).1)).flags = 0)

/-- O40. VIDSTART, then VIDSTEP of 16 steps twice, then VIDEND and VIDREM give the quotient rounded
    toward zero and the remainder of two 64-bit elements, signed and unsigned, for a divisor other
    than 0. VFDSTART, VFDSTEP, VFDEND, VFSSTART, VFSSTEP and VFSEND apply the scalar start, count +
    1 steps, and the rounded end to the record, in both formats. VDDSTART of valid P31 elements
    makes the record of the digits of the dividend, VDDSTEP applies count + 1 digit steps, and
    VDDEND of a zero divisor gives the largest magnitude with the sign of the dividend and DOVF.
    (R339, R342, R377, R378, R380, R381, R201) -/
def Obligations.VectorStepElements : Prop :=
  ∀ (p : VT) (x : BitVec 4),
    let el (fn : BitVec 4) (x : BitVec 4) (t : BitVec 2) :=
      elemOf (wordVT 0x36 p.c p.m p.d p.a p.b x fn t)
    (∀ sg : Bool, let t : BitVec 2 := if sg then 0 else 1
      ∃ st sp en re, el 6 0 t = some st ∧ el 7 15 t = some sp ∧ el 8 0 t = some en ∧ el 9 0 t = some re ∧
        ∀ (v : VEnv) (a b c : Nat), a < 2 ^ 64 → b < 2 ^ 64 → b ≠ 0 →
        let r := (sp v (sp v (st v a 0 0).val b c).val b c).val
        let i (n : Nat) : Int := if sg then (BitVec.ofNat 64 n).toInt else n
        BitVec.ofNat 64 (en v r a b).val = BitVec.ofInt 64 ((i a).tdiv (i b)) ∧
        BitVec.ofNat 64 (re v r a b).val = BitVec.ofInt 64 ((i a).tmod (i b))) ∧
    (∀ d : Bool, let t : BitVec 2 := if d then 1 else 0
      let F := fmtOf d
      let lo (n : Nat) : Word := BitVec.ofNat 64 n
      let hi (n : Nat) : Word := BitVec.ofNat 64 (n / 2 ^ 64)
      ∃ fds fdp fde fss fsp fse, el 0 0 t = some fds ∧ el 1 x t = some fdp ∧ el 2 0 t = some fde ∧
        el 3 0 t = some fss ∧ el 4 x t = some fsp ∧ el 5 0 t = some fse ∧
        ∀ (v : VEnv) (r a b c : Nat) (y z : FVal), F.operand (dnOf v.fctl) a = some y →
          F.operand (dnOf v.fctl) b = some z →
          let k := x.toNat + 1
          let dp := Nat.repeat (fun q => divStep z.sig q.1 q.2) k (lo r, hi r)
          let sp := Nat.repeat (fun q => F.rootStep q.1 q.2) k (lo r, hi r)
          lo (fds v a b c).val = BitVec.ofNat 64 y.sig ∧ hi (fds v a b c).val = 0 ∧
          (lo (fdp v r b c).val, hi (fdp v r b c).val) = dp ∧
          lo (fss v a b c).val = F.rootStart y ∧ hi (fss v a b c).val = 0 ∧
          (lo (fsp v r b c).val, hi (fsp v r b c).val) = sp ∧
          (∀ (n : Nat) (fl : BitVec 5),
            F.divEnd (rmOf v.fctl) (dnOf v.fctl) y z (lo r) (hi r) = .val n fl →
            (fde v r a b).val = n ∧ (fde v r a b).flags = fl.zeroExtend 9) ∧
          ∀ (n : Nat) (fl : BitVec 5),
            F.rootEnd (rmOf v.fctl) (dnOf v.fctl) y (lo r) (hi r) = .val n fl →
            (fse v r a c).val = n ∧ (fse v r a c).flags = fl.zeroExtend 9) ∧
    ∃ ds dp de, el 10 0 0 = some ds ∧ el 11 x 0 = some dp ∧ el 12 0 0 = some de ∧
      ∀ (v : VEnv) (r a b c : Nat) (y z : Int), readDec .p31 a = some y → readDec .p31 b = some z →
        DecRec.ofNat (ds v a b c).val = ⟨0, 0, 0, 0, false, toDigits 31 y.natAbs⟩ ∧
        (dp v r b c).val = (Nat.repeat (DecRec.step z.natAbs) (x.toNat + 1) (DecRec.ofNat r)).toNat ∧
        (z = 0 → readDec .p31 (de v r a b).val =
          some (if y < 0 then -(10 ^ 31 - 1) else 10 ^ 31 - 1) ∧ (de v r a b).flags = 0x40)

/-- O41. VMOV of every type delivers its element bit for bit; VIOTA adds the element index modulo 2^w;
    VCOMPRESS and VEXPAND, of every type but BIT and without an index stream, count the active
    elements below element i: VCOMPRESS writes its active element i as the element of sdD that the
    count numbers, and nothing for an inactive one; VEXPAND writes the element of sdA that the count
    numbers as element i; the count goes up by 1 at an active element and stays at an inactive one;
    over a list of elements of a type of width w and an initial value, VRSUM delivers the sum modulo
    2^w, VRMIN and VRMAX the smallest and the largest by the signedness, VRAND, VRIOR and VRXOR the
    bitwise combination, and VRPOPC adds the number of 1 elements of a BIT stream modulo 2^64.
    (R343, R344, R345, R346, R347) -/
def Obligations.VectorMovesAndReductions : Prop :=
  ∀ (o : VR),
    let word (fn : BitVec 6) : BitVec 32 := wordVR 0x37 o.c o.m o.d o.a o.b o.t fn
    let w := 8 * 2 ^ (o.t.toNat % 4)
    let val (n : Nat) : Int := if o.t.toNat < 4 ∧ 2 ^ (w - 1) ≤ n then (n : Int) - 2 ^ w else n
    let folds (fn : BitVec 6) (wd : Nat) (f : Nat → List Nat → Nat) : Prop :=
      ∃ (op : VOp) (r : VRed), vopOfWord (word fn) = some op ∧ op.kind = .reduce r ∧
        ∀ (v : VEnv) (b : Nat) (as : List Nat), b < 2 ^ wd → (∀ a ∈ as, a < 2 ^ w) →
          (r.finish v (as.foldl (fun acc a => (r.step v acc a).1) (r.start v b).1)).val = f b as
    (o.t.toNat < 14 → Computes (word 0x00) (fun a _ _ => a) fun _ _ _ => True) ∧
    (o.t.toNat < 8 →
      (∃ g, elemOf (word 0x01) = some g ∧ ∀ (v : VEnv) (a b c : Nat),
        (g v a b c).val = (a + v.i) % 2 ^ w ∧ (g v a b c).flags = 0) ∧
      folds 0x10 w (fun b as => (b + as.sum) % 2 ^ w) ∧
      folds 0x11 w (fun b as => as.foldl (fun m a => if val a < val m then a else m) b) ∧
      folds 0x12 w (fun b as => as.foldl (fun m a => if val m < val a then a else m) b) ∧
      folds 0x13 w (fun b as => as.foldl (· &&& ·) b) ∧
      folds 0x14 w (fun b as => as.foldl (· ||| ·) b) ∧
      folds 0x15 w (fun b as => as.foldl (· ^^^ ·) b)) ∧
    (o.t.toNat < 14 → o.t ≠ 12 → ∃ (p q : VOp) (ty : ETy), vopOfWord (word 0x02) = some p ∧
      p.isCompress = true ∧ vopOfWord (word 0x03) = some q ∧ q.isExpand = true ∧
      tyOf o.t = some ty ∧ p.d = ty ∧ q.d = ty ∧
      ∀ (c : VCtx) (g : VGroup) (m : VMember) (src : VOperand) (i : Nat) (last active : Bool)
        (s s1 : State),
        m.started = true → m.srcs = [src] → src.desc.form.indexed = false →
        m.d.desc.form.indexed = false → (readMask c m i).run s = .ok active s1 →
        (active = true → ∀ (v : Nat) (d : Dest) (s2 s3 : State),
          ((readStream c 1 src ty i 0).run s1 = .ok v s2 →
            (planDest c g m ty m.kept 0 v true false).run s2 = .ok d s3 →
            ∃ (r : Plan) (t : State), (planMember c g m p i last).run s = .ok r t ∧ r.dest = d ∧
              r.m.kept = m.kept + 1) ∧
          ((readStream c 1 src ty m.kept 0).run s1 = .ok v s2 →
            (planDest c g m ty i 0 v false last).run s2 = .ok d s3 →
            ∃ (r : Plan) (t : State), (planMember c g m q i last).run s = .ok r t ∧ r.dest = d ∧
              r.m.kept = m.kept + 1)) ∧
        (active = false → (∀ s2 : State, (skipSource c 1 src ty i).run s1 = .ok () s2 →
            ∃ (r : Plan) (t : State), (planMember c g m p i last).run s = .ok r t ∧ r.dest = .none ∧
              r.m.kept = m.kept) ∧
          ∀ (d : Dest) (a : Word) (s2 : State), (inactiveDest c g m q i last).run s1 = .ok (d, a) s2 →
            ∃ (r : Plan) (t : State), (planMember c g m q i last).run s = .ok r t ∧ r.dest = d ∧
              r.m.kept = m.kept)) ∧
    (o.t = 12 → folds 0x16 64 (fun b as => (b + as.sum) % 2 ^ 64))

/-- O42. VSU_IDLE_EXPIRY gates an idle VSU that VSU_HOLD does not keep on, of an engine that debug has
    not halted (the command stands for the 4,096th idle ECLK, log entry 1, and one out of its
    condition changes nothing, log entry 9), VSU_GATED ends gating in GATED or in the wake that
    waits, VSU_WAKE_DONE ends a wake; nothing else of the engine changes. A waiting strip goes onto
    its wire exactly when every destination runs a job of the same context and has an empty stage;
    the oldest strip on the wire lands behind the strips of every destination queue while both ends
    run jobs of one context and debug freezes no such queue, and else stays on it. STALEMATE does
    nothing while no member is stalled, the chain is stopped, a member is halted or a strip is on
    its way to or from one; with every member stalled or out of play, the stale count of the home
    rank rises, the health log has an entry of code 10, and every stalled member holds a STALE
    event. (R180, R181, R383, R385, R390, R407, R408, R446, R633, R642) -/
def Obligations.VsuAndStripEvents : Prop :=
  ∀ (e : Eng) (s : State),
    let x := s.eng e
    let strips (m q : Nat) : List Strip := ((s.eng m).cq.toList.getD q {}).strips
    (∃ t1 t2 t3 : State, exec (.vsuIdleExpiry e) s = .next t1 ∧ exec (.vsuGated e) s = .next t2 ∧
      exec (.vsuWakeDone e) s = .next t3 ∧
      (∀ t ∈ [t1, t2, t3], OthersKept e s t ∧ SameMemory s t ∧ (t.eng e).vec = x.vec ∧
        (t.eng e).cq = x.cq ∧ (t.eng e).g = x.g ∧ (t.eng e).vsu.wakes = x.vsu.wakes) ∧
      (t1.eng e).vsu.st = (if x.vsu.st = .on ∧ x.mode.getLsbD 4 = false ∧ x.vec.q = [] ∧
        x.vec.gpend = [] ∧ x.dbg.halted = false then .gating else x.vsu.st) ∧
      (t2.eng e).vsu.st = (if x.vsu.st = .gating then (if x.vsu.wakeReq then .waking else .gated)
        else x.vsu.st) ∧
      (t3.eng e).vsu.st = (if x.vsu.st = .waking then .on else x.vsu.st)) ∧
    (∀ (n : Fin 4) (k : Strip) (l d q th : Nat),
      (outOf x n).waiting = some k → lengOf s e = some l → chainStopped s l = false →
      cqFrozen x = false → wireOf s l n = some (.queue d q th) → wireDests s l d ≠ [] →
      ((∀ m ∈ wireDests s l d, sameCtx x (s.eng m) = true ∧ cqFrozen (s.eng m) = false ∧
          (strips m q).length + (outOf x n).wire.length < 8) →
        ∃ t : State, exec (.cqOutputSend e n) s = .next t ∧
          outOf (t.eng e) n = { outOf x n with waiting := none, wire := (outOf x n).wire ++ [k] } ∧
          OthersKept e s t ∧ SameMemory s t ∧ (t.eng e).cq = x.cq ∧ (t.eng e).vec = x.vec) ∧
      ((∃ m ∈ wireDests s l d, sameCtx x (s.eng m) = false ∨
          8 ≤ (strips m q).length + (outOf x n).wire.length) →
        exec (.cqOutputSend e n) s = .next s)) ∧
    (∀ (q : Fin 4) (l f o src : Nat) (k : Strip) (ks : List Strip), lengOf s e = some l →
      feederOf s l q = some (f, o) → engOf s f = some src → (outOf (s.eng src) o).wire = k :: ks →
      (wireDests s f l).Nodup →
      ((∀ m ∈ wireDests s f l, sameCtx (s.eng src) (s.eng m) = true ∧ cqFrozen (s.eng m) = false) →
        ∃ t : State, exec (.cqStripArrive e q) s = .next t ∧ (outOf (t.eng src) o).wire = ks ∧
          (∀ m ∈ wireDests s f l,
            ((t.eng m).cq.toList.getD q {}).strips = strips m q ++ [k]) ∧
          (∀ m : Nat, m ∉ wireDests s f l → m ≠ src → t.eng m = s.eng m) ∧ SameMemory s t) ∧
      ((∃ m ∈ wireDests s f l, sameCtx (s.eng src) (s.eng m) = false ∨ cqFrozen (s.eng m) = true) →
        exec (.cqStripArrive e q) s = .next s)) ∧
    ∀ c : Byte,
      let ms := membersOf s c.toNat
      let stalled := ms.filter (groupStalled s)
      (stalled = [] → exec (.stalemate c) s = .next s) ∧
      ∀ (l : Nat) (ls : List Nat), stalled = l :: ls →
        ((chainStopped s l = true ∨ (∃ m ∈ ms, memberHalted s m = true) ∨
            ∃ m ∈ ms, stripComing s m = true) →
          exec (.stalemate c) s = .next s) ∧
        (chainStopped s l = false → (∀ m ∈ ms, memberHalted s m = false) →
          (∀ m ∈ ms, stripComing s m = false) → (∀ m ∈ ms, m ∈ stalled ∨
            outOfPlay s (((engOf s l).map fun k => (s.eng k).ctx).getD 0) m = true) →
          ∃ t : State, exec (.stalemate c) s = .next t ∧ SameMemory s t ∧
            (t.rank (chainHome s c.toNat)).stale = satInc (s.rank (chainHome s c.toNat)).stale ∧
            (t.nv.health.head?.map HealthEntry.code) = some 10 ∧
            ∀ m ∈ stalled, ∀ k : Nat, engOf s m = some k → ∃ v : VEvent,
              (t.eng k).vec.held = some v ∧ v.ev.code = 0x13 ∧ (t.eng k).trap.vheld = true)

/-- A ring-0 store of an engine to a device register completes, and its next state is the commit of
    that write to the register. -/
def StoresDevice (c : Instr) (e : Eng) (off : Nat) (v : Word) : Prop :=
  let i := storeWordInst e (BitVec.ofNat 64 (0xFFFF40000000 + off)) v
  ∀ s : State, ready e i s = true → (found e s).rights = 0 →
    exec c s = .next (committed e i .next (devWrite (.engine e) off v (fetched e s)))

/-- O43. A ring-0 store of an engine to a device register, a map command, a castle request, a rebuild
    request and TENDER_GO complete with the write to that register, and TENDER_GO on a partner
    square with none. A read of MEM_UE_LOG delivers the log and clears VALID; a read of a coalesce
    register clears its own half. While the steward runs, its writes set the watchdog window, clear
    busy bits written 1, and set REMAP; a kick with the key inside the window returns the count to 0
    and cancels a bite, outside it is a bite, as the expiry is once the count is at CLOSE: the first
    is taken as an exception, the second restarts the core; NV_REFRESH moves to the next block and
    counts a pass at the last. While the link is up the host writes its HDM decoder, whose base and
    size a commit locks. That TENDER_GO goes to the engine own square whatever square it names, and
    that the steward writes while it runs, is log entry 53; the layout of the decoder is log entry
    21; an expiry before its count changes nothing, log entries 1 and 9. (R21, R25, R45, R126, R481,
    R498, R518, R522, R598, R609, R613) -/
def Obligations.RegisterCommands : Prop :=
  ∀ (e : Eng) (s : State),
    StoresDevice (.castle (.engine e)) e 0x1000 1 ∧
    StoresDevice (.rebuildGo (.engine e)) e 0x1050 1 ∧
    (∀ p ∈ [(Instr.write, 1), (.readLive, 2), (.readShadow, 3), (.shoot, 4), (.writeShoot, 5)],
      StoresDevice (p.1 (.engine e)) e 0x1028 (BitVec.ofNat 64 p.2)) ∧
    (∀ (off : Nat) (v : Word), off < 0x1000000 → off % 8 = 0 → StoresDevice
      (.registerWrite (.engine e) (BitVec.ofNat 64 (0xFFFF40000000 + off)) v) e off v) ∧
    (∀ (sq : SqId) (n : Fin 4) (v : Word),
      let i := storeWordInst e (0xFFFF30000118 + BitVec.ofNat 64 (0x40 * n)) (v ||| 1)
      let s0 := fetched e s
      ready e i s = true → (found e s).rights = 0 → exec (.tenderGo (.engine e) sq n v) s =
        .next (committed e i .next
          (if isPartner s0 (e / 9) then s0 else tenderCtl (e / 9) n (v ||| 1) s0))) ∧
    (∀ rd : Reg,
      let i := loadWordInst e 0xFFFF40002018 rd
      let s0 := fetched e s
      let clear (u : State) : State :=
        { u with hub := { u.hub with ueLog := u.hub.ueLog &&& 0x7FFFFFFFFFFFFFFF } }
      (ready e i s = true → (found e s).rights = 0 → exec (.memUeLogRead (.engine e rd)) s =
        .next (committed e i .next ((clear s0).modEng e fun y => y.setReg rd s0.hub.ueLog))) ∧
      (stewardRuns s = true → exec (.memUeLogRead .steward) s = .next (clear s)) ∧
      (debugConsumes s = true → exec (.memUeLogRead .debugMaster) s = .next (clear s)) ∧
      (debugConsumes s = false → exec (.memUeLogRead .debugMaster) s = .next s)) ∧
    (∀ second : Bool, stewardRuns s = true → ∃ t : State, exec (.mgXcoalRead .steward second) s = .next t ∧
      (∀ i : Fin 14, t.mg.xcoal[i] = if decide (8 ≤ i.val) = second then 0 else s.mg.xcoal[i]) ∧
      SameMemory s t ∧ t.engines = s.engines) ∧
    (stewardRuns s = true → ∀ v : Word,
      (∃ t : State, exec (.registerWrite .steward 0x60F00330 v) s = .next t ∧
        t.mg.wdClose = v.extractLsb' 40 24 ∧ t.mg.wdOpen = v.extractLsb' 16 24 ∧ t.mg.wdT = s.mg.wdT) ∧
      (∃ t : State, exec (.registerWrite .steward 0x60F00348 v) s = .next t ∧
        t.mg.mgbusy = s.mg.mgbusy &&& ~~~(v.extractLsb' 0 8) ∧
        t.mg.rkbusy = s.mg.rkbusy &&& ~~~(v.extractLsb' 8 8)) ∧
      exec (.remap v) s = .next { s with mg := { s.mg with remap := v.getLsbD 0 } } ∧
      (v.extractLsb' 0 16 ≠ 0x4B1C → exec (.stewardWatchdogKick v) s = .next s) ∧
      (v.extractLsb' 0 16 = 0x4B1C → s.mg.wdOpen ≤ s.mg.wdT → s.mg.wdT < s.mg.wdClose →
        exec (.stewardWatchdogKick v) s = .next { s with mg := { s.mg with wdT := 0, wdBite := false } }) ∧
      (s.mg.wdT < s.mg.wdClose → exec .stewardWatchdogExpiry s = .next s) ∧
      (∀ k : Instr, ((k = .stewardWatchdogExpiry ∧ s.mg.wdClose ≤ s.mg.wdT) ∨ (k = .stewardWatchdogKick v ∧
          v.extractLsb' 0 16 = 0x4B1C ∧ (s.mg.wdT < s.mg.wdOpen ∨ s.mg.wdClose ≤ s.mg.wdT))) →
        (s.mg.wdBite = false → exec k s =
          .next { s with mg := { s.mg with wdT := 0, wdBite := true, stewardExc := true } }) ∧
        (s.mg.wdBite = true → ∃ t : State, exec k s = .next t ∧ t.mg.restarts = satInc s.mg.restarts ∧
          t.mg.remap = false ∧ t.mg.wdBite = false ∧ t.cmd.busy = none ∧ t.cmd.response = none)) ∧
      (∃ t : State, exec .nvRefresh s = .next t ∧ t.mg.nvBlock = s.mg.nvBlock + 1 ∧
        t.mg.nvPasses = (if s.mg.nvBlock = 4095 then s.mg.nvPasses + 1 else s.mg.nvPasses) ∧
        t.nv.ledger = s.nv.ledger ∧ (s.nv.flaws = [] → s.nv.soft = [] → t.nv = s.nv))) ∧
    (∀ v : Word, s.cxl.up = true → s.cxl.perst = false →
      let becomes (d : HdmDecoder) : Host.Outcome State Fault Refusal := .next { s with cxl := { s.cxl with hdm := d } }
      let d := s.cxl.hdm
      let page := v &&& 0xFFFFFFFFF0000000
      exec (.registerWrite .hostDecoder 0x10 v) s = becomes (if d.committed then d else { d with base := page }) ∧
      exec (.registerWrite .hostDecoder 0x18 v) s = becomes (if d.committed then d else { d with size := page }) ∧
      exec (.registerWrite .hostDecoder 0x20 v) s = becomes { d with committed := v.getLsbD 9 } ∧
      exec (.registerWrite .hostDecoder 0 v) s = becomes { d with on := v.getLsbD 33 })

/-- A byte of a local place: of HBM or of a tile store. -/
def placeByte (s : State) : Place → Nat → Byte
  | .hbm pa, i => s.hbm.get (pa + i)
  | .tile key, i => s.tile.get (key + i)
  | _, _ => 0

/-- Is a place local? -/
def localPlace : Place → Bool
  | .hbm _ => true
  | .tile _ => true
  | _ => false

/-- No error lies in any memory. -/
def noErrors (s : State) : Prop := s.flaws = {} ∧ s.poison = [] ∧ s.hub.unreachable = 0

/-- O44. A write of SQ_TNDn_CTL to a busy channel only sets IGNWR. With GO on an idle channel of a
    square that is no partner: a context outside the partition stops with CODE 6, a length of 0 ends
    with DONE, a range outside the permitted regions stops with CODE 3, and otherwise the channel is
    BUSY with DONE, ERR and CODE clear and its addresses and length kept; IRQEN, IRQENG and CTX are
    those written. TENDER_UNIT does nothing to an idle channel or on a parked, waking or failed
    square, pauses one of a quiescing or frozen square, which then holds no translation, and stops
    one whose context has left the partition with CODE 6. Else, with no error in memory and both
    ends local, it copies the bytes up to the next 64-byte boundary of either address, changes no
    other byte, and moves SRC, DST and LEN by their number; with none left the channel is DONE. An
    unmapped source page stops it with CODE 1. (R44, R45, R46, R47, R48, R49, R57, R98, R104) -/
def Obligations.TenderTransfers : Prop :=
  ∀ (sq : SqId) (n : Fin 4) (s : State),
    let k := tnd s sq n
    (∀ v : Word,
      let t := tenderCtl sq n v s
      let u := tnd t sq n
      (k.busy = true → t = modTnd sq n (fun x => { x with ignwr := true }) s) ∧
      (k.busy = false → u.irqEn = v.getLsbD 24 ∧ u.irqEng = v.extractLsb' 16 3 ∧
        u.ctx = v.extractLsb' 8 8 ∧ u.src = k.src ∧ u.dst = k.dst ∧ u.len = k.len ∧ SameMemory s t ∧
        (v.getLsbD 0 = true → isPartner s sq = false →
          let inPart := ∃ p, sqPart s sq = some p ∧ p.hasCtx (v.extractLsb' 8 8) = true
          let ranges := tenderRange (s.sqr sq) k.src.toNat k.len.toNat = true ∧
            tenderRange (s.sqr sq) k.dst.toNat k.len.toNat = true
          (¬ inPart → u.busy = false ∧ u.err = true ∧ u.code = 6) ∧
          (inPart → k.len = 0 → u.busy = false ∧ u.done = true ∧ u.err = false ∧ u.code = 0) ∧
          (inPart → k.len ≠ 0 → ¬ ranges → u.busy = false ∧ u.err = true ∧ u.code = 3) ∧
          (inPart → k.len ≠ 0 → ranges → u.busy = true ∧ u.done = false ∧ u.err = false ∧
            u.code = 0)))) ∧
    (k.busy = false → exec (.tenderUnit sq n) s = .next s) ∧
    (tenderRuns (s.sqr sq) = false → exec (.tenderUnit sq n) s = .next s) ∧
    (k.busy = true → tenderRuns (s.sqr sq) = true → tenderPaused s sq = true →
      exec (.tenderUnit sq n) s =
        .next (modTnd sq n (fun x => { x with paused := true, page := none }) s)) ∧
    (k.busy = true → tenderRuns (s.sqr sq) = true → tenderPaused s sq = false →
      (∀ p : Partition, sqPart s sq = some p → p.hasCtx k.ctx = false) →
      ∃ t : State, exec (.tenderUnit sq n) s = .next t ∧ (tnd t sq n).busy = false ∧
        (tnd t sq n).err = true ∧ (tnd t sq n).code = 6 ∧ SameMemory s t) ∧
    (k.busy = true → tenderRuns (s.sqr sq) = true → tenderPaused s sq = false →
      (∃ p : Partition, sqPart s sq = some p ∧ p.hasCtx k.ctx = true) → k.len ≠ 0 →
      let s0 := modTnd sq n (fun x => { x with paused := false }) s
      let m := min k.len.toNat (min (64 - k.src.toNat % 64) (64 - k.dst.toNat % 64))
      (∀ s1 : State, tenderPlace sq n true k.src.toNat s0 = (.error (.code 1), s1) →
        ∃ t : State, exec (.tenderUnit sq n) s = .next t ∧ (tnd t sq n).busy = false ∧
          (tnd t sq n).err = true ∧ (tnd t sq n).code = 1 ∧ SameMemory s t) ∧
      ∀ (p d : Place) (s1 s2 : State), tenderPlace sq n true k.src.toNat s0 = (.ok p, s1) →
        tenderPlace sq n false k.dst.toNat s1 = (.ok d, s2) → localPlace p = true → localPlace d = true →
        noErrors s → ∃ t : State, exec (.tenderUnit sq n) s = .next t ∧
          (∀ i < m, placeByte t d i = placeByte s p i) ∧
          (∀ a : Nat, (∀ b : Nat, d = .hbm b → a < b ∨ b + m ≤ a) → t.hbm.get a = s.hbm.get a) ∧
          (∀ a : Nat, (∀ b : Nat, d = .tile b → a < b ∨ b + m ≤ a) → t.tile.get a = s.tile.get a) ∧
          (tnd t sq n).src = k.src + BitVec.ofNat 48 m ∧ (tnd t sq n).dst = k.dst + BitVec.ofNat 48 m ∧
          (tnd t sq n).len = k.len - BitVec.ofNat 32 m ∧
          (k.len.toNat = m → k.outstanding = [] →
            (tnd t sq n).done = true ∧ (tnd t sq n).busy = false) ∧
          (m < k.len.toNat → (tnd t sq n).busy = true ∧ (tnd t sq n).err = k.err))

/-- O45. For every copy of the map command registers: a command while CMD_BUSY is 1 only sets CODE 7;
    MAP_IDX outside the job-space range of the partition only sets CODE 1; a write with a foreign
    context in its entry or in either current entry only CODE 2, one of TGT 0 outside the HBM share
    only CODE 3, one of TGT 3, or of TGT 2 without a tunnel, only CODE 4. Else CODE is 0: a write
    puts MAP_DATA into the live and the shadow entry and no other, a read puts the entry into
    MAP_DATA, a SHOOT sets CMD_BUSY and SHOOT_BUSY; memory and every other copy stay. The host
    writes HMAP_CMD while its BARs answer. The steward, while it runs, commands its own copy, number
    513 (log entries 53 and 67), without these checks. Which copy an engine of a partner square uses
    is log entry 78. What is said of entries is said of map copies with no error in them. (R87, R88,
    R89, R90, R92, R130, R527) -/
def Obligations.MapCommandResults : Prop :=
  (∀ (s : State), barOpen s = true →
    ∀ p ∈ [(Instr.write, 1), (.readLive, 2), (.readShadow, 3), (.shoot, 4), (.writeShoot, 5)],
      exec (p.1 .host) s = .next (mapCommand .host p.2 s)) ∧
  (∀ (s : State), stewardRuns s = true → (s.mapCopy 513).busy = false → noErrors s →
    ∀ p ∈ [(Instr.write, 1), (.readLive, 2), (.readShadow, 3), (.shoot, 4), (.writeShoot, 5)],
      let m := s.mapCopy 513
      let wr := p.2 = 1 ∨ p.2 = 5
      ∃ t : State, exec (p.1 .steward) s = .next t ∧ (t.mapCopy 513).code = 0 ∧
        (t.mapCopy 513).data = (if p.2 = 2 then liveEntry s m.idx.toNat
          else if p.2 = 3 then shadowEntry s m.idx.toNat else m.data) ∧
        ((t.mapCopy 513).busy = true ↔ p.2 = 4 ∨ p.2 = 5) ∧
        (∀ k : Nat, liveEntry t k = if wr ∧ k = m.idx.toNat then m.data else liveEntry s k) ∧
        (∀ k : Nat, shadowEntry t k = if wr ∧ k = m.idx.toNat then m.data else shadowEntry s k)) ∧
  ∀ (p : MapPort) (op n : Nat) (s : State), 1 ≤ op → op ≤ 5 → copyNum s p = some n →
    let m := s.mapCopy n
    let page := m.idx.toNat
    let t := mapCommand p op s
    let fails (k : BitVec 4) : Prop := t = s.modCopy n fun m => { m with code := k }
    let wr := op = 1 ∨ op = 5
    (m.busy = true → fails 7) ∧
    (m.busy = false → copyPart s p = none → fails 1) ∧
    ∀ q : Partition, m.busy = false → copyPart s p = some q →
      let foreign (ent : Word) : Prop := entV ent = true ∧ q.hasCtx (entCtx ent) = false ∧ entCtx ent ≠ 0xFF
      let c2 := foreign m.data ∨ foreign (liveEntry s page) ∨ foreign (shadowEntry s page)
      let c3 := entV m.data = true ∧ entTgt m.data = 0 ∧
        ¬ (q.hbFirst ≤ entPage m.data ∧ entPage m.data < q.hbFirst + q.hbCount ∧
          entPage m.data ≤ 1572863)
      let c4 := entV m.data = true ∧ (entTgt m.data = 3 ∨
        (entTgt m.data = 2 ∧ ∀ t ∈ s.board.tunnels, t.part ≠ q.num))
      (¬ (q.pgFirst ≤ page ∧ page < q.pgFirst + q.pgCount) → fails 1) ∧
      (q.pgFirst ≤ page → page < q.pgFirst + q.pgCount → noErrors s →
        (wr → c2 → fails 2) ∧ (wr → ¬ c2 → c3 → fails 3) ∧ (wr → ¬ c2 → ¬ c3 → c4 → fails 4) ∧
        ((wr → ¬ c2 ∧ ¬ c3 ∧ ¬ c4) →
          (t.mapCopy n).code = 0 ∧ (t.mapCopy n).idx = m.idx ∧
          (t.mapCopy n).data = (if op = 2 then liveEntry s page
            else if op = 3 then shadowEntry s page else m.data) ∧
          ((t.mapCopy n).busy = true ↔ op = 4 ∨ op = 5) ∧
          (t.hub.shootBusy = true ↔ op = 4 ∨ op = 5 ∨ s.hub.shootBusy = true) ∧
          (∀ k : Nat, liveEntry t k = if wr ∧ k = page then m.data else liveEntry s k) ∧
          (∀ k : Nat, shadowEntry t k = if wr ∧ k = page then m.data else shadowEntry s k) ∧
          (∀ k : Nat, k ≠ n → t.mapCopy k = s.mapCopy k) ∧ SameMemory s t ∧
          t.engines = s.engines ∧ t.squares = s.squares))

/-- O46. SHOOT_COMPLETE of a busy copy leaves no translation cache, stream page or tender page with its
    entry and returns CMD_BUSY to 0; SHOOT_DRAIN_COMPLETE returns SHOOT_BUSY to 0 once no copy is
    busy and no access under an entry shot down is on its way or under way. A castle request of an
    engine that is not the master sets CODE 5, with a rebuild busy or the fence at 0 CODE 6; else,
    as for the steward, the copies swap, MAP_EPOCH rises, the fence falls and every translation
    cache is empty; the fence returns with no old translation held and no access under one on its
    way or under way. A rebuild outside the range or the share stops with CODE 1 or 3, of no entry
    is DONE, else BUSY, over the source and range of that moment (log entry 61); each entry is
    written to the shadow copy or counted as refused, and the last sets DONE. A scrub counts a pass;
    with no error in memory it changes nothing else but the lost cycles of the steward port at the
    tile stores (EC_TSCONF_MGT, how many is a free value, log entry 66). A command out of its
    condition changes nothing (log entry 9). (R87, R91, R92, R93, R94, R96, R98, R99, R127) -/
def Obligations.MapEventResults : Prop :=
  ∀ s : State,
    (∀ (p : MapPort) (n : Nat), portCopy s p = some n →
      let page := (s.mapCopy n).idx.toNat
      ((s.mapCopy n).busy = false → exec (.shootComplete p) s = .next s) ∧
      ((s.mapCopy n).busy = true → ∃ t : State, exec (.shootComplete p) s = .next t ∧
        (t.mapCopy n).busy = false ∧ t.hub.live = s.hub.live ∧ t.hub.shadow = s.hub.shadow ∧
        SameMemory s t ∧
        (∀ k : Nat, (t.eng k).caches.tlb.has page = false ∧
          ∀ g ∈ (t.eng k).vec.q, ∀ r ∈ g.pages, r.page ≠ page) ∧
        ∀ i k : Nat, ∀ r : PageRef, (tnd t i k).page = some r → r.page ≠ page)) ∧
    (((∃ q ∈ s.hub.copies, q.2.busy = true) ∨ (∃ r ∈ s.reqs, r.shot = true) ∨
        underWay Way.shot FarWrite.shot s = true) →
      exec .shootDrainComplete s = .next s) ∧
    ((∀ q ∈ s.hub.copies, q.2.busy = false) → (∀ r ∈ s.reqs, r.shot = false) →
      underWay Way.shot FarWrite.shot s = false →
      exec .shootDrainComplete s = .next { s with hub := { s.hub with shootBusy := false } }) ∧
    ((oldRefs s ≠ 0 ∨ (∃ r ∈ s.reqs, r.old = true) ∨ underWay Way.old FarWrite.old s = true) →
      exec .castleFenceRestore s = .next s) ∧
    (oldRefs s = 0 → (∀ r ∈ s.reqs, r.old = false) → underWay Way.old FarWrite.old s = false →
      exec .castleFenceRestore s = .next { s with hub := { s.hub with fence := true } }) ∧
    (let swapped (t : State) : Prop := t.hub.live = s.hub.shadow ∧ t.hub.shadow = s.hub.live ∧
        t.hub.epoch = s.hub.epoch + 1 ∧ t.hub.fence = false ∧ SameMemory s t ∧
        ∀ k : Nat, (t.eng k).caches.tlb = []
     (stewardRuns s = true → ∃ t : State, exec (.castle .steward) s = .next t ∧ swapped t) ∧
     ∀ (e : Eng) (n : Nat) (p : Partition), copyNum s (.engine e) = some n → sqPart s (e / 9) = some p →
      let fails (k : BitVec 4) (t : State) : Prop := t = s.modCopy n fun m => { m with code := k }
      let rb := s.hub.rb
      let go := rebuildGo (.engine e) s
      let kept := go.hub.live = s.hub.live ∧ go.hub.shadow = s.hub.shadow ∧ (go.mapCopy n).code = 0 ∧
        go.hub.rb.collide = false ∧ go.hub.rb.refused = 0
      let ranged := p.pgFirst ≤ rb.first.toNat ∧ rb.first.toNat + rb.count.toNat ≤ p.pgFirst + p.pgCount
      let shared := p.hbFirst * 2 ^ 18 ≤ rb.src.toNat ∧
        rb.src.toNat + 8 * rb.count.toNat ≤ (p.hbFirst + p.hbCount) * 2 ^ 18
      (s.board.mapMaster.toNat ≠ p.num.toNat →
        fails 5 (castleRequest (.engine e) s) ∧ fails 5 go) ∧
      (s.board.mapMaster.toNat = p.num.toNat →
        ((rb.busy = true ∨ s.hub.fence = false) → fails 6 (castleRequest (.engine e) s)) ∧
        (rb.busy = false → s.hub.fence = true → swapped (castleRequest (.engine e) s) ∧
          ((castleRequest (.engine e) s).mapCopy n).code = 0) ∧
        (rb.busy = true → go = s) ∧
        (rb.busy = false → kept ∧
          (rb.count = 0 → go.hub.rb.done = true ∧ go.hub.rb.busy = false ∧ go.hub.rb.err = false) ∧
          (rb.count ≠ 0 → ¬ ranged → go.hub.rb.err = true ∧ go.hub.rb.code = 1 ∧ go.hub.rb.busy = false) ∧
          (rb.count ≠ 0 → ranged → ¬ shared →
            go.hub.rb.err = true ∧ go.hub.rb.code = 3 ∧ go.hub.rb.busy = false) ∧
          (rb.count ≠ 0 → ranged → shared → go.hub.rb.busy = true ∧ go.hub.rb.done = false ∧
            go.hub.rb.err = false ∧ go.hub.rb.next = 0 ∧ go.hub.rb.runSrc = rb.src ∧
            go.hub.rb.runFirst = rb.first ∧ go.hub.rb.runCount = rb.count)))) ∧
    (s.hub.rb.busy = false → exec .rebuildEntry s = .next s) ∧
    (∀ p : Partition, s.hub.rb.busy = true → partOf s s.hub.rb.part.toNat = some p → noErrors s →
      let rb := s.hub.rb
      let page := rb.runFirst.toNat + rb.next
      let ent : Word := BitVec.ofNat 64 (leNat (s.hbm.bytes (rb.runSrc.toNat + 8 * rb.next) 8))
      ∃ t : State, exec .rebuildEntry s = .next t ∧ t.hub.live = s.hub.live ∧ SameMemory s t ∧
        t.hub.rb.next = rb.next + 1 ∧ (t.hub.rb.busy = true ↔ rb.next + 1 ≠ rb.runCount.toNat) ∧
        (t.hub.rb.done = true ↔ rb.next + 1 = rb.runCount.toNat) ∧
        (writeCode s p ent [shadowEntry s page] = 0 → t.hub.rb.refused = rb.refused ∧
          ∀ k : Nat, shadowEntry t k = if k = page then ent else shadowEntry s k) ∧
        (writeCode s p ent [shadowEntry s page] ≠ 0 → t.hub.rb.refused = rb.refused + 1 ∧
          t.hub.shadow = s.hub.shadow)) ∧
    (stewardRuns s = true → s.boot.conversion = true → s.boot.recovery = false → noErrors s →
      ∃ t : State, exec .patrolScrub s = .next t ∧ SameMemory s t ∧ t.squares = s.squares ∧
        t.hub = { s.hub with scrubPasses := s.hub.scrubPasses + 1 } ∧ t.flaws = s.flaws ∧ t.nv = s.nv ∧
        t.poison = s.poison ∧ t.reqs = s.reqs ∧
        ∀ k : Nat, ∃ w : BitVec 32, t.eng k = { s.eng k with tsconf := (s.eng k).tsconf.set 2 w }) ∧
    (stewardRuns s = true → s.boot.conversion = true → s.boot.recovery = false → ∃ t : State, exec .patrolScrub s = .next t ∧
      SameMemory s t ∧ t.hub.scrubPasses = s.hub.scrubPasses + 1 ∧
      ∀ k ∈ s.flaws.hbmUe, unreachable s.hub (k * 64) = false → k ∈ t.poison)

/-- O47. A doorbell of an open, granted context within the ring becomes the tail, one beyond it counts
    in BADTAIL, one of a context not granted in DBDROP; the doorbell page shows HEAD and the fields
    of DB_STAT, and 0 while the context is not granted. A descriptor that is read is queued with its
    fields, or rejected with STATUS 1 and the first failing DETAIL, and the head advances; one that
    cannot be read sets RINGERR. SQUARE_RESERVE gives a free square to a waiting job of the highest
    priority; on a square that is not free it lets the job that has reserved it start, if that can.
    While the steward runs, a context that is measured is so marked with a ledger entry, and a
    failed reading ends its job with STATUS 8 (which job is measured is log entry 72). JOB_COMPLETE
    of a job that is through on every engine, with its writes visible, frees its squares and engines
    and writes its record; a misaligned record counts in CFAIL. TIME of the record is log entry 33;
    a command out of its condition changes nothing (log entry 9). (R61, R62, R63, R66, R67, R507,
    R529, R530, R531, R532, R533, R535) -/
def Obligations.JobPathResults : Prop :=
  ∀ s : State,
    (∀ (c : Byte) (tail : BitVec 32), let x := s.ctx c
      (barOpen s = false → exec (.doorbell c tail) s = .next s) ∧
      (barOpen s = true → ∃ t : State, exec (.doorbell c tail) s = .next t ∧ SameMemory s t ∧
        (x.granted = false → t.cxl.dbdrop = satInc s.cxl.dbdrop ∧ t.ctx c = x) ∧
        (x.granted = true → (tail - x.head).toNat ≤ x.n.toNat →
          (t.ctx c).tail = tail ∧ (t.ctx c).ringerr = false ∧ (t.ctx c).head = x.head) ∧
        (x.granted = true → x.n.toNat < (tail - x.head).toNat →
          (t.ctx c).tail = x.tail ∧ (t.ctx c).badtail = satInc x.badtail)) ∧
      (∀ off n : Nat, barOpen s = false ∨ x.granted = false → doorbellShows s c off n = 0) ∧
      (barOpen s = true → x.granted = true → doorbellShows s c 0 8 = 0 ∧
        (doorbellShows s c 8 8).toNat = x.head.toNat ∧ (doorbellShows s c 8 4).toNat = x.head.toNat ∧
        (doorbellShows s c 0x10 8).toNat = x.cfail.toNat * 2 ^ 48 + x.badtail.toNat * 2 ^ 32 +
          (if x.ringerr then 3 else 1))) ∧
    (∀ c : Byte, let x := s.ctx c
      ((x.granted = false ∨ x.head = x.tail ∨ x.ringerr = true) →
        exec (.descriptorRead c) s = .next s) ∧
      (x.granted = true → x.head ≠ x.tail → x.ringerr = false → ∀ s1 : State,
        let slot := x.base.toNat + 64 * (x.head.toNat % max x.n.toNat 1)
        (rankRead c slot 64 s = (.error .fault, s1) → ∃ t : State,
          exec (.descriptorRead c) s = .next t ∧ (t.ctx c).ringerr = true ∧ t.jobs = s1.jobs) ∧
        (∀ d : List Byte, rankRead c slot 64 s = (.ok d, s1) → ∃ (t : State) (j : Job),
          exec (.descriptorRead c) s = .next t ∧ t.jobs = s1.jobs ++ [j] ∧ j.ctx = c ∧
          (t.ctx c).head = (s1.ctx c).head + 1 ∧ j.entry.toNat = fieldAt d 8 8 ∧
          j.arg.toNat = fieldAt d 0x10 8 ∧ j.compl.toNat = fieldAt d 0x20 8 ∧
          (fieldAt d 0 1 ≠ c.toNat → j.stage = .ended ∧ j.status = 1 ∧ j.detail = 1) ∧
          (fieldAt d 0 1 = c.toNat → fieldAt d 0x18 8 = 0 →
            j.stage = .ended ∧ j.status = 1 ∧ j.detail = 2) ∧
          (j.stage = .queued ∨ (j.stage = .ended ∧ j.status = 1 ∧ 1 ≤ j.detail ∧ j.detail ≤ 6)) ∧
          (j.stage = .queued → fieldAt d 8 8 % 4 = 0 ∧ fieldAt d 8 8 < 0x8000000000 ∧
            j.sqmask ≠ 0 ∧ ∀ i ∈ maskSquares j.sqmask, usable s1 i = true)))) ∧
    (∀ sq : SqId,
      let wait := s.jobs.filter fun j => j.waiting && waitsFor j == some sq.val
      (squareFree s sq = false →
        exec (.squareReserve sq) s = .next (tryStart (s.sqr sq).reservedBy s)) ∧
      (squareFree s sq = true → wait = [] → exec (.squareReserve sq) s = .next s) ∧
      (squareFree s sq = true → wait ≠ [] → ∃ (t : State) (j : Job), j ∈ wait ∧
        (∀ k ∈ wait, k.prio ≤ j.prio) ∧ exec (.squareReserve sq) s = .next t ∧
        (∃ k ∈ t.jobs, k.id = j.id ∧ k.reserved = j.reserved ||| (1 : BitVec 64) <<< sq.val) ∧
        ((t.sqr sq).reservedBy = j.id ∨ ((t.sqr sq).st = .busy ∧ (t.sqr sq).job = j.id)) ∧
        ∀ a : Nat, t.hbm.get a = s.hbm.get a)) ∧
    (∀ c : Byte, let first := measuredJob s c
      ((first = none ∨ needsMeasure s c = false ∨ stewardRuns s = false) → exec (.runtimeMeasure c) s = .next s) ∧
      (∀ j : Job, first = some j → j ∈ s.jobs ∧ j.stage = .measuring ∧ j.ctx = c) ∧
      (stewardRuns s = true → ∀ (j : Job) (s1 : State), first = some j → needsMeasure s c = true →
        let begun := if (s.ctx c).measJob = j.id then s
          else s.modCtx c fun x => { x with measJob := j.id, meas := [] }
        (readPage c (j.entry.toNat / 2 ^ 18) 4096 begun = (.done, s1) → ∃ t : State,
          exec (.runtimeMeasure c) s = .next t ∧ (t.ctx c).measured = true ∧ (t.ctx c).meas = [] ∧
          s.nv.headRec.seq < t.nv.headRec.seq) ∧
        (readPage c (j.entry.toNat / 2 ^ 18) 4096 begun = (.fault, s1) → ∃ t : State,
          exec (.runtimeMeasure c) s = .next t ∧
          ∃ k ∈ t.jobs, k.id = j.id ∧ k.stage = .ended ∧ k.status = 8))) ∧
    ∀ (id : Nat) (j : Job), jobOf s id = some j →
      let through := (j.stage = .ended ∧ allStopped s id = true) ∨ (j.stage = .running ∧ allEnded s id = true)
      ((¬ through ∨ j.recordOut = true ∨ writesDone s id = false) → s.cmd.busy = none →
        exec (.jobComplete id) s = .next s) ∧
      (through → j.recordOut = false → writesDone s id = true →
        let k := if j.stage = .running then { j with stage := .ended, endTime := s.mg.timebase } else j
        ∃ t : State, exec (.jobComplete id) s = .next t ∧
          (∀ i : Nat, (s.sqr i).job = id → id ≠ 0 → (t.sqr i).job = 0 ∧ (t.sqr i).st ≠ .busy) ∧
          (j.compl.toNat % 32 ≠ 0 → (t.ctx j.ctx).cfail = satInc (s.ctx j.ctx).cfail ∧
            SameMemory s t ∧ ∀ k ∈ t.jobs, k.id ≠ j.id) ∧
          (∀ (pa : Nat) (s1 : State), j.compl.toNat % 32 = 0 → noErrors s →
            rankPlace j.ctx .w j.compl.toNat s = (some (.hbm pa), s1) →
            (∀ i < 32, t.hbm.get (pa + i) = (completionRecord k).getD i 0) ∧
            (∀ a : Nat, (a < pa ∨ pa + 32 ≤ a) → t.hbm.get a = s.hbm.get a) ∧
            (t.ctx j.ctx).cfail = (s.ctx j.ctx).cfail ∧ ∀ k ∈ t.jobs, k.id ≠ j.id))

/-- O48. QUIESCE_COMPLETE moves a quiescing square on which no event and no strip boundary is still to
    come to QUIESCED and pauses its busy channels, which then hold no translation. SQUARE_FAIL moves
    a square to FAILED, ends its job with STATUS 4 and its transfers with CODE 4, and is entered in
    the health log; D2D_LINK_FAIL does all of that for the 16 squares of a quarter and withdraws its
    stacks. PARK_IDLE_EXPIRY parks an idle square that no job has reserved while PARKIDLE is set;
    TILE_STORE_WAKE_DONE ends a wake. A substitution of the running steward that the spare passes
    gives the logical engine to position 8, retires the failed position and zeroes the tile store of
    the spare; one it fails makes the engine unavailable; for SPARE_NOW it needs the command that
    asks for it, which it answers, and serves the policy COMMAND too. That it is one step, with one
    answer, is log entry 42; a command out of its condition changes nothing (log entry 9).
    STRUCTURE_SWITCH waits for the affected squares and then applies the new board with a ledger
    entry; HBM stays, and with no job left to start the tile stores do. (R11, R12, R13, R39, R40,
    R42, R43, R68, R104, R417, R430, R576) -/
def Obligations.SquareAndStructureResults : Prop :=
  ∀ (sq : SqId) (s : State),
    let q := s.sqr sq
    let due := (availEngs s sq).any fun k => quiesceDue (s.eng k)
    ((q.st ≠ .quiescing ∨ due = true) → exec (.quiesceComplete sq) s = .next s) ∧
    (q.st = .quiescing → due = false → ∃ t : State, exec (.quiesceComplete sq) s = .next t ∧
      (t.sqr sq).st = .quiesced ∧ (∀ n : Fin 4, (tnd s sq n).busy = true →
        (tnd t sq n).paused = true ∧ (tnd t sq n).page = none) ∧
      SameMemory s t) ∧
    (q.st = .failed → exec (.squareFail sq) s = .next s) ∧
    (q.st ≠ .failed → ∃ t : State, exec (.squareFail sq) s = .next t ∧ (t.sqr sq).st = .failed ∧
      (t.nv.health.head?.map HealthEntry.code) = some 6 ∧ SameMemory s t ∧
      (∀ n : Fin 4, (tnd s sq n).busy = true → (tnd t sq n).busy = false ∧ (tnd t sq n).err = true ∧
        (tnd t sq n).code = 4) ∧
      (∀ j : Job, q.job ≠ 0 → jobOf s q.job = some j → j.stage ≠ .ended →
        ∃ k ∈ t.jobs, k.id = j.id ∧ k.stage = .ended ∧ k.status = 4 ∧ k.detail.toNat = sq.val)) ∧
    (∀ k : Fin 4, ∃ t : State, exec (.d2dLinkFail k) s = .next t ∧ t.hub.unreachable.getLsbD k = true ∧
      SameMemory s t ∧ ∀ i : Fin 64, i.val / 16 = k.val → (t.sqr i).st = .failed ∧
        ((s.sqr i).st ≠ .failed →
          (∃ h ∈ t.nv.health, h.code = 6 ∧ h.wher = BitVec.ofNat 16 (i * 16 + 15) ∧
            s.nv.healthSeq ≤ h.seq) ∧
          (∀ n : Fin 4, (tnd s i n).busy = true → (tnd t i n).busy = false ∧
            (tnd t i n).err = true ∧ (tnd t i n).code = 4) ∧
          ∀ j : Job, (s.sqr i).job ≠ 0 → jobOf s (s.sqr i).job = some j → j.stage ≠ .ended →
            ∃ m ∈ t.jobs, m.id = j.id ∧ m.stage = .ended ∧ m.status = 4 ∧
              m.detail.toNat / 16 = k.val)) ∧
    (∃ t : State, exec (.parkIdleExpiry sq) s = .next t ∧
      (q.st = .idle → q.reservedBy = 0 → s.pw.policy.parkidle ≠ 0 →
        (t.sqr sq).st = .parked ∧ (t.sqr sq).policyParked = true) ∧
      ((q.st ≠ .idle ∨ q.reservedBy ≠ 0 ∨ s.pw.policy.parkidle = 0) → t = s)) ∧
    ((q.waking = false ∨ q.st ≠ .parked) → exec (.tileStoreWakeDone sq) s = .next s) ∧
    (q.waking = true → q.st = .parked → ∃ t : State, exec (.tileStoreWakeDone sq) s = .next t ∧
      (t.sqr sq).waking = false ∧ ((t.sqr sq).st = .idle ∨ (t.sqr sq).st = .busy)) ∧
    (∀ (reason : SpareReason) (pos : Fin 9) (ok : Bool),
      let asked := ∃ d : Deferred, s.cmd.busy = some d ∧ d.work = .spare sq pos
      ((stewardRuns s = false ∨ s.boot.next.isSome = true ∨ (reason = .spareNow ∧ ¬ asked)) →
        exec (.spareSubstitution sq reason pos ok) s = .next s) ∧
      (∀ n : Nat, stewardRuns s = true → s.boot.next = none →
        (reason = .spareNow → asked ∧ s.board.spare.toNat ≤ 1) →
        (reason ≠ .spareNow → s.board.spare = 0) → q.st ≠ .failed →
        q.spareUsed = false → q.retired.getLsbD 8 = false → lostLogical q pos = some n →
        ∃ t : State, exec (.spareSubstitution sq reason pos ok) s = .next t ∧
          (reason = .spareNow → t.cmd.busy = none ∧ t.cmd.response.isSome = true) ∧
          (t.sqr sq).retired.getLsbD pos = true ∧ s.nv.headRec.seq < t.nv.headRec.seq ∧
          (ok = true → posOf (t.sqr sq) n = 8 ∧ (t.sqr sq).spareUsed = true ∧
            ∀ a : Nat, (sq * 9 + 8) * 2 ^ 18 ≤ a → a < (sq * 9 + 9) * 2 ^ 18 → t.tile.get a = 0) ∧
          (ok = false → posOf (t.sqr sq) n = 15 ∧ (t.sqr sq).retired.getLsbD 8 = true))) ∧
    (s.boot.next = none → exec .structureSwitch s = .next s) ∧
    (∀ b : Board, s.boot.next = some b →
      let hit := affectedSquares s.board b
      let calm := ∀ i ∈ hit, settled (s.sqr i) = true
      (¬ calm → ∃ t : State, exec .structureSwitch s = .next t ∧ t.board = s.board ∧
        ∀ i ∈ hit, ((s.sqr i).st = .idle ∨ (s.sqr i).st = .busy) → (t.sqr i).st = .quiescing) ∧
      (calm → ∃ t : State, exec .structureSwitch s = .next t ∧ t.boot.next = none ∧
        t.board.parts = b.parts ∧ t.board.wires = b.wires ∧ t.board.tunnels = b.tunnels ∧
        t.board.digest = b.digest ∧ t.frx.node = b.node ∧ s.nv.headRec.seq < t.nv.headRec.seq ∧
        (∀ a : Nat, t.hbm.get a = s.hbm.get a) ∧
        ((∀ j ∈ s.jobs, j.waiting = false) → SameMemory s t)))

/-- O49. OVERCURRENT_GUARD moves every unpinned square to index 0, counts, and sets the POWER alert;
    POWER_BRAKE of a part with power does so for squares that are not PARKED; but in step 8 for
    those too; a release only clears the brake. THERMTRIP on a supplied part stops conversion, and
    everything outside the management domain is lost. The stage-1 ratio is that of the VIN away from
    band edges. A loop period while the steward runs counts, keeps pinned indices, clears the guard,
    and leaves a 304-byte sensor record; the index the steward chooses for a square lies within its
    bounds, and the predicted power of the choice is within P_LIMIT or every index is at its lower
    bound (what the steward predicts and picks is free, log entry 34; the ratio within the
    hysteresis of an edge, log entry 35; what a trip removes, log entry 45; a trip of a part without
    a supply, and a loop period while the steward does not run, change nothing, log entry 9). (R476,
    R559, R562, R563, R567, R569, R571, R572, R576) -/
def Obligations.PowerResults : Prop :=
  ∀ s : State,
    (∃ t : State, exec .overcurrentGuard s = .next t ∧ t.pw.guard = true ∧
      t.pw.guards = satInc s.pw.guards ∧ t.mg.alert.getLsbD 4 = true ∧ SameMemory s t ∧
      ∀ i : Fin 64, (t.sqr i).opp = (if (s.sqr i).pinned then (s.sqr i).opp else 0) ∧
        (t.sqr i).st = (s.sqr i).st) ∧
    (∃ t : State, exec .powerBrake s = .next t ∧ t.pins.pwrbrk = true ∧ t.pw.brake = true ∧
      SameMemory s t ∧ (s.boot.powered = false → t.mg = s.mg ∧ t.out = s.out)) ∧
    (s.boot.powered = true → ∃ t : State, exec .powerBrake s = .next t ∧ t.pins.pwrbrk = true ∧
      t.pw.brake = true ∧ t.mg.alert.getLsbD 4 = true ∧ t.out.head? = some .brakeAct ∧ SameMemory s t ∧
      ∀ i : Fin 64, (t.sqr i).opp = (if (s.sqr i).pinned = true ∨ ((s.sqr i).st = .parked ∧ s.boot.step ≠ 8)
        then (s.sqr i).opp else 0)) ∧
    exec .powerBrakeRelease s = .next { s with
      pins := { s.pins with pwrbrk := false }, pw := { s.pw with brake := false } } ∧
    (supplied s = false → exec .thermtrip s = .next s) ∧
    (supplied s = true → ∃ t : State, exec .thermtrip s = .next t ∧ t.pins.thermtrip = true ∧
      t.boot.conversion = false ∧ t.boot.ready = false ∧ t.engines = [] ∧ t.jobs = [] ∧ t.hbm = [] ∧
      t.tile = [] ∧ t.nv = s.nv ∧ t.mg = s.mg) ∧
    (∀ mv : BitVec 16, ∃ t : State, exec (.stage1RatioChange mv) s = .next t ∧
      (nearEdge mv.toNat s.pw.ratio = false → t.pw.ratio = (if mv.toNat < 9600 then 0
        else if mv.toNat < 19000 then 1 else if mv.toNat < 38000 then 2 else 3)) ∧
      t.squares = s.squares ∧ SameMemory s t) ∧
    (∀ m : LoopSample,
      ((s.mg.running = false ∨ s.ik.steward.halted = true) →
        exec (.stewardLoopPeriod m) s = .next s) ∧
      (s.mg.running = true → s.ik.steward.halted = false → ∃ t : State,
        exec (.stewardLoopPeriod m) s = .next t ∧ t.pw.periods = s.pw.periods + 1 ∧
        t.pw.guard = false ∧ t.pw.policy = s.pw.nextPolicy ∧ t.pw.sensors.length = 304 ∧
        t.nv.lifeMs = s.nv.lifeMs + 1 ∧ SameMemory s t ∧
        ∀ i : Fin 64, (s.sqr i).pinned = true → (t.sqr i).opp = (s.sqr i).opp) ∧
      (∀ i : Fin 64, (s.sqr i).minop.toNat ≤ hiOf s m i ∧ (s.sqr i).minop.toNat ≤ chosen s m i ∧
        chosen s m i ≤ hiOf s m i) ∧
      (fits s m (indices s (chosen s m)) = true ∨
        ∀ i : Nat, chosen s m i = (s.sqr i).minop.toNat))

/-- The NV store as a boot takes it up: the ledger that the head record chains, and an entry that the ROM chains
    in. -/
def bootLedger (s : State) : Nv := (acceptTail { s with nv := chainedLedger s.nv }).nv

/-- The part has lost its power: nothing runs, no memory holds anything, and the NV store is kept, as of one of
    the words that it was writing. -/
def Unpowered (s t : State) : Prop :=
  t.boot.powered = false ∧ t.mg.running = false ∧ t.engines = [] ∧ t.jobs = [] ∧ t.hbm = [] ∧
    t.tile = [] ∧ t.session = none ∧ t.nv ∈ s.nv :: s.nvWas ∧ t.pending = s.pending

/-- O50. VIN_VALID or VAUX_VALID on a part without a supply is a power-on: straps sampled, memories
    empty, the spare records of the NV store cleared; with a supply present only the supply is
    noted. Losing the last supply unpowers the part and keeps the NV store, whose last writes have
    landed in order up to some word (log entry 38); VIN_RESET with VAUX present stops conversion,
    enters the end of a debug level in the ledger, and holds device reset. MANAGEMENT_DOMAIN_UP
    raises the boot count and runs the steward or stops the ROM in step 15. CONVERSION_UP lets a
    waiting steward go on to step 5; HBM_TRAINING_DONE goes on to step 6 with the repaired rows and
    the soft repairs that waited counted, to the opening when FORCE_OPENING is set; ZERO_FILL_DONE
    leaves every memory and both map copies 0 in step 8; SELF_TEST_DONE ends in step 9 with READY
    and the firmware counter raised. Out of its step each of the last three changes nothing (log
    entry 9). The steps that STEP shows, and what VIN_RESET removes, are log entry 45. The output
    pins are driven only with a supply: CLKREQ_N low and VIO18 on then, READY while ready, ALERT_N
    low for an alert bit or a stopped ROM, THERMTRIP_N low after the trip. (R11, R129, R426, R428,
    R476, R482, R483, R484, R493, R558, R561, R661) -/
def Obligations.BootSequence : Prop :=
  ∀ s : State,
    let supply := s.boot.vinValid = true ∨ s.boot.vaux = true
    (∀ (mv : BitVec 16) (z : Straps),
      (s.boot.vinValid = true → exec (.vinValid mv z) s = .next s) ∧
      (¬ supply → ∃ t : State, exec (.vinValid mv z) s = .next t ∧ t.boot.vinValid = true ∧
        t.boot.first = true ∧ t.boot.powered = false ∧ t.pins.addrSel = z.addrSel ∧
        t.pins.force = z.forceOpening ∧ t.hbm = [] ∧ t.tile = [] ∧ t.engines = [] ∧
        t.nv = { s.nv with spares := [] }) ∧
      (s.boot.vinValid = false → s.boot.vaux = true → s.boot.held = false → ∃ t : State,
        exec (.vinValid mv z) s = .next t ∧ t.boot.vinValid = true ∧ t.nv = s.nv ∧
        t.engines = s.engines ∧ t.mg = s.mg ∧ SameMemory s t)) ∧
    (∀ z : Straps,
      (supply → exec (.vauxValid z) s = .next { s with boot := { s.boot with vaux := true } }) ∧
      (¬ supply → ∃ t : State, exec (.vauxValid z) s = .next t ∧ t.boot.vaux = true ∧
        t.boot.vinValid = false ∧ t.boot.first = true ∧ t.pins.addrSel = z.addrSel ∧ t.hbm = [] ∧
        t.nv = { s.nv with spares := [] })) ∧
    (¬ supply → pinLevels s = ⟨false, false, false, false, false⟩) ∧
    (supply → pinLevels s = ⟨s.boot.ready, s.mg.alert != 0 || s.boot.step == 15, s.pins.thermtrip, true, true⟩) ∧
    (s.boot.vinValid = false → exec .vinReset s = .next s) ∧
    (s.boot.vinValid = true → s.boot.vaux = false → ∃ t : State, exec .vinReset s = .next t ∧
      Unpowered s t) ∧
    (s.boot.vinValid = true → s.boot.vaux = true → ∃ t : State, exec .vinReset s = .next t ∧
      t.boot.held = true ∧ t.boot.vinValid = false ∧ t.boot.conversion = false ∧ t.engines = [] ∧
      t.hbm = [] ∧ t.boot.powered = s.boot.powered ∧ t.mg.timebase = s.mg.timebase ∧
      (s.ik.level = 0 → t.nv = s.nv) ∧ (s.ik.level ≠ 0 → s.nv.headRec.seq < t.nv.headRec.seq)) ∧
    (s.boot.vinValid = true → exec .vauxLoss s =
      .next { s with boot := { s.boot with vaux := false } }) ∧
    (s.boot.vinValid = false → s.boot.vaux = true → ∃ t : State, exec .vauxLoss s = .next t ∧
      Unpowered s t) ∧
    ((s.boot.powered = true ∨ ¬ supply) → exec .managementDomainUp s = .next s) ∧
    (s.boot.powered = false → supply → ∃ t : State, exec .managementDomainUp s = .next t ∧
      t.boot.powered = true ∧
      (heldReset s = true → t = { s with boot := { s.boot with powered := true } }) ∧
      (heldReset s = false → t.nv.boots = (bootLedger s).boots + 1 ∧ s.nv.headRec.seq + 2 ≤ t.nv.headRec.seq ∧
        (t.boot.step = 15 ↔ t.mg.running = false) ∧
        (t.mg.running = true → t.boot.step = (if t.boot.recovery then 4
          else if s.boot.conversion then 5 else 2)))) ∧
    (s.boot.vinValid = true → s.boot.conversion = false → s.pins.thermtrip = false → ∃ t : State,
      exec .conversionUp s = .next t ∧ t.boot.conversion = true ∧ t.mg.refLock = true ∧
      t.boot.step = (if s.boot.step = 2 ∧ s.mg.running = true then 5 else s.boot.step)) ∧
    ((s.boot.vinValid = false ∨ s.boot.conversion = true ∨ s.pins.thermtrip = true) →
      exec .conversionUp s = .next s) ∧
    (∀ rows : BitVec 16,
      (inStep 5 s = false → exec (.hbmTrainingDone rows) s = .next s) ∧
      (inStep 5 s = true → ∃ t : State, exec (.hbmTrainingDone rows) s = .next t ∧ t.boot.step = 6 ∧
        t.hub.spareHard = satAdd (satAdd s.hub.spareHard s.hub.sparePending.toNat) rows.toNat ∧
        t.hub.sparePending = 0 ∧
        (s.pins.force = true → t.boot.next = none) ∧ SameMemory s t)) ∧
    (inStep 6 s = false → exec .zeroFillDone s = .next s) ∧
    (inStep 6 s = true → ∃ t : State, exec .zeroFillDone s = .next t ∧ t.boot.step = 8 ∧ t.hbm = [] ∧
      t.tile = [] ∧ t.poison = [] ∧ t.flaws = {} ∧ t.hub.live = [] ∧ t.hub.shadow = [] ∧
      (s.boot.next = none → t.board.opening = true) ∧
      (∀ b : Board, s.boot.next = some b → t.board.parts = b.parts ∧ t.board.wires = b.wires ∧
        t.frx.node = b.node) ∧
      ∀ k : Fin 8, (t.rank k).fwver = s.boot.fwVersion) ∧
    ∀ failed : List Eng,
      (inStep 8 s = false → exec (.selfTestDone failed) s = .next s) ∧
      (inStep 8 s = true → ∃ t : State, exec (.selfTestDone failed) s = .next t ∧ t.boot.step = 9 ∧
        t.boot.ready = true ∧ s.nv.headRec.seq < t.nv.headRec.seq ∧
        t.nv.fwCounter.toNat = max s.nv.fwCounter.toNat s.boot.fwArb.toNat ∧
        ∀ i : Fin 64, (t.sqr i).st = .failed ∨
          (t.sqr i).st = (if (t.sqr i).assigned then .idle else .parked))

/-- O51. A device reset of a powered part, by a RESET_DOMAIN that is due, RESET_N or TESTEN, drops every
    engine, job, request, session and the debug level, leaves the structure the opening, every
    square PARKED, or FAILED when it was, with its engine map, and keeps the memories, the I3C
    address, and the keys where no change was open; a debug level that it ends is entered in the
    ledger; held by its pin it runs no boot, else the boot count, as it stands once an entry the ROM
    chains in is counted, rises by 1. RESET_DOMAIN makes the reset due and this row performs it (log
    entry 54); which cause TESTEN gives is log entry 45. A release of the pin that held it starts
    the boot when nothing else holds it. PERST_N takes the link down, counts it when it was up, and
    keeps engines and memory; its release only ends it. What a link loss resets of the port is log
    entry 51; a row out of its condition changes nothing (log entry 9). (R452, R474, R476, R482,
    R589, R660, R662, R521) -/
def Obligations.ResetResults : Prop :=
  ∀ (s : State) (force : Bool),
    let reset (t : State) : Prop := t.engines = [] ∧ t.jobs = [] ∧ t.reqs = [] ∧ t.session = none ∧
      t.ik.level = 0 ∧ t.board = {} ∧ t.cxl.up = false ∧ t.boot.ready = false ∧
      t.i3c.da = s.i3c.da ∧ (s.nv.opened = [] → t.nv.keys = s.nv.keys) ∧
      (s.ik.level ≠ 0 → s.nv.headRec.seq < t.nv.headRec.seq) ∧ t.hub.epoch = 0 ∧ SameMemory s t ∧
      ∀ i : Nat, (t.sqr i).st = (if (s.sqr i).st = .failed then .failed else .parked) ∧
        (t.sqr i).map = (s.sqr i).map ∧ (t.sqr i).retired = (s.sqr i).retired
    let holds (c : Instr) (resetN testen : Bool) : Prop :=
      (s.boot.powered = false → ∃ t : State, exec c s = .next t ∧ t.pins.resetN = resetN ∧
        t.pins.testen = testen ∧ t.engines = s.engines ∧ t.boot = s.boot ∧ t.nv = s.nv) ∧
      (s.boot.powered = true → ∃ t : State, exec c s = .next t ∧ reset t ∧ t.pins.resetN = resetN ∧
        t.pins.testen = testen ∧ t.mg.running = false ∧ (s.ik.level = 0 → t.nv = s.nv))
    let releases (c : Instr) (s1 : State) : Prop :=
      ((s.boot.powered = false ∨ heldReset s1 = true) → exec c s = .next s1) ∧
      (s.boot.powered = true → heldReset s1 = false → ∃ t : State, exec c s = .next t ∧
        t.pins = s1.pins ∧ t.nv.boots = (bootLedger s).boots + 1 ∧
        (t.boot.step = 15 ↔ t.mg.running = false))
    ((s.boot.powered = false ∨ s.boot.resetDue = false) → exec (.deviceReset force) s = .next s) ∧
    (s.boot.powered = true → s.boot.resetDue = true → ∃ t : State, exec (.deviceReset force) s = .next t ∧ reset t ∧
      t.pins.force = force ∧
      (s.ik.level = 0 →
        t.nv.boots = (if heldReset s then s.nv.boots else (bootLedger s).boots + 1))) ∧
    holds (.resetN force) false s.pins.testen ∧ holds .testen s.pins.resetN true ∧
    (s.pins.resetN = true → exec .resetNRelease s = .next s) ∧
    (s.pins.resetN = false →
      releases .resetNRelease { s with pins := { s.pins with resetN := true } }) ∧
    (s.pins.testen = false → exec .testenRelease s = .next s) ∧
    (s.pins.testen = true →
      releases .testenRelease { s with pins := { s.pins with testen := false } }) ∧
    (∃ t : State, exec .perstN s = .next t ∧ t.cxl.perst = true ∧
      (s.cxl.up = true → t.cxl.up = false ∧ t.cxl.linkdown = satInc s.cxl.linkdown ∧
        t.cxl.hdm = {} ∧ t.cxl.ide = false) ∧ t.cxl.hbase = s.cxl.hbase ∧
      t.cxl.msixMask = s.cxl.msixMask ∧ SameMemory s t ∧ t.hub = s.hub) ∧
    exec .perstNRelease s = .next { s with cxl := { s.cxl with perst := false } }

/-- The length rule of OPEN: 1 byte in phase 1, 100 in phase 2. -/
def openLen : Byte → List Byte → Bool := fun fl p => p.length == if fl.getLsbD 0 then 100 else 1

/-- A command that the recovery program refuses as NOT_READY. -/
def unlessRecovery (work : List Byte → State → Reply × State) (p : List Byte) (s : State) :
    Reply × State :=
  if s.boot.recovery then (.no 0x0C 0, s) else work p s

/-- What a command frame comes to at the port: a NACK, a refusal by the first failing check, or the reply
    of the command's own work. -/
def TakesFrame (c : Instr) (r : CmdRow) (f : Frame) (work : List Byte → State → Reply × State) : Prop :=
  ∀ s : State,
    let mine := f.addr = targetAddr s
    let free := mine ∧ stewardRuns s = true ∧ s.cmd.busy = none ∧ s.cmd.response = none
    let st := frameStatus r f s
    let key := if r.op = 0x02 ∨ r.op = 0x04 then none else s.session.map Session.key
    (¬ mine → exec c s = .next s) ∧
    (mine → ¬ free → exec c s = .next (s.emit .i3cNack)) ∧
    (free → st ≠ 0 → ∃ t : State, exec c s = .next t ∧ t.cmd.busy = none ∧
      t.cmd.response = some (responseFrame r.op st f.seq [0, 0, 0, 0] key) ∧ t.nv = s.nv ∧
      t.engines = s.engines ∧ t.squares = s.squares ∧ t.jobs = s.jobs ∧ SameMemory s t) ∧
    (free → st = 0 → ∀ (a : Reply) (u : State), work (payloadOf f) (sessionAfter r f 0 s) = (a, u) →
      ∃ t : State, exec c s = .next t ∧ t.nv = u.nv ∧ SameMemory u t ∧ t.squares = u.squares ∧
        (∀ b : List Byte, a = .ok b → t.cmd.busy = none ∧ (r.op ≠ 0x02 →
          t.cmd.response = some (responseFrame r.op 0 f.seq b key))) ∧
        (∀ (k : Byte) (d : Nat), a = .no k d → t.cmd.busy = none ∧ (r.op ≠ 0x02 →
          t.cmd.response = some (responseFrame r.op k f.seq (leBytes 4 d) key))) ∧
        ∀ w : Work, a = .later w → (t.cmd.busy.map fun d => (d.op, d.seq, d.work)) = some (r.op, f.seq, w))

/-- O52. A frame at another address is not the part's. Every other command of Table 11.6 is NACKed while
    the steward does not run, a command is in progress or a response waits; a frame that fails a
    check in the order length, role, TAG, SEQ, fields is answered with that status and a zero DETAIL
    and changes no NV store, engine, square, job or memory; else its work is done and its reply
    sent, with the tag of the session key, or zero for OPEN and CLAIM. Responses have the layout of
    Table 11.3. An unknown opcode is BAD_OPCODE and ends a row of BAD_TAGs. RESPONSE_READ delivers
    and frees the slot, and starts the device reset that RESET_DOMAIN asked for; QUOTE_SIGNED
    answers a quote with its body and 512 bytes of signature; SESSION_TIMEOUT, OPEN_NONCE_EXPIRY and
    LOCKOUT_EXPIRY, which stand for time that has passed (log entry 1), end what they name. DETAIL
    where no rule gives one is log entry 43. (R452, R453, R454, R455, R457, R458, R460, R462, R463,
    R464, R465, R516) -/
def Obligations.CommandFrames : Prop :=
  (∀ f : Frame,
    let last := f.flags.getLsbD 0
    let owners := if fieldAt (payloadOf f) 0 1 = 1 then [0, 1] else [0]
    TakesFrame (.getInfo f) { op := 0x01, len := len 1 } f
      (infoPage) ∧
    TakesFrame (.close f) { op := 0x03, slots := some [0, 1, 2, 3], len := len 0 } f
      (fun _ s => (.ok [], { s with session := none })) ∧
    TakesFrame (.claim f) { op := 0x04, len := len 512 } f
      (claim) ∧
    TakesFrame (.setKey f) { op := 0x05, slots := some [0], len := keyLen, zero := [(1, 3)] } f
      (unlessRecovery (setKey f.seq)) ∧
    TakesFrame (.getLedger f) { op := 0x10, len := len 9 } f
      (getLedger) ∧
    TakesFrame (.archiveLedger f) { op := 0x11, slots := some [0, 2], len := len 8 } f
      (archiveLedger) ∧
    TakesFrame (.quote f) { op := 0x12, len := len 32 } f
      (fun p s => (.later (.quote (quoteBody (BitVec.ofNat 256 (fieldAt p 0 32)) s)), s)) ∧
    TakesFrame (.loadStructure f) { op := 0x20, slots := some [0], len := loadLen, flags := 1, zero := [(1, 3)] } f
      (unlessRecovery (loadStructure last)) ∧
    TakesFrame (.applyStructure f) { op := 0x21, slots := some [0], len := len 1 } f
      (applyStructure) ∧
    TakesFrame (.loadFirmware f) { op := 0x22, slots := some [0], len := loadLen, flags := 1, zero := [(1, 3)] } f
      (loadFirmware last) ∧
    TakesFrame (.setPolicy f) { op := 0x30, slots := some owners, len := policyLen, zero := [(1, 3)] } f
      (unlessRecovery setPolicy) ∧
    TakesFrame (.getPolicy f) { op := 0x31, slots := some [0, 1, 2, 3], len := len 1 } f
      (unlessRecovery getPolicy) ∧
    TakesFrame (.setCalibration f) { op := 0x32, slots := some [0, 1], len := len 8, zero := [(1, 3)] } f
      (unlessRecovery setCalibration) ∧
    TakesFrame (.readHealth f) { op := 0x40, slots := some [0, 1, 2, 3], len := len 12, flags := 1, zero := [(5, 3)] } f
      (readHealth last) ∧
    TakesFrame (.readSensors f) { op := 0x41, len := len 0 } f
      (fun _ s => (.ok s.pw.sensors, s)) ∧
    TakesFrame (.grantContext f) { op := 0x50, slots := some [0, 1], len := len 16, zero := [(1, 1)] } f
      (grantContext) ∧
    TakesFrame (.revokeContext f) { op := 0x51, slots := some [0, 1], len := len 1 } f
      (revokeContext) ∧
    TakesFrame (.debugUnlock f) { op := 0x60, slots := some [0, 3], len := fun _ _ => true } f
      (unlessRecovery debugUnlock) ∧
    TakesFrame (.resetDomainDevice f) { op := 0x61, slots := some [0, 1], len := len 8, zero := [(1, 3)] } f
      (resetCommand) ∧
    TakesFrame (.resetDomainRank f) { op := 0x61, slots := some [0, 1], len := len 8, zero := [(1, 3)] } f
      (resetCommand) ∧
    TakesFrame (.resetDomainSquare f) { op := 0x61, slots := some [0, 1], len := len 8, zero := [(1, 3)] } f
      (resetCommand) ∧
    TakesFrame (.resetDomainEngine f) { op := 0x61, slots := some [0, 1], len := len 8, zero := [(1, 3)] } f
      (resetCommand) ∧
    TakesFrame (.spareNow f) { op := 0x62, slots := some [0, 1], len := len 2 } f
      (spareNow) ∧
    ∃ w : List Byte → State → Reply × State, ∀ c ∈ [Instr.openPhase1 f, .openPhase2 f],
      TakesFrame c { op := 0x02, len := openLen, flags := 1 } f w) ∧
  (∀ (r : CmdRow) (f : Frame) (s : State), let st := frameStatus r f s
    let role := match r.slots with | some l => roleCode s l | none => 0
    let sized := f.length.toNat ≤ 4096 ∧ f.body.length = f.length.toNat + 16 ∧
      r.len f.flags (payloadOf f) = true
    (¬ sized → st = 0x02) ∧ (sized → role ≠ 0 → st = role) ∧
    (sized → role = 0 → tagOk r f s = false → st = 0x04) ∧
    (sized → role = 0 → tagOk r f s = true → seqOk r f s = false → st = 0x05) ∧
    (sized → role = 0 → tagOk r f s = true → seqOk r f s = true →
      (st = 0 ↔ f.flags &&& ~~~r.flags = 0 ∧ ∀ z ∈ r.zero, zeros (payloadOf f) z.1 z.2 = true) ∧
      (st = 0 ∨ st = 0x03))) ∧
  (∀ (op st : Byte) (seq : BitVec 32) (p k : List Byte),
    let b := (op ||| 0x80) :: st :: leBytes 2 p.length ++ leBytes 4 seq.toNat ++ p
    responseFrame op st seq p none = b ++ List.replicate 16 0 ∧
    responseFrame op st seq p (some k) = b ++ (hmac512 k b).take 16) ∧
  ∀ s : State,
    (∀ (op : Byte) (f : Frame), knownOpcodes.contains op = false → f.addr = targetAddr s →
      stewardRuns s = true → s.cmd.busy = none → s.cmd.response = none → ∃ t : State,
      exec (.unknownCommand op f) s = .next t ∧ t.cmd.response = some (responseFrame op
        (if f.length.toNat ≤ 4096 ∧ f.body.length = f.length.toNat + 16 then 0x01 else 0x02) f.seq
        [0, 0, 0, 0] (s.session.map Session.key)) ∧
        t.session = (s.session.map fun x => { x with badTags := 0 }) ∧ SameMemory s t) ∧
    (s.cmd.response = none ∨ stewardRuns s = false →
      exec .responseRead s = .next (s.emit .i3cNack)) ∧
    (∀ b : List Byte, s.cmd.response = some b → stewardRuns s = true →
        ∃ t : State, exec .responseRead s = .next t ∧ t.cmd.busy = none ∧ t.cmd.response = none ∧
          (s.boot.resetDue = false → t.out = .i3cRead b :: s.out ∧ t.session = s.session ∧
            t.engines = s.engines ∧ SameMemory s t) ∧
          (s.boot.resetDue = true → t.engines = [] ∧ t.jobs = [] ∧ t.session = none ∧
            t.boot.resetDue = false ∧ SameMemory s t)) ∧
    (∀ (d : Deferred) (b : List Byte), stewardRuns s = true → s.cmd.busy = some d → d.work = .quote b →
      ∃ (t : State) (sig : List Byte), exec .quoteSigned s = .next t ∧ sig.length = 512 ∧
        t.cmd.busy = none ∧ t.cmd.response = some (responseFrame d.op 0 d.seq (b ++ sig) d.key)) ∧
    exec .sessionTimeout s = .next { s with session := none } ∧
    exec .openNonceExpiry s = .next { s with np := none } ∧
    ∀ slot : Fin 4, ∃ t : State, exec (.lockoutExpiry slot) s = .next t ∧
      (lockoutOf t slot).left = 0 ∧ (lockoutOf t slot).fails = (lockoutOf s slot).fails ∧
      ∀ k : Fin 4, k ≠ slot → lockoutOf t k = lockoutOf s k

/-- A command frame that the part takes and that every common check passes (R450, R452, R455, R458). -/
def Taken (r : CmdRow) (f : Frame) (s : State) : Prop :=
  f.addr = targetAddr s ∧ stewardRuns s = true ∧ s.cmd.busy = none ∧ s.cmd.response = none ∧
    frameStatus r f s = 0

/-- The key of a response to a frame (R454). -/
def tagKey (op : Byte) (s : State) : Option (List Byte) :=
  if op = 0x02 ∨ op = 0x04 then none else s.session.map Session.key

/-- A command is performed and answered OK with a payload. -/
def Done (c : Instr) (op : Byte) (f : Frame) (s t : State) (b : List Byte) : Prop :=
  exec c s = .next t ∧ t.cmd.busy = none ∧
    t.cmd.response = some (responseFrame op 0 f.seq b (tagKey op s))

/-- A command is taken on and its work is in progress. -/
def Begun (c : Instr) (op : Byte) (f : Frame) (s t : State) (w : Work) : Prop :=
  exec c s = .next t ∧ t.cmd.response = none ∧ t.cmd.busy = some ⟨op, f.seq, tagKey op s, w⟩

/-- GET_INFO, OPEN, CLOSE, CLAIM and SET_KEY complete. -/
def SessionCommandsComplete (f : Frame) (s : State) : Prop :=
  let p := payloadOf f
  let slot := fieldAt p 0 1
  let open_ := slot ≤ 3 ∧ s.session = none ∧ slotKey s slot ≠ []
  (Taken { op := 0x01, len := len 1 } f s → slot ≤ 4 → ∃ (t : State) (b : List Byte),
    Done (.getInfo f) 0x01 f s t b ∧ t.nv = s.nv ∧ SameMemory s t ∧
    (slot = 4 → b = leBytes 512 Config.transportModulus.toNat ++ leBytes 4 65537)) ∧
  (Taken { op := 0x02, len := openLen, flags := 1 } f s → f.flags.getLsbD 0 = false → open_ →
    (lockoutOf s slot).left = 0 → (slot = 3 → s.nv.ownerPolicy.getLsbD 0 = true) →
    ∃ (t : State) (x : OpenNonce), Done (.openPhase1 f) 0x02 f s t (leBytes 32 x.np.toNat) ∧
      t.np = some x ∧ x.slot.toNat = slot ∧ t.nv = s.nv ∧ SameMemory s t) ∧
  (Taken { op := 0x02, len := openLen, flags := 1 } f s → f.flags.getLsbD 0 = true → open_ → zeros p 1 3 = true →
    ∀ x : OpenNonce, s.np = some x → x.slot.toNat = slot →
    let np := leBytes 32 x.np.toNat
    let nh := bytesAt p 4 32
    let key := slotKey s slot
    bytesAt p 36 64 = hmac512 key (np ++ nh ++ leBytes 1 slot) →
    ∃ (t : State) (y : Session), exec (.openPhase2 f) s = .next t ∧ t.session = some y ∧
      y.slot.toNat = slot ∧ y.seq = 1 ∧ y.key = hmac512 key (ascii "BNSK" ++ np ++ nh ++ leBytes 1 slot) ∧
      t.cmd.busy = none ∧ t.cmd.response =
        some (responseFrame 0x02 0 f.seq (hmac512 key (nh ++ np ++ leBytes 1 slot)) (some y.key))) ∧
  (Taken { op := 0x03, slots := some [0, 1, 2, 3], len := len 0 } f s → ∃ t : State,
    Done (.close f) 0x03 f s t [] ∧ t.session = none ∧ t.nv = s.nv ∧ SameMemory s t) ∧
  (∀ k : List Byte, Taken { op := 0x04, len := len 512 } f s → s.nv.isClaimed = false → k.length = 64 →
    Config.oaepUnwrap (BitVec.ofNat 4096 (beNat (bytesAt p 0 512))) = some k → ∃ t : State,
      Done (.claim f) 0x04 f s t (hmac512 k (ascii "BNCL" ++ leBytes 16 Config.serial.toNat)) ∧
      t.nv.isClaimed = true ∧ slotKey t 0 = k) ∧
  (Taken { op := 0x05, slots := some [0], len := keyLen, zero := [(1, 3)] } f s → s.boot.recovery = false → slot ≤ 8 →
    let n := fieldAt p 4 4
    let raw := bytesAt p 8 n
    let mask := hmac512 ((s.session.map Session.key).getD []) (ascii "BNKW" ++ leBytes 4 f.seq.toNat)
    (n = if slot < 4 then 64 else 512) ∨ (n = 0 ∧ slot ≠ 0) → ∃ (t : State) (b : List Byte),
      Done (.setKey f) 0x05 f s t b ∧
      slotKey t slot = (if slot < 4 ∧ n ≠ 0 then List.zipWith (· ^^^ ·) raw mask else raw))

/-- The ledger commands, the loads and APPLY_STRUCTURE complete. -/
def LedgerAndLoadCommandsComplete (f : Frame) (s : State) : Prop :=
  let p := payloadOf f
  let last := f.flags.getLsbD 0
  let slot := fieldAt p 0 1
  let off := fieldAt p 4 4
  let d := p.drop 8
  let first := fieldAt p 0 8
  let count := fieldAt p 8 1
  (Taken { op := 0x10, len := len 9 } f s → 1 ≤ count → count ≤ 31 → oldestSeq s.nv ≤ first → first ≤ s.nv.nextSeq →
    ∃ t : State, let k := min count (s.nv.nextSeq - first)
      Done (.getLedger f) 0x10 f s t
        (leBytes 4 k ++ (List.range k).flatMap fun i => entryOf s.nv (first + i)) ∧
      t.nv.ledger = s.nv.ledger ∧ SameMemory s t) ∧
  (∀ base : Nat × BitVec 512, Taken { op := 0x11, slots := some [0, 2], len := len 8 } f s → chainBase s.nv = some base →
    base.1 ≤ first → first < s.nv.nextSeq → s.nv.lastArchived ≤ first → ∃ t : State,
      Done (.archiveLedger f) 0x11 f s t (hashBytes t.nv.headRec.head) ∧ t.nv.lastArchived = first ∧
      s.nv.headRec.seq < t.nv.headRec.seq) ∧
  (Taken { op := 0x12, len := len 32 } f s → ∃ t : State,
    Begun (.quote f) 0x12 f s t (.quote (quoteBody (BitVec.ofNat 256 (fieldAt p 0 32)) s)) ∧
    t.nv = s.nv ∧ SameMemory s t) ∧
  (Taken { op := 0x20, slots := some [0], len := loadLen, flags := 1, zero := [(1, 3)] } f s → s.boot.recovery = false → slot ≤ 1 →
    let x := s.nv.st.toList.getD slot {}
    (off = 0 ∨ off = x.data.length) → off + d.length ≤ 2097152 → ∃ t : State,
      let y := t.nv.st.toList.getD slot {}
      Done (.loadStructure f) 0x20 f s t (leBytes 4 y.data.length) ∧
      y.data = (if off = 0 then d else x.data ++ d) ∧ (last = true → y.complete = true)) ∧
  (Taken { op := 0x21, slots := some [0], len := len 1 } f s → s.boot.ready = true → slot ≤ 1 → ∀ (k : Nat) (b : Board),
    imageCheck s true (slot == 1) (s.nv.stAt (slot == 1)) = (k, some b) → ∃ t : State,
      Begun (.applyStructure f) 0x21 f s t .apply ∧ t.boot.next = some b) ∧
  (Taken { op := 0x22, slots := some [0], len := loadLen, flags := 1, zero := [(1, 3)] } f s → slot ≤ 1 →
    (s.boot.recovery = true ∨ slot ≠ if s.boot.fwslotB then 1 else 0) →
    let x := s.nv.fw.toList.getD slot {}
    (off = 0 ∨ off = x.data.length) → off + d.length ≤ 524288 → ∃ t : State,
      let y := t.nv.fw.toList.getD slot {}
      Done (.loadFirmware f) 0x22 f s t (leBytes 4 y.data.length) ∧
      y.data = (if off = 0 then d else x.data ++ d) ∧ (last = true → y.complete = true))

/-- The policies, the calibration, health and sensors: the commands complete. -/
def PolicyCommandsComplete (f : Frame) (s : State) : Prop :=
  let p := payloadOf f
  let id := fieldAt p 0 1
  let r := p.drop 8
  let w := BitVec.ofNat 64 (leNat r)
  let v := (BitVec.ofNat 32 (fieldAt p 4 4)).toInt
  (Taken { op := 0x30, slots := some (if fieldAt (payloadOf f) 0 1 = 1 then [0, 1] else [0]), len := policyLen, zero := [(1, 3)] } f s → s.boot.recovery = false →
    (id = 0 → w &&& ~~~7 = 0 → (s.nv.ownerPolicy.getLsbD 1 = true → w.getLsbD 1 = true) →
      ∃ t : State, Done (.setPolicy f) 0x30 f s t [] ∧ t.nv.ownerPolicy = w) ∧
    (id = 1 → policyOk r = true →
      (sessionSlot s = 1 → ownerFieldsDiffer (policyOf r) s.pw.policy = false) → ∃ t : State,
        Done (.setPolicy f) 0x30 f s t [] ∧ t.pw.nextPolicy = policyOf r)) ∧
  (Taken { op := 0x31, slots := some [0, 1, 2, 3], len := len 1 } f s → s.boot.recovery = false →
    (id = 0 → ∃ t : State, Done (.getPolicy f) 0x31 f s t (leBytes 8 s.nv.ownerPolicy.toNat) ∧
      t.nv = s.nv) ∧
    (id = 1 → ∃ t : State, Done (.getPolicy f) 0x31 f s t (policyRecord s.pw.policy) ∧ t.nv = s.nv)) ∧
  (Taken { op := 0x32, slots := some [0, 1], len := len 8, zero := [(1, 3)] } f s → s.boot.recovery = false → ∀ item : Fin 4, item.val = id → ∃ t : State,
    Done (.setCalibration f) 0x32 f s t (leBytes 4 (t.nv.cal[item]).toNat) ∧
    (item = 0 → (t.nv.cal[item]).toInt = max (-200) (min 200 v)) ∧
    (item = 1 → (t.nv.cal[item]).toInt = max (-50) (min 50 v))) ∧
  (Taken { op := 0x40, slots := some [0, 1, 2, 3], len := len 12, flags := 1, zero := [(5, 3)] } f s → fieldAt p 4 1 ≤ 63 → ∃ t : State,
    let hs := healthFrom s.nv (fieldAt p 0 4) (fieldAt p 4 1)
    ∃ b : List Byte, Done (.readHealth f) 0x40 f s t b ∧ b.length = 4 + 64 * hs.length ∧ SameMemory s t ∧
      ((∀ h ∈ hs, s.nv.bad (.health (h.seq % 32768)) = false) →
        b = leBytes 4 s.mg.alert.toNat ++ hs.flatMap healthBytes ∧ t.nv = s.nv)) ∧
  (Taken { op := 0x41, len := len 0 } f s → ∃ t : State,
    Done (.readSensors f) 0x41 f s t s.pw.sensors ∧ t.nv = s.nv ∧ SameMemory s t)

/-- The contexts, DEBUG_UNLOCK, the resets and SPARE_NOW: the commands complete. -/
def ContextAndResetCommandsComplete (f : Frame) (s : State) : Prop :=
  let p := payloadOf f
  let c : Byte := BitVec.ofNat 8 (fieldAt p 0 1)
  let id := fieldAt p 0 1
  let i := fieldAt p 4 4
  (Taken { op := 0x50, slots := some [0, 1], len := len 16, zero := [(1, 1)] } f s → s.boot.ready = true → (ctxPart s c).isSome = true →
    fieldAt p 2 2 ≤ 255 → (∃ k ≤ 12, fieldAt p 4 4 = 2 ^ (k + 4)) → fieldAt p 8 8 % 64 = 0 →
    fieldAt p 8 8 < 2 ^ 39 → ((s.ctx c).granted = true → ∀ j ∈ s.jobs, j.ctx = c → j.stage = .ended) →
    ∃ t : State, Done (.grantContext f) 0x50 f s t [] ∧ (t.ctx c).granted = true ∧
      (t.ctx c).base.toNat = fieldAt p 8 8 ∧ (t.ctx c).n.toNat = fieldAt p 4 4) ∧
  (Taken { op := 0x51, slots := some [0, 1], len := len 1 } f s → s.boot.ready = true →
    ((s.ctx c).granted = false ∨ ∀ j ∈ s.jobs, j.ctx ≠ c) → ∃ t : State,
      Done (.revokeContext f) 0x51 f s t [] ∧ (t.ctx c).granted = false) ∧
  (Taken { op := 0x60, slots := some [0, 3], len := fun _ _ => true } f s → s.boot.recovery = false → certCode p s = 0 → ∃ t : State,
    Done (.debugUnlock f) 0x60 f s t (leBytes 1 (fieldAt p 6 1)) ∧ t.ik.level.toNat = fieldAt p 6 1) ∧
  (Taken { op := 0x61, slots := some [0, 1], len := len 8, zero := [(1, 3)] } f s → id = 0 → ∃ t : State,
    Done (.resetDomainDevice f) 0x61 f s t [] ∧ t.boot.resetDue = true ∧ SameMemory s t) ∧
  (Taken { op := 0x61, slots := some [0, 1], len := len 8, zero := [(1, 3)] } f s → s.boot.ready = true → id = 1 → 1 ≤ i → i ≤ 8 → ∃ t : State,
    Done (.resetDomainRank f) 0x61 f s t [] ∧ (∀ a : Nat, t.hbm.get a = s.hbm.get a) ∧
    ((∀ j ∈ s.jobs, j.waiting = false) →
      (∀ n < 8, (t.sqr (8 * (i - 1) + n)).job = 0) ∧ SameMemory s t)) ∧
  (Taken { op := 0x61, slots := some [0, 1], len := len 8, zero := [(1, 3)] } f s → s.boot.ready = true → id = 2 → i < 64 → ∃ t : State,
    Done (.resetDomainSquare f) 0x61 f s t [] ∧ (∀ a : Nat, t.hbm.get a = s.hbm.get a) ∧
    ((∀ j ∈ s.jobs, j.waiting = false) → (t.sqr i).job = 0 ∧ SameMemory s t)) ∧
  (∀ e : Nat, Taken { op := 0x61, slots := some [0, 1], len := len 8, zero := [(1, 3)] } f s → s.boot.ready = true → id = 3 → i < 512 →
    engOf s i = some e → ∃ t : State,
      Done (.resetDomainEngine f) 0x61 f s t [] ∧ (t.eng e).run = .idle ∧ SameMemory s t) ∧
  (Taken { op := 0x62, slots := some [0, 1], len := len 2 } f s → s.boot.ready = true → s.board.spare ≠ 2 →
    let q := s.sqr id
    let pos := fieldAt p 1 1
    id ≤ 63 → pos ≤ 7 → spareFree q = true → q.st ≠ .failed → (lostLogical q pos).isSome = true →
    ∃ t : State, Begun (.spareNow f) 0x62 f s t (.spare id pos) ∧ SameMemory s t)

/-- O53. A frame that is taken and passes the common checks is answered OK, or its work begins, where
    the command's own conditions hold: for every command of Table 11.6. OPEN: refused with 2 in a
    session, LOCKED and EMPTY by the slot, a wrong proof is REFUSED 3 and locks the slot for
    min(2^(k-1), 3600) s, a right one opens a session at SEQ 1 with the lockout cleared. CLAIM once
    stores the key, marks the part claimed and is entered in the ledger. A load chunk restarts at
    offset 0, appends at the bytes held, and else is refused. SET_CALIBRATION clamps and stores.
    GRANT_CONTEXT sets up the ring of a context of a partition; REVOKE_CONTEXT ends its jobs and is
    answered when none is left. APPLY_STRUCTURE refuses with the code of the image or starts the
    switch. DEBUG_UNLOCK draws a new nonce, refuses by the first failing check, and else enters its
    level. RESET_DOMAIN refuses an index out of range, and a square that it returns can start a job
    that waited for it. READ_HEALTH clears alert bits whose cause is gone. The order of NOT_READY
    and the details that no rule gives are log entry 43; that RESET_DOMAIN of scope 0 answers first
    is log entry 54, and that a revocation is answered with the last record log entry 56. (R462,
    R463, R467, R469, R470, R473, R474, R478, R514, R577, R578, R627) -/
def Obligations.CommandEffects : Prop :=
  ∀ s : State,
    (∀ f : Frame, SessionCommandsComplete f s ∧ LedgerAndLoadCommandsComplete f s ∧
      PolicyCommandsComplete f s ∧ ContextAndResetCommandsComplete f s) ∧
    (∀ (slot : Nat) (p : List Byte) (x : OpenNonce), slot < 4 → s.np = some x → x.slot.toNat = slot →
      slotKey s slot ≠ [] →
      let key := slotKey s slot
      let np := leBytes 32 x.np.toNat
      let right := bytesAt p 36 64 = hmac512 key (np ++ bytesAt p 4 32 ++ leBytes 1 slot)
      let t := (openSecond slot p s).2
      t.np = none ∧
      (¬ right → (openSecond slot p s).1 = .no 0x0D 3 ∧ t.session = s.session ∧
        (lockoutOf t slot).fails = (lockoutOf s slot).fails + 1 ∧
        (lockoutOf t slot).left = min (2 ^ (lockoutOf s slot).fails) 3600 * 1000000000) ∧
      (right → (lockoutOf t slot).fails = 0 ∧ (lockoutOf t slot).left = 0 ∧
        ∃ y : Session, t.session = some y ∧ y.slot.toNat = slot ∧ y.seq = 1 ∧ y.badTags = 0 ∧
          y.key = hmac512 key (ascii "BNSK" ++ np ++ bytesAt p 4 32 ++ leBytes 1 slot))) ∧
    (∀ slot : Nat, slot < 4 →
      (slotKey s slot = [] → openFirst slot s = (.no 0x08 0, s)) ∧
      (slotKey s slot ≠ [] → (lockoutOf s slot).left ≠ 0 → ∃ d : Nat,
        openFirst slot s = (.no 0x07 d, s) ∧ (lockoutOf s slot).left ≤ d * 1000000000) ∧
      (slotKey s slot ≠ [] → (lockoutOf s slot).left = 0 → slot ≠ 3 → ∃ x : OpenNonce,
        (openFirst slot s).2.np = some x ∧ x.slot.toNat = slot ∧
        (openFirst slot s).1 = .ok (leBytes 32 x.np.toNat))) ∧
    (∀ p : List Byte, (s.nv.isClaimed = true → claim p s = (.no 0x0A 0, s)) ∧
      (∀ k : List Byte, s.nv.isClaimed = false → k.length = 64 →
        Config.oaepUnwrap (BitVec.ofNat 4096 (beNat (bytesAt p 0 512))) = some k →
        let t := (claim p s).2
        t.nv.isClaimed = true ∧ slotKey t 0 = k ∧ s.nv.headRec.seq < t.nv.headRec.seq ∧
        ∃ b : List Byte, (claim p s).1 = .ok b ∧ b.length = 64)) ∧
    (∀ (last : Bool) (p : List Byte), let slot := fieldAt p 0 1
      let off := fieldAt p 4 4
      let x := s.nv.st.toList.getD slot {}
      let t := (loadStructure last p s).2
      let y := t.nv.st.toList.getD slot {}
      slot ≤ 1 → ((off ≠ 0 ∧ off ≠ x.data.length) → loadStructure last p s = (.no 0x0D 1, s)) ∧
        (off = 0 → (p.drop 8).length ≤ 2097152 → y.data = p.drop 8 ∧ y.complete = last) ∧
        (off ≠ 0 → off = x.data.length → off + (p.drop 8).length ≤ 2097152 →
          y.data = x.data ++ p.drop 8 ∧ y.complete = (x.complete || last))) ∧
    (∀ p : List Byte, let item := fieldAt p 0 1
      let v := (BitVec.ofNat 32 (fieldAt p 4 4)).toInt
      (4 ≤ item → setCalibration p s = (.no 0x0D 1, s)) ∧
      (item = 1 → ((setCalibration p s).2.nv.cal[1]).toInt = max (-50) (min 50 v)) ∧
      (item = 0 → ((setCalibration p s).2.nv.cal[0]).toInt = max (-200) (min 200 v))) ∧
    (∀ p : List Byte, s.jobForm → let c : Byte := BitVec.ofNat 8 (fieldAt p 0 1)
      let vec := fieldAt p 2 2
      let n := fieldAt p 4 4
      let base := fieldAt p 8 8
      let sane := vec ≤ 255 ∧ (∃ k ≤ 12, n = 2 ^ (k + 4)) ∧ base % 64 = 0 ∧ base < 2 ^ 39
      let t := (grantContext p s).2
      (¬ sane → grantContext p s = (.no 0x03 0, s)) ∧
      (sane → s.boot.ready = false → grantContext p s = (.no 0x0C 0, s)) ∧
      (sane → s.boot.ready = true → ctxPart s c = none → grantContext p s = (.no 0x0D 1, s)) ∧
      (sane → s.boot.ready = true → (ctxPart s c).isSome = true → (s.ctx c).granted = false →
        (grantContext p s).1 = .ok [] ∧ (t.ctx c).granted = true ∧ (t.ctx c).base.toNat = base ∧
        (t.ctx c).n.toNat = n ∧ (t.ctx c).vec.toNat = vec ∧ (t.ctx c).head = 0 ∧ (t.ctx c).tail = 0 ∧
        (t.ctx c).measured = false) ∧
      (s.boot.ready = true → (s.ctx c).granted = false → revokeContext p s = (.ok [], s)) ∧
      (s.boot.ready = true → (s.ctx c).granted = true →
        let u := (revokeContext p s).2
        (u.ctx c).granted = false ∧ (∀ j ∈ u.jobs, j.ctx = c → j.stage = .ended) ∧
        (revokeContext p s).1 = (if u.jobs.any fun j => j.ctx == c then .later (.revoke c)
          else .ok []))) ∧
    (∀ (p : List Byte) (k : Nat) (o : Option Board), s.boot.ready = true → fieldAt p 0 1 ≤ 1 →
      imageCheck s true (fieldAt p 0 1 == 1) (s.nv.stAt (fieldAt p 0 1 == 1)) = (k, o) →
      (o = none → (applyStructure p s).1 = .no 0x0D k ∧ (applyStructure p s).2.board = s.board ∧
        (applyStructure p s).2.boot = s.boot) ∧
      ∀ b : Board, o = some b → (applyStructure p s).1 = .later .apply ∧
        (applyStructure p s).2.boot.next = some b) ∧
    (∀ p : List Byte, let k := certCode p s
      (k ≠ 0 → (debugUnlock p s).1 = .no 0x0D k ∧ (debugUnlock p s).2.ik.level = s.ik.level) ∧
      (k = 0 → (debugUnlock p s).2.ik.level.toNat = fieldAt p 6 1 ∧
        s.nv.headRec.seq < (debugUnlock p s).2.nv.headRec.seq)) ∧
    (∀ p : List Byte, let scope := fieldAt p 0 1
      let i := fieldAt p 4 4
      (scope = 0 → resetCommand p s = (.ok [], { s with boot := { s.boot with resetDue := true } })) ∧
      (s.boot.ready = true → (scope = 1 ∧ (i = 0 ∨ 8 < i)) ∨ (scope = 2 ∧ 64 ≤ i) ∨
        (scope = 3 ∧ 512 ≤ i) → resetCommand p s = (.no 0x0D 1, s)) ∧
      (s.boot.ready = true → (scope = 1 ∧ 1 ≤ i ∧ i ≤ 8) ∨ (scope = 2 ∧ i < 64) →
        (resetCommand p s).1 = .ok [] ∧ (∀ a : Nat, (resetCommand p s).2.hbm.get a = s.hbm.get a) ∧
        ((∀ j ∈ s.jobs, j.waiting = false) → SameMemory s (resetCommand p s).2))) ∧
    (∀ p : List Byte, fieldAt p 4 1 ≤ 63 → s.nv.flaws = [] →
      (readHealth true p s).2.mg.alert = (s.mg.alert &&& ~~~BitVec.ofNat 6 (fieldAt p 8 4)) |||
        (s.mg.alert &&& alertHolds s) ∧ (readHealth false p s).2.mg.alert = s.mg.alert)

/-- O54. While the management domain is up: ENTDAA gives a target without an address the address and
    sends its identity; SETDASA at the static address 0x48 + ADDR_SEL gives one to a target without
    one and is else NACKed, SETNEWDA for a target with one; RSTDAA clears it; ENEC and DISEC bit 0
    set and clear the enable of in-band interrupts, and ENEC sends those that wait; the GET codes
    send the identity values and lengths, GETSTATUS a pending interrupt while a response is ready
    and interrupts are disabled; SETMWL and SETMRL below 4120 are NACKed; ENTHDR0 and the exit
    pattern enter and leave HDR-DDR. While it is down none has an effect, whatever its operands.
    Byte orders are those of log entry 23, SETDASA with an address assigned log entry 70; a code out
    of its condition changes nothing (log entry 9). (R450, R451, R452, R456) -/
def Obligations.I3cTargetCodes : Prop :=
  ∀ s : State,
    (s.boot.powered = false → ∀ (a : BitVec 7) (z : StaticAssign) (v : Byte) (n : BitVec 16),
      ∀ c ∈ [Instr.entdaa a, .setdasa z, .setnewda a, .rstdaa, .enec v, .disec v,
        .getpid, .getbcr, .getdcr, .getstatus, .getmwl, .getmrl, .setmwl n, .setmrl n, .getmxds,
        .enthdr0, .hdrExitPattern], exec c s = .next s) ∧
    (s.boot.powered = true →
      let sends (c : Instr) (b : List Byte) : Prop := exec c s = .next (s.emit (.i3cRead b))
      let sets (c : Instr) (i : I3c) : Prop := exec c s = .next { s with i3c := i }
      let nacks (c : Instr) : Prop := exec c s = .next (s.emit .i3cNack)
      let i := s.i3c
      let pid : Nat := 0x5A3 * 2 ^ 33 + 0x9512 * 2 ^ 16 + s.pins.addrSel.toNat * 2 ^ 12
      (∀ a : BitVec 7,
        (i.da = none → ∃ t : State, exec (.entdaa a) s = .next t ∧ t.i3c = { i with da := some a } ∧
          t.out = .i3cRead (beBytes 6 pid ++ [0x26, 0x00]) :: s.out) ∧
        (i.da ≠ none → exec (.entdaa a) s = .next s ∧ nacks (.setdasa ⟨staticAddr s, a⟩) ∧
          sets (.setnewda a) { i with da := some a }) ∧
        (i.da = none → sets (.setdasa ⟨staticAddr s, a⟩) { i with da := some a } ∧ nacks (.setnewda a)) ∧
        ∀ b : BitVec 7, b.toNat ≠ 0x48 + s.pins.addrSel.toNat → exec (.setdasa ⟨b, a⟩) s = .next s) ∧
      sets .rstdaa { i with da := none } ∧
      (∀ v : Byte, sets (.disec v) { i with ibien := i.ibien && !v.getLsbD 0 } ∧
        (v.getLsbD 0 = false → exec (.enec v) s = .next s) ∧
        (v.getLsbD 0 = true → ∃ t : State, exec (.enec v) s = .next t ∧
          t.i3c = { i with ibien := true, ibiPend := [] } ∧
          t.out = (i.ibiPend.map Out.ibi).reverse ++ s.out)) ∧
      sends .getpid (beBytes 6 pid) ∧ sends .getbcr [0x26] ∧ sends .getdcr [0x00] ∧
      sends .getmwl (beBytes 2 i.mwl.toNat) ∧ sends .getmrl (beBytes 2 i.mrl.toNat ++ [0x01]) ∧
      sends .getstatus [0x00, if s.cmd.response.isSome = true ∧ i.ibien = false then 0x01 else 0x00] ∧
      (∀ n : BitVec 16, (n.toNat < 4120 → nacks (.setmwl n) ∧ nacks (.setmrl n)) ∧
        (4120 ≤ n.toNat → sets (.setmwl n) { i with mwl := n } ∧ sets (.setmrl n) { i with mrl := n })) ∧
      (∃ (t : State) (b : Byte), exec .getmxds s = .next t ∧ t.out = .i3cRead [0x00, b &&& 0x78] :: s.out ∧
        t.i3c = i) ∧
      sets .enthdr0 { i with hdr := true } ∧ sets .hdrExitPattern { i with hdr := false })

/-- O55. A CXL.mem access through the window reaches physical HBM: a read of a good line returns its 64
    bytes, one of an uncorrectable line is poisoned, one above 384 GiB is all ones and unsupported,
    which AER notes; a write changes the enabled bytes and no other; an access outside the committed
    window has no effect (log entry 51). A snoop gets a miss. CXL_HBASE keeps bits 63:18, and
    HB_HOSTBASE is its copy. A completion ends the request of its tag: read data goes to the
    requester with status 0 or 4, and bad read data counts. A link comes up, in recovery too (log
    entry 75), with CXL at rate 4 or faster on width code 2 or wider, and down it drops window,
    keys, rate and BARs; MSI_X_UNMASK clears its mask bit and sends the message that waits, with
    address and data of its table entry. A host write to the doorbell page of a context that is not
    granted counts, whatever its offset and size; one to the configuration space or the MSI-X table
    writes them by the layouts of log entry 21. While the link is up and the steward runs, SPDM
    answers with the quote body, or the certificate and a signature, and a key of IDE is held by the
    port. What a link loss resets is log entry 51; a request that its condition does not let in
    changes nothing (log entry 9). (R518, R519, R520, R521, R522, R524, R525, R526, R529, R534) -/
def Obligations.HostPortResults : Prop :=
  ∀ s : State,
    (∀ (addr mask : Word) (data : BitVec 512),
      s.boot.ready = true → s.boot.recovery = false → s.cxl.up = true → s.cxl.cxl = true →
      s.cxl.perst = false →
      let d := s.cxl.hdm
      let inside := d.on = true ∧ d.committed = true ∧ d.base.toNat ≤ addr.toNat ∧
        addr.toNat < d.base.toNat + d.size.toNat
      let pa := (addr.toNat - d.base.toNat) / 64 * 64
      (¬ inside → exec (.cxlMemRead addr) s = .next s ∧
        ∀ poison : Bool, exec (.cxlMemWrite addr mask data poison) s = .next s) ∧
      (inside → hbmBytes ≤ pa → exec (.cxlMemRead addr) s = .next
          ({ s with cxl := { s.cxl with cfg := { s.cxl.cfg with aerUnc := s.cxl.cfg.aerUnc ||| 0x100000 } } }.emit
            (.cxlUnsupported (BitVec.allOnes 512))) ∧
        ∀ poison : Bool, exec (.cxlMemWrite addr mask data poison) s = .next s) ∧
      (inside → pa < hbmBytes → cleanHbm s pa →
        (∃ d : BitVec 512, exec (.cxlMemRead addr) s = .next (s.emit (.cxlData d false)) ∧
          ∀ i < 64, d.extractLsb' (8 * i) 8 = s.hbm.get (pa + i)) ∧
        (∃ t : State, exec (.cxlMemWrite addr mask data false) s = .next t ∧
          (∀ i < 64, t.hbm.get (pa + i) =
            if mask.getLsbD i then data.extractLsb' (8 * i) 8 else s.hbm.get (pa + i)) ∧
          (∀ a : Nat, (a < pa ∨ pa + 64 ≤ a) → t.hbm.get a = s.hbm.get a) ∧
          ∀ a : Nat, t.tile.get a = s.tile.get a)) ∧
      (inside → pa < hbmBytes → unreachable s.hub pa = true ∨ pa / 64 ∈ s.poison → ∃ (t : State) (d : BitVec 512),
        exec (.cxlMemRead addr) s = .next t ∧ t.out = .cxlData d true :: s.out ∧ SameMemory s t)) ∧
    (∀ a : Word, hostOpen s = true → exec (.hostSnoop a) s = .next (s.emit .cxlSnoopMiss)) ∧
    (∀ v : Word, (barOpen s = true → exec (.cxlHbaseWrite v) s =
        .next { s with cxl := { s.cxl with hbase := v &&& 0xFFFFFFFFFFFC0000 } }) ∧
      (barOpen s = false → exec (.cxlHbaseWrite v) s = .next s)) ∧
    (stewardRuns s = true → exec .hbHostbaseCopy s =
      .next { s with hub := { s.hub with hostbase := s.cxl.hbase } }) ∧
    (∀ (tag : BitVec 32) (st : HostStatus) (data : BitVec 512),
      (reqOf true tag s = none → exec (.cxlCacheCompletion tag st data) s = .next s) ∧
      (∀ (r : Req) (e : Nat), reqOf true tag s = some r → r.who = .engine e → r.write = false →
        r.acc ≠ 5 → r.acc ≠ 6 → ∃ t : State, exec (.cxlCacheCompletion tag st data) s = .next t ∧
          (∀ q ∈ t.reqs, q.tag ≠ tag) ∧
          SMap.get ⟨9, 0⟩ (t.eng e).resp (respKey r.va r.mask) = ⟨if st = .ok then 0 else 4, data⟩ ∧
          t.cxl.poisonrx = (if st = .ok then s.cxl.poisonrx else satInc s.cxl.poisonrx) ∧
          SameMemory s t)) ∧
    (∀ width speed : BitVec 3, s.cxl.up = false → s.cxl.perst = false → s.boot.powered = true →
      heldReset s = false →
      (∃ t : State, exec (.cxlLinkUp width speed) s = .next t ∧ t.cxl.up = true ∧
        t.cxl.width = width ∧ t.cxl.speed = speed ∧
        t.cxl.cxl = decide (4 ≤ speed.toNat ∧ 2 ≤ width.toNat) ∧
        ∀ v : Byte, t.cxl.msixPend.getLsbD v.toNat =
          (s.cxl.msixPend.getLsbD v.toNat && s.cxl.msixMask.getLsbD v.toNat))) ∧
    (s.cxl.up = true → ∃ t : State, exec .cxlLinkDown s = .next t ∧ t.cxl.up = false ∧
      t.cxl.cxl = false ∧ t.cxl.ide = false ∧ t.cxl.hdm = {} ∧ t.cxl.ideKeys = [] ∧
      t.cxl.cfg.command = 0 ∧ t.cxl.cfg.bar0 = 0 ∧ t.cxl.cfg.bar2 = 0 ∧
      t.cxl.linkdown = satInc s.cxl.linkdown ∧ t.cxl.hbase = s.cxl.hbase ∧ SameMemory s t) ∧
    (∀ v : Byte, barOpen s = true → ∃ t : State, exec (.msiXUnmask v) s = .next t ∧
      t.cxl.msixMask.getLsbD v.toNat = false ∧ t.cxl.msixPend.getLsbD v.toNat = false ∧
      (s.cxl.msixPend.getLsbD v.toNat = true → let m := SMap.get (0, 0) s.cxl.msixTable v.toNat
        .msix v m.1 m.2 ∈ t.out)) ∧
    (∀ (c : Byte) (n : Nat) (a v : Word), a.toNat / 0x1000 = c.toNat → barOpen s = true →
      (s.ctx c).granted = false → exec (.registerWrite (.hostDoorbell n) a v) s =
        .next { s with cxl := { s.cxl with dbdrop := satInc s.cxl.dbdrop } }) ∧
    (∀ (vec : Byte) (v : Word), barOpen s = true → ∃ t : State,
      exec (.registerWrite .host (BitVec.ofNat 64 (0xA000 + 16 * vec.toNat)) v) s = .next t ∧
      (SMap.get (0, 0) t.cxl.msixTable vec.toNat).1 = v &&& 0xFFFFFFFFFFFFFFFC ∧
      t.cxl.msixMask = s.cxl.msixMask ∧ t.out = s.out) ∧
    (∀ v : Word, s.cxl.up = true → s.cxl.perst = false → ∃ t : State,
      exec (.registerWrite .hostConfig 0x10 v) s = .next t ∧
      t.cxl.cfg.bar0 = v &&& 0xFFFFFFFFFFF00000 ∧ SameMemory s t ∧ t.hub = s.hub) ∧
    (s.cxl.up = true → stewardRuns s = true →
      (∀ nonce : BitVec 256,
        exec (.spdmGetMeasurements nonce) s = .next (s.emit (.spdm (quoteBody nonce s))) ∧
        ∃ (t : State) (sig : List Byte), exec (.spdmChallenge nonce) s = .next t ∧ sig.length = 512 ∧
          t.out = .spdm (Config.attestCert ++ sig) :: s.out) ∧
      ∀ (n : Byte) (key : BitVec 256), ∃ t : State, exec (.ideKmKeyProg n key) s = .next t ∧
        t.cxl.ide = true ∧ (n, key) ∈ t.cxl.ideKeys ∧ (∀ k : BitVec 256, (n, k) ∈ t.cxl.ideKeys → k = key) ∧
        t.nv = s.nv)

/-- The request of a packet reaches HBM at a sector for its node, and no error lies there. -/
def ServedAt (s : State) (p : FrxPacket) (pa : Nat) : Prop :=
  p.dst = s.frx.node ∧ pa = (p.addrH.toNat % 2 ^ 23 * 65536 + fieldAt p.payload 0 2) / 64 * 64 ∧
    remoteMay s p.src (pa / 2 ^ 18) = true ∧ cleanHbm s pa

/-- The answer to a request: it leaves as a packet of its type, status, tag and payload, or is counted as
    discarded when no link takes it. -/
def Answered (s t : State) (p : FrxPacket) (typ st : Byte) (payload : List Byte) : Prop :=
  (∃ (i : Nat) (q : FrxPacket), t.out.head? = some (.frx i q) ∧ q.dst = p.src ∧ q.src = s.frx.node ∧
    q.typ = typ ∧ q.code = st ∧ q.tag = p.tag ∧ q.payload = payload) ∨
  (t.out = s.out ∧ t.frx.drop = satInc s.frx.drop)

/-- O56. A flit with a bad CRC on a link that is up is asked for again and counted, and fails the link
    after 8 failures in a row (the ninth, log entry 52); a good one clears them, takes what it
    acknowledges from the replay buffer, and moves the sequence on where it carries packets in
    sequence. Training brings a link up with its peer, but not in recovery; a loss takes it down
    with what was under way on it; with nothing to send again no other link changes. A request of a
    node that may reach its page is served at its sector: a read answers the enabled bytes, a write
    changes them alone, an AMO answers the old doubleword and stores its result; any other is DENIED
    and counted. An answer ends the request of its tag, or is late; a request that times out ends
    with status 5. A strip of no inbound tunnel is denied, else it lands while the queue has room
    and its engine runs a job of the tunnel's context, or waits. A FREEZE notice freezes its chain,
    READY is noted while it is frozen, ABORT leaves it not frozen. That waiting strips stay in the
    port is log entry 37, that a link stays down in recovery log entry 70; a row out of its
    condition changes nothing (log entry 9). (R400, R403, R536, R537, R539, R545, R546, R547, R548,
    R553, R554, R555) -/
def Obligations.FrarixResults : Prop :=
  ∀ (link : Fin 8) (s : State),
    let l := frxLink s link
    (∀ f : Flit,
      (l.st ≠ 2 → exec (.flitReceive link f) s = .next s) ∧
      (l.st = 2 → f.crc ≠ Config.flitCrc (flitBits f) → ∃ t : State,
        exec (.flitReceive link f) s = .next t ∧ .frxNak link l.rxSeq ∈ t.out ∧
        (frxLink t link).retry = satInc l.retry ∧
        (l.fails < 8 → frxLink t link = { l with retry := satInc l.retry, fails := l.fails + 1 } ∧
          t.out = .frxNak link l.rxSeq :: s.out) ∧
        (8 ≤ l.fails → (frxLink t link).st = 3 ∧ (frxLink t link).replay = [] ∧ (frxLink t link).tx = [])) ∧
      (l.st = 2 → f.crc = Config.flitCrc (flitBits f) → ∃ t : State,
        exec (.flitReceive link f) s = .next t ∧ (frxLink t link).fails = 0 ∧
        (frxLink t link).st = 2 ∧ (frxLink t link).ackSeq = f.ackseq ∧ (frxLink t link).retry = l.retry ∧
        (frxLink t link).rxSeq = (if f.ftype = 1 ∧ f.seq = l.rxSeq then l.rxSeq + 1 else l.rxSeq) ∧
        ((∀ h ∈ l.replay, h.seq ≠ f.ackseq) → (frxLink t link).replay = l.replay) ∧
        ∀ (pre post : List Flit) (h : Flit), l.replay = pre ++ h :: post → h.seq = f.ackseq →
          (∀ k ∈ pre, k.seq ≠ f.ackseq) → (frxLink t link).replay = post)) ∧
    (let calm := s.frx.notices = [] ∧ ∀ k : Fin 8, (frxLink s k).back = []
     (∀ peer : BitVec 16, s.boot.powered = true → s.boot.recovery = true →
      exec (.frxLinkTrained link peer) s = .next s) ∧
    (∀ peer : BitVec 16, s.boot.powered = true → s.boot.recovery = false → heldReset s = false → ∃ t : State,
      exec (.frxLinkTrained link peer) s = .next t ∧ (frxLink t link).st = 2 ∧
      (frxLink t link).peer = peer ∧ (frxLink t link).peerv = true ∧
      (frxLink t link).replay = [] ∧
      (calm → ∀ k : Fin 8, k ≠ link → frxLink t k = frxLink s k)) ∧
    (∃ t : State, exec (.frxLinkLoss link) s = .next t ∧ (frxLink t link).st = 0 ∧
      (frxLink t link).replay = [] ∧ (frxLink t link).tx = [] ∧ (frxLink t link).retry = l.retry ∧
      (calm → l.flight = [] → l.waiting = [] →
        ∀ k : Fin 8, k ≠ link → frxLink t k = frxLink s k))) ∧
    (∀ p : FrxPacket, p.dst = s.frx.node → (l.st = 2 ∨ p.src = s.frx.node) →
      let mask : BitVec 64 := BitVec.ofNat 64 (fieldAt p.payload 8 8)
      (∀ pa : Nat, ServedAt s p pa →
        (p.typ = 1 → ∃ t : State, exec (.frxReadRequest link p) s = .next t ∧ SameMemory s t ∧
          Answered s t p 5 0
            ((List.range 64).map fun i => if mask.getLsbD i then s.hbm.get (pa + i) else 0)) ∧
        (p.typ = 2 → ∃ t : State, exec (.frxWriteRequest link p) s = .next t ∧ Answered s t p 6 0 [] ∧
          (∀ i < 64, t.hbm.get (pa + i) =
            if mask.getLsbD i then (bytesAt p.payload 16 64).getD i 0 else s.hbm.get (pa + i)) ∧
          ∀ a : Nat, (a < pa ∨ pa + 64 ≤ a) → t.hbm.get a = s.hbm.get a) ∧
        (p.typ = 3 → ∃ t : State, exec (.frxAmoRequest link p) s = .next t ∧
          let at' := pa + maskOffset mask / 8 * 8
          let old : Word := BitVec.ofNat 64 (leNat (s.hbm.bytes at' 8))
          Answered s t p 5 0 (leBytes 8 old.toNat) ∧
          t.hbm.bytes at' 8 = leBytes 8
            (amoOp (p.code.toNat - 2) old (BitVec.ofNat 64 (fieldAt p.payload 16 8))).toNat ∧
          ∀ a : Nat, (a < at' ∨ at' + 8 ≤ a) → t.hbm.get a = s.hbm.get a) ∧
        (p.typ = 4 → ∃ (t : State) (st : Nat) (v : Option Nat) (sat : Bool),
          let at' := pa + maskOffset mask / 16 * 16
          exec (.frxDamoRequest link p) s = .next t ∧
          damo sat (leNat (s.hbm.bytes at' 16)) (fieldAt p.payload 16 16) = (st, v) ∧
          Answered s t p 5 0 (leBytes 8 st) ∧ (v = none → SameMemory s t) ∧
          (∀ n : Nat, v = some n → t.hbm.bytes at' 16 = leBytes 16 n) ∧
          ∀ a : Nat, (a < at' ∨ at' + 16 ≤ a) → t.hbm.get a = s.hbm.get a)) ∧
      (remoteMay s p.src (reqAddr p / 2 ^ 18) = false → ∀ c ∈ [Instr.frxReadRequest link p,
          .frxWriteRequest link p, .frxAmoRequest link p, .frxDamoRequest link p], ∃ t : State,
        exec c s = .next t ∧ t.frx.denied = satInc s.frx.denied ∧ SameMemory s t ∧
        Answered s t p (if p.typ = 2 then 6 else 5) 3 []) ∧
      (∀ c ∈ [Instr.frxResponse link p, .frxWriteAcknowledge link p],
        (reqOf false p.tag s = none → ∃ t : State, exec c s = .next t ∧
          t.frx.late = satInc s.frx.late ∧ t.engines = s.engines ∧ SameMemory s t) ∧
        (∀ r : Req, reqOf false p.tag s = some r → ∃ t : State, exec c s = .next t ∧
          (∀ q ∈ t.reqs, q.tag ≠ r.tag) ∧ t.frx.late = s.frx.late ∧
          ∀ e : Nat, r.who = .engine e → r.write = false → r.acc ≠ 5 → r.acc ≠ 6 →
            (SMap.get ⟨9, 0⟩ (t.eng e).resp (respKey r.va r.mask)).status = p.code)) ∧
      (let tun := s.board.tunnels.find? fun t =>
          t.inbound && t.node == p.src && t.rtun == p.tag.extractLsb' 16 6
       (tun = none → ∃ t : State, exec (.frxStrip link p) s = .next t ∧
          t.frx.denied = satInc s.frx.denied ∧ t.engines = s.engines) ∧
       ∀ x : Tunnel, tun = some x → SMap.get [] s.frx.inWait x.num = [] → ∃ t : State,
          exec (.frxStrip link p) s = .next t ∧ t.frx.denied = s.frx.denied ∧ SameMemory s t ∧
          let (n, q) := inboundEnd x
          ((wireDests s 512 n = [] ∨ chainAborted s n = true) →
            SMap.get [] t.frx.inWait x.num = [stripOf p] ∧ t.engines = s.engines) ∧
          ∀ d : Nat, wireDests s 512 n = [d] → chainAborted s n = false →
            tunnelCtx (s.eng d) x = true → cqFrozen (s.eng d) = false → queueRoom (s.eng d) q 0 = true →
            SMap.get [] t.frx.inWait x.num = [] ∧ ((t.eng d).cq.toList.getD q {}).strips =
              ((s.eng d).cq.toList.getD q {}).strips ++ [stripOf p]) ∧
      (let tun := s.board.tunnels.find? fun t => t.node == p.src && t.rtun == p.tag.extractLsb' 16 6
       (tun = none → ∀ c ∈ [Instr.frxFreezeNotice link p, .frxReadyNotice link p, .frxAbortNotice link p],
          exec c s = .next s) ∧
       ∀ (x : Tunnel) (k : Nat), tun = some x → tunnelChain s x = some k →
          (∃ t : State, exec (.frxFreezeNotice link p) s = .next t ∧ SameMemory s t ∧
            ((chainSt s k).frozen = false → (∃ u ∈ chainTunnels s k, True) →
              (chainSt t k).frozen = true ∧ (chainSt t k).cause = 5)) ∧
          ((chainSt s k).frozen = false → exec (.frxReadyNotice link p) s = .next s) ∧
          ((chainSt s k).frozen = true → ∃ t : State, exec (.frxReadyNotice link p) s = .next t ∧
            ((chainSt t k).frozen = true → x.num ∈ (chainSt t k).readyIn) ∧ SameMemory s t) ∧
          (∃ t : State, exec (.frxAbortNotice link p) s = .next t ∧ (chainSt t k).frozen = false ∧
            SameMemory s t))) ∧
    ∀ tag : BitVec 32,
      (reqOf false tag s = none → exec (.frxRequestTimeout tag) s = .next s) ∧
      (∀ r : Req, reqOf false tag s = some r → ∃ t : State, exec (.frxRequestTimeout tag) s = .next t ∧
        t.frx.timeout = satInc s.frx.timeout ∧ (∀ q ∈ t.reqs, q.tag ≠ r.tag) ∧
        ∀ e : Nat, r.who = .engine e → r.write = false → r.acc ≠ 5 → r.acc ≠ 6 →
          (SMap.get ⟨9, 0⟩ (t.eng e).resp (respKey r.va r.mask)).status = 5)

/-- A new frame reaches its register: the port answers, the toggle is the expected one, no error keeps
    an access-port frame back, and the check of a write holds. -/
def NewFrame (s : State) (kind : BitVec 2) (reg : BitVec 4) (f : IkFrame) : Prop :=
  s.boot.powered = true ∧ s.ik.synced = true ∧ f.tog = s.ik.tog ∧ (kind.getLsbD 1 = true → s.ik.err = false) ∧
    (kind.getLsbD 0 = true → f.chk = crc4 (ikHeader kind reg f.tog) f.data)

/-- A command is one frame of a kind and a register. -/
def IsFrame (f : IkFrame) (c : Instr) (kind : BitVec 2) (reg : BitVec 4) : Prop :=
  c = .ikFrame kind reg f ∨
    (c, kind, reg) ∈ [(Instr.drop f, (1 : BitVec 2), (1 : BitVec 4)), (.abort f, 1, 1), (.halt f, 3, 0),
      (.resume f, 3, 0), (.step f, 3, 0), (.ikInstr f, 3, 2), (.ikRdata false f, 2, 4), (.ikRdata true f, 3, 4),
      (.ikCdata false f, 2, 7), (.ikCdata true f, 3, 7), (.ikMdata false f, 2, 3), (.ikMdata true f, 3, 3),
      (.ikTdata f, 2, 3), (.ikCnt f, 2, 5)]

/-- The port has accepted a frame: it answers ACCEPT, the data of a read with the check of its frame, and the
    expected toggle has inverted. -/
def Accepted (s t : State) (hdr : Byte) (sent : BitVec 32) (data : Option (BitVec 32)) : Prop :=
  t.out = .ik 5 (data.map (ikData hdr)) :: s.out ∧ t.ik.tog = !s.ik.tog ∧ t.ik.last = some (hdr, sent)

/-- O57. A resync synchronises the port, clears ERR and the toggle; before it no frame is answered.
    While ERR is 1 an access-port frame gets ERROR. A frame with the other toggle repeats the answer
    to the last accepted frame or gets ERROR with CODE 7. A new write with a bad check is accepted,
    not performed, CODE 1. A level that does not allow it gives DENIED, an absent target ERROR with
    CODE 5, a reserved register CODE 7. IK_ID reads 0x9512B001, IK_SELECT takes its fields,
    IK_CTL.DROP ends the level as the expiry of its duration does, and IK_CTL.ABORT abandons reads
    in flight with CODE 6. Read data goes with the check of its frame. The order of these checks and
    that ERR comes before a repeat are log entry 48, that what is in flight completes before the
    level falls is log entry 71, and an expiry whose duration has not passed changes nothing by log
    entries 1 and 9. (R615, R616, R618, R619, R621, R622, R624, R629, R630, R631, R652) -/
def Obligations.DebugFrames : Prop :=
  ∀ (s : State) (f : IkFrame),
    (s.boot.powered = true → exec .ikResync s =
      .next { s with ik := { s.ik with synced := true, tog := false, err := false } }) ∧
    (∀ (c : Instr) (k : BitVec 2) (r : BitVec 4), IsFrame f c k r →
      let hdr := ikHeader k r f.tog
      let fails (code : BitVec 3) : State :=
        ({ s with ik := { s.ik with err := true, code := code } }).emit (.ik 3 none)
      (s.boot.powered = false ∨ s.ik.synced = false → exec c s = .next (s.emit (.ik 7 none))) ∧
      (s.boot.powered = true → s.ik.synced = true →
        (k.getLsbD 1 = true → s.ik.err = true → exec c s = .next (s.emit (.ik 3 none))) ∧
        (f.tog ≠ s.ik.tog → (k.getLsbD 1 = true → s.ik.err = false) →
          (∀ d : BitVec 32, s.ik.last = some (hdr, d) →
            exec c s = .next (s.emit (.ik 5 (if k.getLsbD 0 then none else some (d, crc4 hdr d))))) ∧
          ((∀ p : Byte × BitVec 32, s.ik.last = some p → p.1 ≠ hdr) → exec c s = .next (fails 7)))) ∧
      (NewFrame s k r f →
        (k.getLsbD 1 = false → 4 < r.toNat → exec c s = .next (fails 7)) ∧
        (k.getLsbD 1 = true → readAgain (k.getLsbD 0) hdr s = none →
          (levelAllows s r.toNat (k.getLsbD 0) = false →
            exec c s = .next (s.emit (.ik 0 none))) ∧
          (levelAllows s r.toNat (k.getLsbD 0) = true →
            (selected s = .absent → exec c s = .next (fails 5)) ∧
            (selected s ≠ .absent → portRegs (selected s) ≤ r.toNat → exec c s = .next (fails 7)))))) ∧
    (∀ r : BitVec 4, r.toNat ≤ 4 → s.boot.powered = true → s.ik.synced = true → f.tog = s.ik.tog →
      f.chk ≠ crc4 (ikHeader 1 r f.tog) f.data → ∃ t : State, exec (.ikFrame 1 r f) s = .next t ∧
        Accepted s t (ikHeader 1 r f.tog) f.data none ∧ t.ik.err = true ∧ t.ik.code = 1 ∧
        t.ik.level = s.ik.level ∧ t.ik.port = s.ik.port ∧ t.ik.flights = s.ik.flights ∧ SameMemory s t) ∧
    (NewFrame s 0 0 f → ∃ t : State, exec (.ikFrame 0 0 f) s = .next t ∧
      Accepted s t (ikHeader 0 0 f.tog) 0x9512B001 (some 0x9512B001)) ∧
    (NewFrame s 1 3 f → ∃ t : State, exec (.ikFrame 1 3 f) s = .next t ∧
      Accepted s t (ikHeader 1 3 f.tog) f.data none ∧ t.ik.port = f.data.setWidth 4 ∧
      t.ik.sq = f.data.extractLsb' 8 6 ∧ t.ik.pos = f.data.extractLsb' 16 4 ∧
      t.ik.nw = f.data.extractLsb' 24 3 ∧ t.ik.err = s.ik.err ∧ t.ik.level = s.ik.level) ∧
    (NewFrame s 1 2 f → ∃ t : State, exec (.ikFrame 1 2 f) s = .next t ∧
      t.ik.err = (s.ik.err && !f.data.getLsbD 2)) ∧
    (NewFrame s 1 1 f → f.data.getLsbD 1 = false → f.data.getLsbD 2 = true →
      ∃ t : State, exec (.drop f) s = .next t ∧ t.ik.level = 0 ∧
        (s.ik.level = 2 → s.ik.flights = [] → ∀ p ∈ t.engines, p.2.dbg.frz = 15 ∧ p.2.dbg.haltBrk = false ∧
          p.2.dbg.haltReq = false ∧ p.2.dbg.step = false)) ∧
    (NewFrame s 1 1 f → f.data.getLsbD 1 = true → f.data.getLsbD 2 = false →
      (∀ p ∈ s.ik.flights, p.2.header.getLsbD 5 = false ∧ p.2.fed = []) → ∃ t : State, exec (.abort f) s = .next t ∧
        (∀ p ∈ t.ik.flights, p.2.done = true) ∧ t.ik.consume = f.data.getLsbD 0 ∧ SameMemory s t ∧
        ((∃ p ∈ s.ik.flights, p.2.done = false) → t.ik.err = true ∧ t.ik.code = 6)) ∧
    (s.ik.level = 0 ∨ s.ik.duration = 0 ∨
        s.mg.timebase.toNat < s.ik.unlocked.toNat + s.ik.duration.toNat * 1000000000 →
      exec .debugDurationExpiry s = .next s) ∧
    (s.ik.level ≠ 0 → s.ik.duration ≠ 0 →
        s.ik.unlocked.toNat + s.ik.duration.toNat * 1000000000 ≤ s.mg.timebase.toNat → ∃ t : State, exec .debugDurationExpiry s = .next t ∧
      t.ik.level = 0)

/-- FULL debug with a core port on a powered engine. -/
def DebugsEngine (s : State) (e : Nat) : Prop :=
  s.ik.level = 2 ∧ s.ik.port = 9 ∧ s.ik.pos.toNat < 9 ∧ e = s.ik.sq.toNat * 9 + s.ik.pos.toNat ∧
    enginePowered s s.ik.sq.toNat s.ik.pos.toNat = true

/-- The one access in flight is of a register of the selected access port. -/
def InFlight (s : State) (wr : Bool) (reg : BitVec 4) (d : BitVec 32) : Prop :=
  ∃ tog : Bool, s.ik.flights =
    [(selectedKey s,
      { header := ikHeader (if wr then 3 else 2) reg tog, data := d, args := flightArgs s (selected s) })]

/-- What IK_ACCESS_DONE has made of the one read in flight: its data is ready for the repeated frame. -/
def ReadsBack (s t : State) (d : BitVec 32) : Prop :=
  (∃ fl : IkFlight, t.ik.flights = [(selectedKey s, fl)] ∧ fl.done = true ∧ fl.result = d) ∧
    t.ik.err = s.ik.err ∧ SameMemory s t

/-- O58. HALT, RESUME and STEP in IK_CCTL act on the engine and its twin; at an open boundary the
    request halts it with REASON 1 and no reservation. STEP lets the steward core run to the
    CORE_HALTED of its one instruction. A read of a data register is answered BUSY, then ACCEPT with
    the data once it is done, whatever the level has become; a write is accepted and stays in
    flight. IK_INSTR is never answered BUSY: its word waits behind what is in flight. Done, IK_RDATA
    has read or written a half of a register, a misaligned PC write has CODE 4; a fed ADD has
    written its sum and left the PC; a fed branch is refused with CODE 4; IK_CDATA has the word of
    the tile store at IK_CADDR, which advances; IK_MDATA has read or written 4 bytes of HBM;
    IK_TDATA and IK_CNT have the trace word and the counter half. CORE_HALTED with no request
    changes nothing by log entry 9; the order of the answers is log entry 48, what an access goes by
    log entry 71, REASON after a resume log entry 47. (R620, R632, R635, R636, R637, R638, R639,
    R640, R645, R646, R650, R651) -/
def Obligations.DebugAccess : Prop :=
  ∀ (s : State) (f : IkFrame) (e : Nat),
    let key := selectedKey s
    let flight (wr : Bool) (reg : BitVec 4) : IkFlight :=
      { header := ikHeader (if wr then 3 else 2) reg f.tog, data := f.data, args := flightArgs s (selected s) }
    (NewFrame s 3 0 f → DebugsEngine s e → f.data.getLsbD 0 = true → f.data.getLsbD 1 = false →
      f.data.getLsbD 2 = false → (s.eng e).dbg.halted = false → ∃ t : State, exec (.halt f) s = .next t ∧
        (t.eng e).dbg.haltReq = true ∧ (t.eng e).dbg.halted = false ∧
        (t.eng e).dbg.frz = f.data.extractLsb' 8 4 ∧ (t.eng e).dbg.haltBrk = f.data.getLsbD 3 ∧
        (∀ u : Nat, twinOf s e = some u → (s.eng u).dbg.halted = false → (t.eng u).dbg.haltReq = true)) ∧
    (∀ u : Eng, u.val = e →
      ((s.eng e).dbg.haltReq = false ∨ (s.eng e).dbg.halted = true →
        exec (.coreHalted (.engine u)) s = .next s) ∧
      ((s.eng e).dbg.haltReq = true → (s.eng e).dbg.halted = false → mayHalt (s.eng e) = true →
        (s.eng e).wfi = false → ∃ t : State, exec (.coreHalted (.engine u)) s = .next t ∧
          (t.eng e).dbg.halted = true ∧ (t.eng e).dbg.reason = 1 ∧ (t.eng e).dbg.haltReq = false ∧
          (t.eng e).resv = none ∧ (t.eng e).pc = (s.eng e).pc ∧ (t.eng e).g = (s.eng e).g ∧
          SameMemory s t)) ∧
    (s.ik.steward.haltReq = true ∨ s.ik.steward.step = true → s.ik.steward.halted = false → ∃ t : State,
      exec (.coreHalted .steward) s = .next t ∧ t.ik.steward.halted = true ∧
        t.ik.steward.reason = if s.ik.steward.haltReq then 1 else 3) ∧
    (NewFrame s 3 0 f → s.ik.level = 2 → s.ik.port = 0 → f.data.getLsbD 0 = false → f.data.getLsbD 1 = false →
      f.data.getLsbD 2 = true → s.ik.steward.halted = true → s.ik.steward.bites = 0 → ∃ t : State,
        exec (.step f) s = .next t ∧ t.ik.steward.halted = false ∧ t.ik.steward.step = true) ∧
    (NewFrame s 3 0 f → DebugsEngine s e → f.data.getLsbD 0 = false → (s.eng e).dbg.halted = true →
      (s.eng e).dbg.bites = 0 → twinOf s e = none →
      (f.data.getLsbD 1 = true → f.data.getLsbD 2 = false → ∃ t : State, exec (.resume f) s = .next t ∧
        (t.eng e).dbg.halted = false ∧ (t.eng e).dbg.step = false ∧ (t.eng e).dbg.reason = 0 ∧
        (t.eng e).pc = (s.eng e).pc) ∧
      (f.data.getLsbD 1 = false → f.data.getLsbD 2 = true → (s.eng e).run = .running → ∃ t : State,
        exec (.step f) s = .next t ∧ (t.eng e).dbg.halted = false ∧ (t.eng e).dbg.step = true ∧
        (t.eng e).pc = (s.eng e).pc)) ∧
    (∀ (c : Instr) (k : BitVec 2) (r : BitVec 4), IsFrame f c k r → k.getLsbD 1 = true →
      NewFrame s k r f → levelAllows s r.toNat (k.getLsbD 0) = true →
      r.toNat < portRegs (selected s) →
      startsAccess (selected s) r.toNat (k.getLsbD 0) = true →
      (wrongState s (selected s) = true → s.ik.flights = [] → ∃ t : State, exec c s = .next t ∧
        t.out = .ik 3 none :: s.out ∧ t.ik.err = true ∧ t.ik.code = 5 ∧ t.ik.flights = []) ∧
      (wrongState s (selected s) = false → s.ik.flights = [] → ∃ t : State, exec c s = .next t ∧
        t.ik.flights = [(key, flight (k.getLsbD 0) r)] ∧ SameMemory s t ∧ t.engines = s.engines ∧
        (k.getLsbD 0 = false → t.out = .ik 6 none :: s.out ∧ t.ik.tog = s.ik.tog) ∧
        (k.getLsbD 0 = true → Accepted s t (ikHeader k r f.tog) f.data none)) ∧
      (∀ fl : IkFlight, s.ik.flights = [(key, fl)] →
        (fl.done = false → exec c s = .next (s.emit (.ik 6 none))) ∧
        (fl.done = true → fl.header = ikHeader k r f.tog → k.getLsbD 0 = false → ∃ t : State,
          exec c s = .next t ∧ Accepted s t fl.header fl.result (some fl.result) ∧ t.ik.flights = [] ∧
          SameMemory s t) ∧
        (fl.done = true → (k.getLsbD 0 = true ∨ fl.header ≠ ikHeader k r f.tog) →
          wrongState s (selected s) = false → ∃ t : State, exec c s = .next t ∧
          t.ik.flights = [(key, flight (k.getLsbD 0) r)] ∧ SameMemory s t))) ∧
    (NewFrame s 3 2 f → levelAllows s 2 true = true → feeds (selected s) 2 = true →
      wrongState s (selected s) = false →
      (s.ik.flights = [] → ∃ t : State, exec (.ikInstr f) s = .next t ∧ SameMemory s t ∧
        Accepted s t (ikHeader 3 2 f.tog) f.data none ∧ t.ik.flights = [(key, feedFlight f.data)]) ∧
      (∀ fl : IkFlight, s.ik.flights = [(key, fl)] → fl.done = false → ∃ t : State,
        exec (.ikInstr f) s = .next t ∧ SameMemory s t ∧ Accepted s t (ikHeader 3 2 f.tog) f.data none ∧
        t.ik.flights = [(key, { fl with fed := fl.fed ++ [f.data] })])) ∧
    (∀ q ∈ [(Instr.ikRdata true f, (3 : BitVec 2), (4 : BitVec 4)), (.ikCdata true f, 3, 7),
        (.ikMdata true f, 3, 3)],
      NewFrame s q.2.1 q.2.2 f → levelAllows s q.2.2.toNat true = true →
      startsAccess (selected s) q.2.2.toNat true = true → wrongState s (selected s) = false →
      s.ik.flights = [] → ∃ t : State, exec q.1 s = .next t ∧ SameMemory s t ∧
        Accepted s t (ikHeader q.2.1 q.2.2 f.tog) f.data none ∧ t.ik.flights = [(key, flight true q.2.2)]) ∧
    (∀ q ∈ [(Instr.ikRdata false f, (2 : BitVec 2), (4 : BitVec 4)), (.ikCdata false f, 2, 7),
        (.ikMdata false f, 2, 3), (.ikTdata f, 2, 3), (.ikCnt f, 2, 5)],
      NewFrame s q.2.1 q.2.2 f →
      ∀ fl : IkFlight, s.ik.flights = [(key, fl)] →
      fl.done = true → fl.header = ikHeader q.2.1 q.2.2 f.tog → ∃ t : State, exec q.1 s = .next t ∧
        SameMemory s t ∧ Accepted s t fl.header fl.result (some fl.result) ∧ t.ik.flights = []) ∧
    (DebugsEngine s e → (s.eng e).dbg.halted = true →
      let sel := (s.eng e).dbg.rsel
      let r := (sel.extractLsb' 0 6).toNat
      let h := sel.getLsbD 8
      let old : Word := if r = 32 then (s.eng e).pc else (s.eng e).reg (BitVec.ofNat 5 r)
      (∀ d : BitVec 32, InFlight s false 4 d → ∃ t : State, exec .ikAccessDone s = .next t ∧
        ReadsBack s t (if h then old.extractLsb' 32 32 else old.setWidth 32)) ∧
      (∀ d : BitVec 32, InFlight s true 4 d → r < 32 → ∃ t : State, exec .ikAccessDone s = .next t ∧
        t.ik.flights = [] ∧ t.ik.err = s.ik.err ∧ (t.eng e).pc = (s.eng e).pc ∧ SameMemory s t ∧
        ∀ q : Reg, (t.eng e).reg q = ((s.eng e).setReg (BitVec.ofNat 5 r)
          (if h then d ++ old.setWidth 32 else old.extractLsb' 32 32 ++ d)).reg q) ∧
      (∀ d : BitVec 32, InFlight s true 4 d → r = 32 → h = false → d.toNat % 4 ≠ 0 → ∃ t : State,
        exec .ikAccessDone s = .next t ∧ t.ik.err = true ∧ t.ik.code = 4 ∧ (t.eng e).pc = (s.eng e).pc) ∧
      (∀ rd ra rb : Reg, s.ik.flights = [(selectedKey s, feedFlight (addInst e rd ra rb).word)] → (s.eng e).vec.gpend = [] →
        ∃ t : State, exec .ikAccessDone s = .next t ∧ t.ik.flights = [] ∧ t.ik.err = s.ik.err ∧
          (t.eng e).pc = (s.eng e).pc ∧ (t.eng e).count = (s.eng e).count ∧ SameMemory s t ∧
          ∀ q : Reg, (t.eng e).reg q =
            ((s.eng e).setReg rd ((s.eng e).reg ra + (s.eng e).reg rb)).reg q) ∧
      (∀ w : BitVec 32, feedRefused w = true → s.ik.flights = [(selectedKey s, feedFlight w)] → ∃ t : State,
        exec .ikAccessDone s = .next t ∧ t.ik.err = true ∧ t.ik.code = 4 ∧ t.engines = s.engines ∧
        SameMemory s t) ∧
      (∀ d : BitVec 32, InFlight s false 7 d → (s.eng e).dbg.caddr.toNat % 4 = 0 →
        let a := (s.eng e).dbg.caddr
        0xFFFF00000000 ≤ a.toNat → a.toNat + 4 ≤ 0xFFFF00040000 →
        cleanTile s (e * 2 ^ 18 + (a.toNat - 0xFFFF00000000)) 4 → ∃ t : State,
          exec .ikAccessDone s = .next t ∧ (t.eng e).dbg.caddr = a + 4 ∧
          ReadsBack s t (BitVec.ofNat 32 (leNat (s.tile.bytes (e * 2 ^ 18 + (a.toNat - 0xFFFF00000000)) 4))))) ∧
    (s.ik.level = 2 → s.ik.port = 10 → s.ik.mspace = 1 → s.boot.conversion = true →
      let a := s.ik.maddr.toNat
      let next : BitVec 48 := if s.ik.minc then s.ik.maddr + 4 else s.ik.maddr
      (∀ (wr : Bool) (d : BitVec 32), InFlight s wr 3 d → hbmBytes ≤ a → ∃ t : State,
        exec .ikAccessDone s = .next t ∧ t.ik.err = true ∧ t.ik.code = 4 ∧ SameMemory s t) ∧
      (a < hbmBytes → cleanHbm s a →
        (∀ d : BitVec 32, InFlight s false 3 d → ∃ t : State, exec .ikAccessDone s = .next t ∧
          t.ik.maddr = next ∧ ReadsBack s t (BitVec.ofNat 32 (leNat (s.hbm.bytes a 4)))) ∧
        (∀ d : BitVec 32, InFlight s true 3 d → ∃ t : State, exec .ikAccessDone s = .next t ∧
          t.ik.maddr = next ∧ t.ik.flights = [] ∧ t.hbm.bytes a 4 = leBytes 4 d.toNat ∧
          (∀ b : Nat, (b < a ∨ a + 4 ≤ b) → t.hbm.get b = s.hbm.get b) ∧
          ∀ b : Nat, t.tile.get b = s.tile.get b))) ∧
    (s.ik.level = 2 → s.ik.port = 11 →
      (∀ d : BitVec 32, InFlight s false 3 d → ∃ t : State, exec .ikAccessDone s = .next t ∧
        t.ik.taddr = s.ik.taddr + 4 ∧ ReadsBack s t (traceWord s.ik s.ik.taddr.toNat)) ∧
      (∀ d : BitVec 32, InFlight s false 5 d →
        enginePowered s s.ik.csq.toNat s.ik.cpos.toNat = true → ∃ t : State,
          exec .ikAccessDone s = .next t ∧
          let n := (s.eng (s.ik.csq.toNat * 9 + s.ik.cpos.toNat)).count.toList.getD s.ik.cidx.toNat 0
          ReadsBack s t (if s.ik.chalf then n.extractLsb' 32 32 else n.setWidth 32)))

/-- O59. For every scalar, branch, system and vector control instruction and every value of its
    operands, decoding the word that the formats of Tables 4.1 and 7.1 give it answers that
    instruction with those operands. The word of every streaming instruction decodes to its
    operation with its type and operand fields. A word reaches the block as data where debug feeds
    it to a halted engine. (R185, R187, R194, R195, R207, R227, R314, R315, R349, R637) -/
def Obligations.InstructionWordsDecodeBack : Prop :=
  (∀ (e : Nat) (rd ra rb rc : Reg) (p : Bool) (imm : BitVec 16) (n : BitVec 6) (hw : BitVec 2)
      (k : BitVec 3) (far : BitVec 25) (mid : BitVec 21) (index : BitVec 12),
    ∀ i ∈ [addInst e rd ra rb, subInst e rd ra rb, andInst e rd ra rb, orInst e rd ra rb,
      xorInst e rd ra rb, andnInst e rd ra rb, cltInst e rd ra rb, cltuInst e rd ra rb,
      ceqInst e rd ra rb, shlInst e rd ra rb, shrInst e rd ra rb, sarInst e rd ra rb,
      rorInst e rd ra rb, minInst e rd ra rb, maxInst e rd ra rb, minuInst e rd ra rb,
      maxuInst e rd ra rb, clzInst e rd ra, ctzInst e rd ra, popcInst e rd ra,
      sextBInst e rd ra, sextHInst e rd ra, sextWInst e rd ra, zextWInst e rd ra,
      addiInst e rd ra imm, andiInst e rd ra imm, oriInst e rd ra imm,
      xoriInst e rd ra imm, cltiInst e rd ra imm, cltiuInst e rd ra imm,
      shliInst e rd ra n, shriInst e rd ra n, sariInst e rd ra n, roriInst e rd ra n,
      ldiInst e rd imm hw, insiInst e rd imm hw, adcInst e rd ra rb rc,
      sbbInst e rd ra rb rc, mulInst e rd ra rb, mulwInst e rd ra rb, mulwuInst e rd ra rb] ++
      [dstartSInst e rd ra, dstartUInst e rd ra, dstepSInst e rd rb, dstepUInst e rd rb,
      dendSInst e rd ra rb, dendUInst e rd ra rb] ++
      [dajBInst e rd ra rb, dajHInst e rd ra rb, dajWInst e rd ra rb, daddInst e rd ra rb,
      dsubInst e rd ra rb] ++
      [faddInst e p rd ra rb, fsubInst e p rd ra rb, fmulInst e p rd ra rb,
      fminInst e p rd ra rb, fmaxInst e p rd ra rb, feqInst e p rd ra rb,
      fltInst e p rd ra rb, fleInst e p rd ra rb, funInst e p rd ra rb, fabsInst e p rd ra,
      fnegInst e p rd ra, fcvtInst e p rd ra, ftoiInst e p rd ra, ftoizInst e p rd ra,
      ftouInst e p rd ra, itofInst e p rd ra, utofInst e p rd ra, fmaInst e p rd ra rb rc,
      fmsInst e p rd ra rb rc, fnmaInst e p rd ra rb rc, fnmsInst e p rd ra rb rc,
      fdstartInst e p rd ra rb, fdstepInst e p rd rb, fdendInst e p rd ra rb,
      fsstartInst e p rd ra, fsstepInst e p rd, fsendInst e p rd ra] ++
      [ldBInst e rd ra imm, ldBuInst e rd ra imm, ldHInst e rd ra imm, ldHuInst e rd ra imm,
      ldWInst e rd ra imm, ldWuInst e rd ra imm, ldDInst e rd ra imm, stBInst e rd ra imm,
      stHInst e rd ra imm, stWInst e rd ra imm, stDInst e rd ra imm] ++
      [ldlInst e rd ra, stcInst e rd ra rb, amoAddInst e rd ra rb, amoXorInst e rd ra rb,
      amoMinInst e rd ra rb, amoMaxInst e rd ra rb, amoSwpInst e rd ra rb,
      damoAddInst e rd ra rb] ++
      [brInst e p far, brlInst e p far, beqzInst e p ra imm, bnezInst e p ra imm,
      bltzInst e p ra imm, bgezInst e p ra imm, bgtzInst e p ra imm, blezInst e p ra imm,
      boddInst e p ra imm, bevenInst e p ra imm, jrInst e p ra, jrlInst e p ra,
      loopInst e rd mid] ++
      [syncCInst e, syncIInst e, fenceLInst e, fenceDInst e, fenceSInst e, gateInst e index,
      gretInst e, jendInst e, wfiInst e, brkInst e imm, mtmInst e k ra, mfmInst e rd k] ++
      [setvlInst e rd ra k, vbarrierInst e, chresumeInst e rd, vqcntInst e rd hw],
    instOfWord e i.word = i) ∧
  (∀ (e : Nat) (o : VR), ∀ q ∈ [(vfaddInst e o, vfaddOp o.t), (vfsubInst e o, vfsubOp o.t),
      (vfmulInst e o, vfmulOp o.t), (vfminInst e o, vfminOp o.t),
      (vfmaxInst e o, vfmaxOp o.t), (vfabsInst e o, vfabsOp o.t),
      (vfnegInst e o, vfnegOp o.t), (vfeqInst e o, vfeqOp o.t), (vfltInst e o, vfltOp o.t),
      (vfleInst e o, vfleOp o.t), (vfunInst e o, vfunOp o.t), (vcvtInst e o, vcvtOp o.t o.b),
      (vcvtzInst e o, vcvtzOp o.t o.b), (vaddInst e o, vaddOp o.t),
      (vsubInst e o, vsubOp o.t), (vmulInst e o, vmulOp o.t), (vmulhInst e o, vmulhOp o.t),
      (vandInst e o, vandOp o.t), (vorInst e o, vorOp o.t), (vxorInst e o, vxorOp o.t),
      (vandnInst e o, vandnOp o.t), (vshlInst e o, vshlOp o.t), (vshrInst e o, vshrOp o.t),
      (vminInst e o, vminOp o.t)] ++
      [(vmaxInst e o, vmaxOp o.t), (vceqInst e o, vceqOp o.t), (vcltInst e o, vcltOp o.t),
      (vaddsInst e o, vaddsOp o.t), (vsubsInst e o, vsubsOp o.t),
      (vpopcInst e o, vpopcOp o.t), (vclzInst e o, vclzOp o.t),
      (vcvtiInst e o, vcvtiOp o.t o.b), (vdaddInst e o, vdaddOp o.t),
      (vdsubInst e o, vdsubOp o.t), (vdmulInst e o, vdmulOp o.t),
      (vdrescaleInst e o, vdrescaleOp o.t o.b), (vdcmpEqInst e o, vdcmpEqOp o.t),
      (vdcmpLtInst e o, vdcmpLtOp o.t), (vdcmpLeInst e o, vdcmpLeOp o.t),
      (vdcvtInst e o, vdcvtOp o.t o.b), (vdrsumInst e o, vdrsumOp o.t),
      (vmovInst e o, vmovOp o.t), (viotaInst e o, viotaOp o.t),
      (vcompressInst e o, vcompressOp o.t), (vexpandInst e o, vexpandOp o.t),
      (vrsumInst e o, vrsumOp o.t), (vrminInst e o, vrminOp o.t),
      (vrmaxInst e o, vrmaxOp o.t)] ++
      [(vrandInst e o, vrandOp o.t), (vriorInst e o, vriorOp o.t),
      (vrxorInst e o, vrxorOp o.t), (vrpopcInst e o, vrpopcOp o.t)],
    instOfWord e q.1.word = q.1 ∧ vopOfWord q.1.word = q.2 ∧ q.1.word.getLsbD 25 = o.c ∧
      q.1.word.extractLsb' 22 3 = o.m ∧ q.1.word.extractLsb' 18 4 = o.d ∧
      q.1.word.extractLsb' 14 4 = o.a ∧ q.1.word.extractLsb' 10 4 = o.b) ∧
  (∀ (e : Nat) (o : VT), ∀ q ∈ [(vfmaInst e o, vfmaOp o.t), (vfmsInst e o, vfmsOp o.t), (vfnmaInst e o, vfnmaOp o.t),
      (vfnmsInst e o, vfnmsOp o.t), (vmacInst e o, vmacOp o.t), (vdot4Inst e o, vdot4Op o.t),
      (vfdstartInst e o, vfdstartOp o.t), (vfdstepInst e o, vfdstepOp o.x o.t),
      (vfdendInst e o, vfdendOp o.t), (vfsstartInst e o, vfsstartOp o.t),
      (vfsstepInst e o, vfsstepOp o.x o.t), (vfsendInst e o, vfsendOp o.t),
      (vidstartInst e o, vidstartOp o.t), (vidstepInst e o, vidstepOp o.x o.t),
      (videndInst e o, videndOp o.t), (vidremInst e o, vidremOp o.t),
      (vddstartInst e o, vddstartOp o.t), (vddstepInst e o, vddstepOp o.x o.t),
      (vddendInst e o, vddendOp o.t)],
    instOfWord e q.1.word = q.1 ∧ vopOfWord q.1.word = q.2 ∧ q.1.word.getLsbD 25 = o.c ∧
      q.1.word.extractLsb' 22 3 = o.m ∧ q.1.word.extractLsb' 18 4 = o.d ∧
      q.1.word.extractLsb' 14 4 = o.a ∧ q.1.word.extractLsb' 10 4 = o.b ∧ q.1.word.extractLsb' 6 4 = o.x)

/-- O60. At reset every register of an engine control block reads 0, but EC_MODE, which reads 2,
    EC_TRAPEN 0x3FF, DCTL 0x1000, and EC_ID, which gives the part, the position and the logical
    number of an engine at positions 0 to 7; the spare position carries none. A square is PARKED at
    operating point 4 under limit 5, in partition 0, with engine n at position n. MAP_STAT reads
    only CASTLE_FENCE, MEM_ILV channel and bank skew FOLD, MEM_SCRUB 24 hours. Every descriptor
    word, SQ_TNDn register and link status is 0. Freeze bits are 1, the debug level is NONE, and
    IK_MCTL.INC is 1. What the tables give no reset value is log entry 4. (R148, R267, R313, R382,
    R642, 01_board_of_squares, 02_memory_and_map, 16_debug_and_trace) -/
def Obligations.ResetRegisterValues : Prop :=
  (∀ (e : Eng) (off : Nat), off ≠ 0 →
    ecbRead State.reset e off =
      if off = 0x008 then 2 else if off = 0x098 then 0x3FF else if off = 0x250 then 0x1000 else 0) ∧
  (∀ e : Eng, e.val % 9 < 8 → ecbRead State.reset e 0x000 =
    0xBA719512B0000000 + BitVec.ofNat 64 (2 ^ 20 * (e.val % 9) + 8 * (e.val / 9) + e.val % 9)) ∧
  (∀ sq : SqId, sqRead State.reset sq 0x008 = 0 ∧ sqRead State.reset sq 0x010 = 0x76543210 ∧
    sqRead State.reset sq 0x018 = 0x54 ∧ sqRead State.reset sq 0x020 = 0x100 ∧
    ∀ off : Nat, 0x100 ≤ off → sqRead State.reset sq off = 0) ∧
  (∀ n : Option Nat, (devRead n 0x1008 State.reset).1 = 0 ∧ (devRead n 0x1010 State.reset).1 = 0x10000 ∧
    (devRead n 0x2000 State.reset).1 = 0x110 ∧ (devRead n 0x2020 State.reset).1 = 24 ∧
    (devRead n 0x3000 State.reset).1 = 0 ∧ (devRead n 0x3008 State.reset).1 = 0 ∧
    (devRead n 0x4000 State.reset).1 = 0 ∧ (devRead n 0x4008 State.reset).1 = 0 ∧
    ∀ k : Fin 8, (devRead n (0x4040 + 8 * k.val) State.reset).1 = 0) ∧
  (∀ t : DbgCore, (coreDbg State.reset t).frz = 15 ∧ (coreDbg State.reset t).halted = false ∧
    (coreDbg State.reset t).haltBrk = false) ∧
  State.reset.ik.level = 0 ∧ State.reset.ik.minc = true ∧ State.reset.ik.err = false ∧
  State.reset.ik.synced = false
end

