-- ==== Sys2Proof/Laws/State.lean ====
section
/-! SUPPORT. What reading a field gives after an update of one part of the state. -/

namespace Sys2Proof.Machine.State

/-! ### setEng -/

section
variable (s : State) (e : Nat) (x : Engine)

@[simp] theorem setEng_engines : (s.setEng e x).engines = s.engines.put e x := rfl
@[simp] theorem setEng_squares : (s.setEng e x).squares = s.squares := rfl
@[simp] theorem setEng_ranks : (s.setEng e x).ranks = s.ranks := rfl
@[simp] theorem setEng_hub : (s.setEng e x).hub = s.hub := rfl
@[simp] theorem setEng_hbm : (s.setEng e x).hbm = s.hbm := rfl
@[simp] theorem setEng_tile : (s.setEng e x).tile = s.tile := rfl
@[simp] theorem setEng_poison : (s.setEng e x).poison = s.poison := rfl
@[simp] theorem setEng_flaws : (s.setEng e x).flaws = s.flaws := rfl
@[simp] theorem setEng_board : (s.setEng e x).board = s.board := rfl
@[simp] theorem setEng_jobs : (s.setEng e x).jobs = s.jobs := rfl
@[simp] theorem setEng_nextJob : (s.setEng e x).nextJob = s.nextJob := rfl
@[simp] theorem setEng_bellOrder : (s.setEng e x).bellOrder = s.bellOrder := rfl
@[simp] theorem setEng_ctxs : (s.setEng e x).ctxs = s.ctxs := rfl
@[simp] theorem setEng_chains : (s.setEng e x).chains = s.chains := rfl
@[simp] theorem setEng_chst : (s.setEng e x).chst = s.chst := rfl
@[simp] theorem setEng_cxl : (s.setEng e x).cxl = s.cxl := rfl
@[simp] theorem setEng_frx : (s.setEng e x).frx = s.frx := rfl
@[simp] theorem setEng_reqs : (s.setEng e x).reqs = s.reqs := rfl
@[simp] theorem setEng_nextTag : (s.setEng e x).nextTag = s.nextTag := rfl
@[simp] theorem setEng_boot : (s.setEng e x).boot = s.boot := rfl
@[simp] theorem setEng_pins : (s.setEng e x).pins = s.pins := rfl
@[simp] theorem setEng_i3c : (s.setEng e x).i3c = s.i3c := rfl
@[simp] theorem setEng_session : (s.setEng e x).session = s.session := rfl
@[simp] theorem setEng_np : (s.setEng e x).np = s.np := rfl
@[simp] theorem setEng_cmd : (s.setEng e x).cmd = s.cmd := rfl
@[simp] theorem setEng_mg : (s.setEng e x).mg = s.mg := rfl
@[simp] theorem setEng_pw : (s.setEng e x).pw = s.pw := rfl
@[simp] theorem setEng_nv : (s.setEng e x).nv = s.nv := rfl
@[simp] theorem setEng_nvWas : (s.setEng e x).nvWas = s.nvWas := rfl
@[simp] theorem setEng_ik : (s.setEng e x).ik = s.ik := rfl
@[simp] theorem setEng_free : (s.setEng e x).free = s.free := rfl
@[simp] theorem setEng_out : (s.setEng e x).out = s.out := rfl
@[simp] theorem setEng_pending : (s.setEng e x).pending = s.pending := rfl
@[simp] theorem setEng_sqr (j : Nat) : (s.setEng e x).sqr j = s.sqr j := rfl
@[simp] theorem setEng_rank (j : Nat) : (s.setEng e x).rank j = s.rank j := rfl
@[simp] theorem setEng_ctx (j : Byte) : (s.setEng e x).ctx j = s.ctx j := rfl
@[simp] theorem setEng_mapCopy (j : Nat) : (s.setEng e x).mapCopy j = s.mapCopy j := rfl

end

/-! ### modEng -/

section
variable (s : State) (e : Nat) (f : Engine → Engine)

@[simp] theorem modEng_engines : (s.modEng e f).engines = s.engines.put e (f (s.eng e)) := rfl
@[simp] theorem modEng_squares : (s.modEng e f).squares = s.squares := rfl
@[simp] theorem modEng_ranks : (s.modEng e f).ranks = s.ranks := rfl
@[simp] theorem modEng_hub : (s.modEng e f).hub = s.hub := rfl
@[simp] theorem modEng_hbm : (s.modEng e f).hbm = s.hbm := rfl
@[simp] theorem modEng_tile : (s.modEng e f).tile = s.tile := rfl
@[simp] theorem modEng_poison : (s.modEng e f).poison = s.poison := rfl
@[simp] theorem modEng_flaws : (s.modEng e f).flaws = s.flaws := rfl
@[simp] theorem modEng_board : (s.modEng e f).board = s.board := rfl
@[simp] theorem modEng_jobs : (s.modEng e f).jobs = s.jobs := rfl
@[simp] theorem modEng_nextJob : (s.modEng e f).nextJob = s.nextJob := rfl
@[simp] theorem modEng_bellOrder : (s.modEng e f).bellOrder = s.bellOrder := rfl
@[simp] theorem modEng_ctxs : (s.modEng e f).ctxs = s.ctxs := rfl
@[simp] theorem modEng_chains : (s.modEng e f).chains = s.chains := rfl
@[simp] theorem modEng_chst : (s.modEng e f).chst = s.chst := rfl
@[simp] theorem modEng_cxl : (s.modEng e f).cxl = s.cxl := rfl
@[simp] theorem modEng_frx : (s.modEng e f).frx = s.frx := rfl
@[simp] theorem modEng_reqs : (s.modEng e f).reqs = s.reqs := rfl
@[simp] theorem modEng_nextTag : (s.modEng e f).nextTag = s.nextTag := rfl
@[simp] theorem modEng_boot : (s.modEng e f).boot = s.boot := rfl
@[simp] theorem modEng_pins : (s.modEng e f).pins = s.pins := rfl
@[simp] theorem modEng_i3c : (s.modEng e f).i3c = s.i3c := rfl
@[simp] theorem modEng_session : (s.modEng e f).session = s.session := rfl
@[simp] theorem modEng_np : (s.modEng e f).np = s.np := rfl
@[simp] theorem modEng_cmd : (s.modEng e f).cmd = s.cmd := rfl
@[simp] theorem modEng_mg : (s.modEng e f).mg = s.mg := rfl
@[simp] theorem modEng_pw : (s.modEng e f).pw = s.pw := rfl
@[simp] theorem modEng_nv : (s.modEng e f).nv = s.nv := rfl
@[simp] theorem modEng_nvWas : (s.modEng e f).nvWas = s.nvWas := rfl
@[simp] theorem modEng_ik : (s.modEng e f).ik = s.ik := rfl
@[simp] theorem modEng_free : (s.modEng e f).free = s.free := rfl
@[simp] theorem modEng_out : (s.modEng e f).out = s.out := rfl
@[simp] theorem modEng_pending : (s.modEng e f).pending = s.pending := rfl
@[simp] theorem modEng_sqr (j : Nat) : (s.modEng e f).sqr j = s.sqr j := rfl
@[simp] theorem modEng_rank (j : Nat) : (s.modEng e f).rank j = s.rank j := rfl
@[simp] theorem modEng_ctx (j : Byte) : (s.modEng e f).ctx j = s.ctx j := rfl
@[simp] theorem modEng_mapCopy (j : Nat) : (s.modEng e f).mapCopy j = s.mapCopy j := rfl

end

/-! ### setSq -/

section
variable (s : State) (i : Nat) (x : Square)

@[simp] theorem setSq_engines : (s.setSq i x).engines = s.engines := rfl
@[simp] theorem setSq_squares : (s.setSq i x).squares = s.squares.put i x := rfl
@[simp] theorem setSq_ranks : (s.setSq i x).ranks = s.ranks := rfl
@[simp] theorem setSq_hub : (s.setSq i x).hub = s.hub := rfl
@[simp] theorem setSq_hbm : (s.setSq i x).hbm = s.hbm := rfl
@[simp] theorem setSq_tile : (s.setSq i x).tile = s.tile := rfl
@[simp] theorem setSq_poison : (s.setSq i x).poison = s.poison := rfl
@[simp] theorem setSq_flaws : (s.setSq i x).flaws = s.flaws := rfl
@[simp] theorem setSq_board : (s.setSq i x).board = s.board := rfl
@[simp] theorem setSq_jobs : (s.setSq i x).jobs = s.jobs := rfl
@[simp] theorem setSq_nextJob : (s.setSq i x).nextJob = s.nextJob := rfl
@[simp] theorem setSq_bellOrder : (s.setSq i x).bellOrder = s.bellOrder := rfl
@[simp] theorem setSq_ctxs : (s.setSq i x).ctxs = s.ctxs := rfl
@[simp] theorem setSq_chains : (s.setSq i x).chains = s.chains := rfl
@[simp] theorem setSq_chst : (s.setSq i x).chst = s.chst := rfl
@[simp] theorem setSq_cxl : (s.setSq i x).cxl = s.cxl := rfl
@[simp] theorem setSq_frx : (s.setSq i x).frx = s.frx := rfl
@[simp] theorem setSq_reqs : (s.setSq i x).reqs = s.reqs := rfl
@[simp] theorem setSq_nextTag : (s.setSq i x).nextTag = s.nextTag := rfl
@[simp] theorem setSq_boot : (s.setSq i x).boot = s.boot := rfl
@[simp] theorem setSq_pins : (s.setSq i x).pins = s.pins := rfl
@[simp] theorem setSq_i3c : (s.setSq i x).i3c = s.i3c := rfl
@[simp] theorem setSq_session : (s.setSq i x).session = s.session := rfl
@[simp] theorem setSq_np : (s.setSq i x).np = s.np := rfl
@[simp] theorem setSq_cmd : (s.setSq i x).cmd = s.cmd := rfl
@[simp] theorem setSq_mg : (s.setSq i x).mg = s.mg := rfl
@[simp] theorem setSq_pw : (s.setSq i x).pw = s.pw := rfl
@[simp] theorem setSq_nv : (s.setSq i x).nv = s.nv := rfl
@[simp] theorem setSq_nvWas : (s.setSq i x).nvWas = s.nvWas := rfl
@[simp] theorem setSq_ik : (s.setSq i x).ik = s.ik := rfl
@[simp] theorem setSq_free : (s.setSq i x).free = s.free := rfl
@[simp] theorem setSq_out : (s.setSq i x).out = s.out := rfl
@[simp] theorem setSq_pending : (s.setSq i x).pending = s.pending := rfl
@[simp] theorem setSq_eng (j : Nat) : (s.setSq i x).eng j = s.eng j := rfl
@[simp] theorem setSq_rank (j : Nat) : (s.setSq i x).rank j = s.rank j := rfl
@[simp] theorem setSq_ctx (j : Byte) : (s.setSq i x).ctx j = s.ctx j := rfl
@[simp] theorem setSq_mapCopy (j : Nat) : (s.setSq i x).mapCopy j = s.mapCopy j := rfl

end

/-! ### modSq -/

section
variable (s : State) (i : Nat) (f : Square → Square)

@[simp] theorem modSq_engines : (s.modSq i f).engines = s.engines := rfl
@[simp] theorem modSq_squares : (s.modSq i f).squares = s.squares.put i (f (s.sqr i)) := rfl
@[simp] theorem modSq_ranks : (s.modSq i f).ranks = s.ranks := rfl
@[simp] theorem modSq_hub : (s.modSq i f).hub = s.hub := rfl
@[simp] theorem modSq_hbm : (s.modSq i f).hbm = s.hbm := rfl
@[simp] theorem modSq_tile : (s.modSq i f).tile = s.tile := rfl
@[simp] theorem modSq_poison : (s.modSq i f).poison = s.poison := rfl
@[simp] theorem modSq_flaws : (s.modSq i f).flaws = s.flaws := rfl
@[simp] theorem modSq_board : (s.modSq i f).board = s.board := rfl
@[simp] theorem modSq_jobs : (s.modSq i f).jobs = s.jobs := rfl
@[simp] theorem modSq_nextJob : (s.modSq i f).nextJob = s.nextJob := rfl
@[simp] theorem modSq_bellOrder : (s.modSq i f).bellOrder = s.bellOrder := rfl
@[simp] theorem modSq_ctxs : (s.modSq i f).ctxs = s.ctxs := rfl
@[simp] theorem modSq_chains : (s.modSq i f).chains = s.chains := rfl
@[simp] theorem modSq_chst : (s.modSq i f).chst = s.chst := rfl
@[simp] theorem modSq_cxl : (s.modSq i f).cxl = s.cxl := rfl
@[simp] theorem modSq_frx : (s.modSq i f).frx = s.frx := rfl
@[simp] theorem modSq_reqs : (s.modSq i f).reqs = s.reqs := rfl
@[simp] theorem modSq_nextTag : (s.modSq i f).nextTag = s.nextTag := rfl
@[simp] theorem modSq_boot : (s.modSq i f).boot = s.boot := rfl
@[simp] theorem modSq_pins : (s.modSq i f).pins = s.pins := rfl
@[simp] theorem modSq_i3c : (s.modSq i f).i3c = s.i3c := rfl
@[simp] theorem modSq_session : (s.modSq i f).session = s.session := rfl
@[simp] theorem modSq_np : (s.modSq i f).np = s.np := rfl
@[simp] theorem modSq_cmd : (s.modSq i f).cmd = s.cmd := rfl
@[simp] theorem modSq_mg : (s.modSq i f).mg = s.mg := rfl
@[simp] theorem modSq_pw : (s.modSq i f).pw = s.pw := rfl
@[simp] theorem modSq_nv : (s.modSq i f).nv = s.nv := rfl
@[simp] theorem modSq_nvWas : (s.modSq i f).nvWas = s.nvWas := rfl
@[simp] theorem modSq_ik : (s.modSq i f).ik = s.ik := rfl
@[simp] theorem modSq_free : (s.modSq i f).free = s.free := rfl
@[simp] theorem modSq_out : (s.modSq i f).out = s.out := rfl
@[simp] theorem modSq_pending : (s.modSq i f).pending = s.pending := rfl
@[simp] theorem modSq_eng (j : Nat) : (s.modSq i f).eng j = s.eng j := rfl
@[simp] theorem modSq_rank (j : Nat) : (s.modSq i f).rank j = s.rank j := rfl
@[simp] theorem modSq_ctx (j : Byte) : (s.modSq i f).ctx j = s.ctx j := rfl
@[simp] theorem modSq_mapCopy (j : Nat) : (s.modSq i f).mapCopy j = s.mapCopy j := rfl

end

/-! ### modRank -/

section
variable (s : State) (k : Nat) (f : Rank → Rank)

@[simp] theorem modRank_engines : (s.modRank k f).engines = s.engines := rfl
@[simp] theorem modRank_squares : (s.modRank k f).squares = s.squares := rfl
@[simp] theorem modRank_ranks : (s.modRank k f).ranks = s.ranks.put k (f (s.rank k)) := rfl
@[simp] theorem modRank_hub : (s.modRank k f).hub = s.hub := rfl
@[simp] theorem modRank_hbm : (s.modRank k f).hbm = s.hbm := rfl
@[simp] theorem modRank_tile : (s.modRank k f).tile = s.tile := rfl
@[simp] theorem modRank_poison : (s.modRank k f).poison = s.poison := rfl
@[simp] theorem modRank_flaws : (s.modRank k f).flaws = s.flaws := rfl
@[simp] theorem modRank_board : (s.modRank k f).board = s.board := rfl
@[simp] theorem modRank_jobs : (s.modRank k f).jobs = s.jobs := rfl
@[simp] theorem modRank_nextJob : (s.modRank k f).nextJob = s.nextJob := rfl
@[simp] theorem modRank_bellOrder : (s.modRank k f).bellOrder = s.bellOrder := rfl
@[simp] theorem modRank_ctxs : (s.modRank k f).ctxs = s.ctxs := rfl
@[simp] theorem modRank_chains : (s.modRank k f).chains = s.chains := rfl
@[simp] theorem modRank_chst : (s.modRank k f).chst = s.chst := rfl
@[simp] theorem modRank_cxl : (s.modRank k f).cxl = s.cxl := rfl
@[simp] theorem modRank_frx : (s.modRank k f).frx = s.frx := rfl
@[simp] theorem modRank_reqs : (s.modRank k f).reqs = s.reqs := rfl
@[simp] theorem modRank_nextTag : (s.modRank k f).nextTag = s.nextTag := rfl
@[simp] theorem modRank_boot : (s.modRank k f).boot = s.boot := rfl
@[simp] theorem modRank_pins : (s.modRank k f).pins = s.pins := rfl
@[simp] theorem modRank_i3c : (s.modRank k f).i3c = s.i3c := rfl
@[simp] theorem modRank_session : (s.modRank k f).session = s.session := rfl
@[simp] theorem modRank_np : (s.modRank k f).np = s.np := rfl
@[simp] theorem modRank_cmd : (s.modRank k f).cmd = s.cmd := rfl
@[simp] theorem modRank_mg : (s.modRank k f).mg = s.mg := rfl
@[simp] theorem modRank_pw : (s.modRank k f).pw = s.pw := rfl
@[simp] theorem modRank_nv : (s.modRank k f).nv = s.nv := rfl
@[simp] theorem modRank_nvWas : (s.modRank k f).nvWas = s.nvWas := rfl
@[simp] theorem modRank_ik : (s.modRank k f).ik = s.ik := rfl
@[simp] theorem modRank_free : (s.modRank k f).free = s.free := rfl
@[simp] theorem modRank_out : (s.modRank k f).out = s.out := rfl
@[simp] theorem modRank_pending : (s.modRank k f).pending = s.pending := rfl
@[simp] theorem modRank_eng (j : Nat) : (s.modRank k f).eng j = s.eng j := rfl
@[simp] theorem modRank_sqr (j : Nat) : (s.modRank k f).sqr j = s.sqr j := rfl
@[simp] theorem modRank_ctx (j : Byte) : (s.modRank k f).ctx j = s.ctx j := rfl
@[simp] theorem modRank_mapCopy (j : Nat) : (s.modRank k f).mapCopy j = s.mapCopy j := rfl

end

/-! ### modCtx -/

section
variable (s : State) (c : Byte) (f : Ctx → Ctx)

@[simp] theorem modCtx_engines : (s.modCtx c f).engines = s.engines := rfl
@[simp] theorem modCtx_squares : (s.modCtx c f).squares = s.squares := rfl
@[simp] theorem modCtx_ranks : (s.modCtx c f).ranks = s.ranks := rfl
@[simp] theorem modCtx_hub : (s.modCtx c f).hub = s.hub := rfl
@[simp] theorem modCtx_hbm : (s.modCtx c f).hbm = s.hbm := rfl
@[simp] theorem modCtx_tile : (s.modCtx c f).tile = s.tile := rfl
@[simp] theorem modCtx_poison : (s.modCtx c f).poison = s.poison := rfl
@[simp] theorem modCtx_flaws : (s.modCtx c f).flaws = s.flaws := rfl
@[simp] theorem modCtx_board : (s.modCtx c f).board = s.board := rfl
@[simp] theorem modCtx_jobs : (s.modCtx c f).jobs = s.jobs := rfl
@[simp] theorem modCtx_nextJob : (s.modCtx c f).nextJob = s.nextJob := rfl
@[simp] theorem modCtx_bellOrder : (s.modCtx c f).bellOrder = s.bellOrder := rfl
@[simp] theorem modCtx_ctxs : (s.modCtx c f).ctxs = s.ctxs.put c.toNat (f (s.ctx c)) := rfl
@[simp] theorem modCtx_chains : (s.modCtx c f).chains = s.chains := rfl
@[simp] theorem modCtx_chst : (s.modCtx c f).chst = s.chst := rfl
@[simp] theorem modCtx_cxl : (s.modCtx c f).cxl = s.cxl := rfl
@[simp] theorem modCtx_frx : (s.modCtx c f).frx = s.frx := rfl
@[simp] theorem modCtx_reqs : (s.modCtx c f).reqs = s.reqs := rfl
@[simp] theorem modCtx_nextTag : (s.modCtx c f).nextTag = s.nextTag := rfl
@[simp] theorem modCtx_boot : (s.modCtx c f).boot = s.boot := rfl
@[simp] theorem modCtx_pins : (s.modCtx c f).pins = s.pins := rfl
@[simp] theorem modCtx_i3c : (s.modCtx c f).i3c = s.i3c := rfl
@[simp] theorem modCtx_session : (s.modCtx c f).session = s.session := rfl
@[simp] theorem modCtx_np : (s.modCtx c f).np = s.np := rfl
@[simp] theorem modCtx_cmd : (s.modCtx c f).cmd = s.cmd := rfl
@[simp] theorem modCtx_mg : (s.modCtx c f).mg = s.mg := rfl
@[simp] theorem modCtx_pw : (s.modCtx c f).pw = s.pw := rfl
@[simp] theorem modCtx_nv : (s.modCtx c f).nv = s.nv := rfl
@[simp] theorem modCtx_nvWas : (s.modCtx c f).nvWas = s.nvWas := rfl
@[simp] theorem modCtx_ik : (s.modCtx c f).ik = s.ik := rfl
@[simp] theorem modCtx_free : (s.modCtx c f).free = s.free := rfl
@[simp] theorem modCtx_out : (s.modCtx c f).out = s.out := rfl
@[simp] theorem modCtx_pending : (s.modCtx c f).pending = s.pending := rfl
@[simp] theorem modCtx_eng (j : Nat) : (s.modCtx c f).eng j = s.eng j := rfl
@[simp] theorem modCtx_sqr (j : Nat) : (s.modCtx c f).sqr j = s.sqr j := rfl
@[simp] theorem modCtx_rank (j : Nat) : (s.modCtx c f).rank j = s.rank j := rfl
@[simp] theorem modCtx_mapCopy (j : Nat) : (s.modCtx c f).mapCopy j = s.mapCopy j := rfl

end

/-! ### modCopy -/

section
variable (s : State) (n : Nat) (f : MapCopy → MapCopy)

@[simp] theorem modCopy_engines : (s.modCopy n f).engines = s.engines := rfl
@[simp] theorem modCopy_squares : (s.modCopy n f).squares = s.squares := rfl
@[simp] theorem modCopy_ranks : (s.modCopy n f).ranks = s.ranks := rfl
@[simp] theorem modCopy_hub : (s.modCopy n f).hub =
    { s.hub with copies := s.hub.copies.put n (f (s.mapCopy n)) } := rfl
@[simp] theorem modCopy_hbm : (s.modCopy n f).hbm = s.hbm := rfl
@[simp] theorem modCopy_tile : (s.modCopy n f).tile = s.tile := rfl
@[simp] theorem modCopy_poison : (s.modCopy n f).poison = s.poison := rfl
@[simp] theorem modCopy_flaws : (s.modCopy n f).flaws = s.flaws := rfl
@[simp] theorem modCopy_board : (s.modCopy n f).board = s.board := rfl
@[simp] theorem modCopy_jobs : (s.modCopy n f).jobs = s.jobs := rfl
@[simp] theorem modCopy_nextJob : (s.modCopy n f).nextJob = s.nextJob := rfl
@[simp] theorem modCopy_bellOrder : (s.modCopy n f).bellOrder = s.bellOrder := rfl
@[simp] theorem modCopy_ctxs : (s.modCopy n f).ctxs = s.ctxs := rfl
@[simp] theorem modCopy_chains : (s.modCopy n f).chains = s.chains := rfl
@[simp] theorem modCopy_chst : (s.modCopy n f).chst = s.chst := rfl
@[simp] theorem modCopy_cxl : (s.modCopy n f).cxl = s.cxl := rfl
@[simp] theorem modCopy_frx : (s.modCopy n f).frx = s.frx := rfl
@[simp] theorem modCopy_reqs : (s.modCopy n f).reqs = s.reqs := rfl
@[simp] theorem modCopy_nextTag : (s.modCopy n f).nextTag = s.nextTag := rfl
@[simp] theorem modCopy_boot : (s.modCopy n f).boot = s.boot := rfl
@[simp] theorem modCopy_pins : (s.modCopy n f).pins = s.pins := rfl
@[simp] theorem modCopy_i3c : (s.modCopy n f).i3c = s.i3c := rfl
@[simp] theorem modCopy_session : (s.modCopy n f).session = s.session := rfl
@[simp] theorem modCopy_np : (s.modCopy n f).np = s.np := rfl
@[simp] theorem modCopy_cmd : (s.modCopy n f).cmd = s.cmd := rfl
@[simp] theorem modCopy_mg : (s.modCopy n f).mg = s.mg := rfl
@[simp] theorem modCopy_pw : (s.modCopy n f).pw = s.pw := rfl
@[simp] theorem modCopy_nv : (s.modCopy n f).nv = s.nv := rfl
@[simp] theorem modCopy_nvWas : (s.modCopy n f).nvWas = s.nvWas := rfl
@[simp] theorem modCopy_ik : (s.modCopy n f).ik = s.ik := rfl
@[simp] theorem modCopy_free : (s.modCopy n f).free = s.free := rfl
@[simp] theorem modCopy_out : (s.modCopy n f).out = s.out := rfl
@[simp] theorem modCopy_pending : (s.modCopy n f).pending = s.pending := rfl
@[simp] theorem modCopy_eng (j : Nat) : (s.modCopy n f).eng j = s.eng j := rfl
@[simp] theorem modCopy_sqr (j : Nat) : (s.modCopy n f).sqr j = s.sqr j := rfl
@[simp] theorem modCopy_rank (j : Nat) : (s.modCopy n f).rank j = s.rank j := rfl
@[simp] theorem modCopy_ctx (j : Byte) : (s.modCopy n f).ctx j = s.ctx j := rfl

end

/-! ### emit -/

section
variable (s : State) (o : Out)

@[simp] theorem emit_engines : (s.emit o).engines = s.engines := rfl
@[simp] theorem emit_squares : (s.emit o).squares = s.squares := rfl
@[simp] theorem emit_ranks : (s.emit o).ranks = s.ranks := rfl
@[simp] theorem emit_hub : (s.emit o).hub = s.hub := rfl
@[simp] theorem emit_hbm : (s.emit o).hbm = s.hbm := rfl
@[simp] theorem emit_tile : (s.emit o).tile = s.tile := rfl
@[simp] theorem emit_poison : (s.emit o).poison = s.poison := rfl
@[simp] theorem emit_flaws : (s.emit o).flaws = s.flaws := rfl
@[simp] theorem emit_board : (s.emit o).board = s.board := rfl
@[simp] theorem emit_jobs : (s.emit o).jobs = s.jobs := rfl
@[simp] theorem emit_nextJob : (s.emit o).nextJob = s.nextJob := rfl
@[simp] theorem emit_bellOrder : (s.emit o).bellOrder = s.bellOrder := rfl
@[simp] theorem emit_ctxs : (s.emit o).ctxs = s.ctxs := rfl
@[simp] theorem emit_chains : (s.emit o).chains = s.chains := rfl
@[simp] theorem emit_chst : (s.emit o).chst = s.chst := rfl
@[simp] theorem emit_cxl : (s.emit o).cxl = s.cxl := rfl
@[simp] theorem emit_frx : (s.emit o).frx = s.frx := rfl
@[simp] theorem emit_reqs : (s.emit o).reqs = s.reqs := rfl
@[simp] theorem emit_nextTag : (s.emit o).nextTag = s.nextTag := rfl
@[simp] theorem emit_boot : (s.emit o).boot = s.boot := rfl
@[simp] theorem emit_pins : (s.emit o).pins = s.pins := rfl
@[simp] theorem emit_i3c : (s.emit o).i3c = s.i3c := rfl
@[simp] theorem emit_session : (s.emit o).session = s.session := rfl
@[simp] theorem emit_np : (s.emit o).np = s.np := rfl
@[simp] theorem emit_cmd : (s.emit o).cmd = s.cmd := rfl
@[simp] theorem emit_mg : (s.emit o).mg = s.mg := rfl
@[simp] theorem emit_pw : (s.emit o).pw = s.pw := rfl
@[simp] theorem emit_nv : (s.emit o).nv = s.nv := rfl
@[simp] theorem emit_nvWas : (s.emit o).nvWas = s.nvWas := rfl
@[simp] theorem emit_ik : (s.emit o).ik = s.ik := rfl
@[simp] theorem emit_free : (s.emit o).free = s.free := rfl
@[simp] theorem emit_out : (s.emit o).out = o :: s.out := rfl
@[simp] theorem emit_pending : (s.emit o).pending = s.pending := rfl
@[simp] theorem emit_eng (j : Nat) : (s.emit o).eng j = s.eng j := rfl
@[simp] theorem emit_sqr (j : Nat) : (s.emit o).sqr j = s.sqr j := rfl
@[simp] theorem emit_rank (j : Nat) : (s.emit o).rank j = s.rank j := rfl
@[simp] theorem emit_ctx (j : Byte) : (s.emit o).ctx j = s.ctx j := rfl
@[simp] theorem emit_mapCopy (j : Nat) : (s.emit o).mapCopy j = s.mapCopy j := rfl

end

/-! ### nvSet -/

section
variable (s : State) (n : Nv)

@[simp] theorem nvSet_engines : (nvSet n s).engines = s.engines := rfl
@[simp] theorem nvSet_squares : (nvSet n s).squares = s.squares := rfl
@[simp] theorem nvSet_ranks : (nvSet n s).ranks = s.ranks := rfl
@[simp] theorem nvSet_hub : (nvSet n s).hub = s.hub := rfl
@[simp] theorem nvSet_hbm : (nvSet n s).hbm = s.hbm := rfl
@[simp] theorem nvSet_tile : (nvSet n s).tile = s.tile := rfl
@[simp] theorem nvSet_poison : (nvSet n s).poison = s.poison := rfl
@[simp] theorem nvSet_flaws : (nvSet n s).flaws = s.flaws := rfl
@[simp] theorem nvSet_board : (nvSet n s).board = s.board := rfl
@[simp] theorem nvSet_jobs : (nvSet n s).jobs = s.jobs := rfl
@[simp] theorem nvSet_nextJob : (nvSet n s).nextJob = s.nextJob := rfl
@[simp] theorem nvSet_bellOrder : (nvSet n s).bellOrder = s.bellOrder := rfl
@[simp] theorem nvSet_ctxs : (nvSet n s).ctxs = s.ctxs := rfl
@[simp] theorem nvSet_chains : (nvSet n s).chains = s.chains := rfl
@[simp] theorem nvSet_chst : (nvSet n s).chst = s.chst := rfl
@[simp] theorem nvSet_cxl : (nvSet n s).cxl = s.cxl := rfl
@[simp] theorem nvSet_frx : (nvSet n s).frx = s.frx := rfl
@[simp] theorem nvSet_reqs : (nvSet n s).reqs = s.reqs := rfl
@[simp] theorem nvSet_nextTag : (nvSet n s).nextTag = s.nextTag := rfl
@[simp] theorem nvSet_boot : (nvSet n s).boot = s.boot := rfl
@[simp] theorem nvSet_pins : (nvSet n s).pins = s.pins := rfl
@[simp] theorem nvSet_i3c : (nvSet n s).i3c = s.i3c := rfl
@[simp] theorem nvSet_session : (nvSet n s).session = s.session := rfl
@[simp] theorem nvSet_np : (nvSet n s).np = s.np := rfl
@[simp] theorem nvSet_cmd : (nvSet n s).cmd = s.cmd := rfl
@[simp] theorem nvSet_mg : (nvSet n s).mg = s.mg := rfl
@[simp] theorem nvSet_pw : (nvSet n s).pw = s.pw := rfl
@[simp] theorem nvSet_nv : (nvSet n s).nv = n := rfl
@[simp] theorem nvSet_nvWas : (nvSet n s).nvWas = s.nv :: s.nvWas := rfl
@[simp] theorem nvSet_ik : (nvSet n s).ik = s.ik := rfl
@[simp] theorem nvSet_free : (nvSet n s).free = s.free := rfl
@[simp] theorem nvSet_out : (nvSet n s).out = s.out := rfl
@[simp] theorem nvSet_pending : (nvSet n s).pending = s.pending := rfl
@[simp] theorem nvSet_eng (j : Nat) : (nvSet n s).eng j = s.eng j := rfl
@[simp] theorem nvSet_sqr (j : Nat) : (nvSet n s).sqr j = s.sqr j := rfl
@[simp] theorem nvSet_rank (j : Nat) : (nvSet n s).rank j = s.rank j := rfl
@[simp] theorem nvSet_ctx (j : Byte) : (nvSet n s).ctx j = s.ctx j := rfl
@[simp] theorem nvSet_mapCopy (j : Nat) : (nvSet n s).mapCopy j = s.mapCopy j := rfl

end

end Sys2Proof.Machine.State
end

