-- ==== Sys2Proof/Laws/Memory.lean ====
section
/-! SUPPORT. The laws of sparse maps and memories: a read after a write, the canonical form that every
memory operation keeps, and equal contents are equal data. -/

namespace Sys2Proof.Machine

/-! ### Reads after writes -/

theorem SMap.get_put {α : Type} (d x : α) (m : SMap α) (k j : Nat) :
    SMap.get d (m.put k x) j = if k = j then x else SMap.get d m j := by
  induction m with
  | nil => simp [SMap.put, SMap.get]
  | cons p m ih =>
    obtain ⟨i, y⟩ := p
    simp only [SMap.put]
    split
    · simp [SMap.get]
    · split
      · rename_i h; subst h
        simp only [SMap.get]
        split <;> simp_all
      · simp only [SMap.get, ih]
        by_cases hij : i = j
        · have hkj : ¬ k = j := by omega
          rw [if_pos hij, if_pos hij, if_neg hkj]
        · rw [if_neg hij, if_neg hij]

@[simp] theorem SMap.get_put_same {α : Type} (d x : α) (m : SMap α) (k : Nat) :
    SMap.get d (m.put k x) k = x := by simp [SMap.get_put]

theorem SMap.get_put_other {α : Type} (d x : α) (m : SMap α) {k j : Nat} (h : k ≠ j) :
    SMap.get d (m.put k x) j = SMap.get d m j := by simp [SMap.get_put, h]

theorem SMap.get_filter {α : Type} (d : α) (p : Nat → Bool) (m : SMap α) (j : Nat) :
    SMap.get d (m.filter fun q => p q.1) j = if p j then SMap.get d m j else d := by
  induction m with
  | nil => simp [SMap.get]
  | cons q m ih =>
    obtain ⟨i, y⟩ := q
    by_cases hp : p i
    · by_cases hj : i = j
      · subst hj; simp [SMap.get, hp]
      · simp [SMap.get, hp, hj, ih]
    · by_cases hj : i = j
      · subst hj; simp [hp, ih]
      · simp [SMap.get, hp, hj, ih]

theorem SMap.get_del {α : Type} (d : α) (m : SMap α) (k j : Nat) :
    SMap.get d (m.del k) j = if k = j then d else SMap.get d m j := by
  have h := SMap.get_filter d (fun i => decide (i ≠ k)) m j
  unfold SMap.del
  rw [h]
  by_cases hk : k = j <;> simp [hk, eq_comm]

theorem SMap.get_set {α : Type} [DecidableEq α] (d x : α) (m : SMap α) (k j : Nat) :
    SMap.get d (SMap.set d m k x) j = if k = j then x else SMap.get d m j := by
  unfold SMap.set
  split
  · rename_i h; rw [SMap.get_del, h]
  · rw [SMap.get_put]

theorem Mem.get_set (m : Mem) (a i : Nat) (b : Byte) :
    (m.set a b).get i = if a = i then b else m.get i := SMap.get_set 0 b m a i

theorem Mem.get_write (m : Mem) (a i : Nat) (bs : List Byte) :
    (m.write a bs).get i = if a ≤ i ∧ i < a + bs.length then bs.getD (i - a) 0 else m.get i := by
  induction bs generalizing m a with
  | nil => rw [Mem.write, if_neg (fun h => by have := h.2; simp at this; omega)]
  | cons b bs ih =>
    rw [Mem.write, ih, Mem.get_set]
    by_cases h1 : a = i
    · subst h1
      rw [if_neg (by omega), if_pos rfl, if_pos (by simp)]
      simp
    · by_cases h2 : a + 1 ≤ i ∧ i < a + 1 + bs.length
      · have h3 : i - a = (i - (a + 1)) + 1 := by omega
        have h4 : a ≤ i ∧ i < a + (b :: bs).length := by simp; omega
        rw [if_pos h2, if_pos h4, h3]; simp
      · have h4 : ¬ (a ≤ i ∧ i < a + (b :: bs).length) := by simp; omega
        rw [if_neg h2, if_neg h4, if_neg h1]

theorem Mem.get_writeMask (m : Mem) (a i : Nat) (bs : List (Option Byte)) :
    (m.writeMask a bs).get i =
      if a ≤ i ∧ i < a + bs.length then (bs.getD (i - a) none).getD (m.get i) else m.get i := by
  induction bs generalizing m a with
  | nil => simp [Mem.writeMask]
  | cons b bs ih =>
    by_cases h2 : a + 1 ≤ i ∧ i < a + 1 + bs.length
    · have h3 : i - a = (i - (a + 1)) + 1 := by omega
      have h4 : a ≤ i ∧ i < a + (b :: bs).length := by simp; omega
      have h1 : ¬ a = i := by omega
      cases b <;> simp only [Mem.writeMask] <;> rw [ih, if_pos h2, if_pos h4, h3] <;>
        simp [Mem.get_set, h1]
    · by_cases h1 : a = i
      · subst h1
        cases b <;> simp only [Mem.writeMask] <;> rw [ih, if_neg h2, if_pos (by simp)] <;>
          simp [Mem.get_set]
      · have h4 : ¬ (a ≤ i ∧ i < a + (b :: bs).length) := by simp; omega
        cases b <;> simp only [Mem.writeMask] <;> rw [ih, if_neg h2, if_neg h4]
        rw [Mem.get_set, if_neg h1]

theorem Mem.get_clear (m : Mem) (a b i : Nat) :
    (m.clear a b).get i = if a ≤ i ∧ i < b then 0 else m.get i := by
  have h := SMap.get_filter (0 : Byte) (fun j => decide (j < a ∨ b ≤ j)) m i
  unfold Mem.clear Mem.get
  rw [h]
  by_cases hi : a ≤ i ∧ i < b
  · rw [if_pos hi, if_neg]; simp; omega
  · rw [if_neg hi, if_pos]; simp; omega

@[simp] theorem Mem.get_nil (i : Nat) : Mem.get [] i = 0 := rfl

@[simp] theorem Mem.bytes_length (m : Mem) (a n : Nat) : (m.bytes a n).length = n := by simp [Mem.bytes]

theorem Mem.bytes_congr {m m' : Mem} {a n : Nat} (h : ∀ i < n, m.get (a + i) = m'.get (a + i)) :
    m.bytes a n = m'.bytes a n := by
  unfold Mem.bytes
  exact List.map_congr_left fun i hi => h i (List.mem_range.mp hi)

theorem Mem.bytes_write_same (m : Mem) (a : Nat) (bs : List Byte) : (m.write a bs).bytes a bs.length = bs := by
  apply List.ext_getElem
  · simp
  · intro i h1 h2
    simp only [Mem.bytes, List.getElem_map, List.getElem_range, Mem.get_write]
    rw [if_pos (by omega)]
    simp [h2]

/-! ### The canonical form -/

theorem SMap.wfFrom_mono {α : Type} [DecidableEq α] {d : α} {b b' : Nat} {m : SMap α} (hb : b' ≤ b)
    (h : SMap.wfFrom d b m = true) : SMap.wfFrom d b' m = true := by
  cases m with
  | nil => rfl
  | cons p m =>
    simp only [SMap.wfFrom, Bool.and_eq_true, decide_eq_true_eq] at h ⊢
    exact ⟨⟨by omega, h.1.2⟩, h.2⟩

theorem SMap.wfFrom_put {α : Type} [DecidableEq α] {d x : α} {b k : Nat} {m : SMap α}
    (h : SMap.wfFrom d b m = true) (hk : b ≤ k) (hx : x ≠ d) : SMap.wfFrom d b (m.put k x) = true := by
  induction m generalizing b with
  | nil => simp [SMap.put, SMap.wfFrom, hk, hx]
  | cons p m ih =>
    obtain ⟨i, y⟩ := p
    simp only [SMap.wfFrom, Bool.and_eq_true, decide_eq_true_eq] at h
    obtain ⟨⟨h1, h2⟩, h3⟩ := h
    simp only [SMap.put]
    split
    · simp only [SMap.wfFrom, Bool.and_eq_true, decide_eq_true_eq]
      exact ⟨⟨hk, hx⟩, ⟨by omega, h2⟩, h3⟩
    · split
      · rename_i h4; subst h4
        simp only [SMap.wfFrom, Bool.and_eq_true, decide_eq_true_eq]
        exact ⟨⟨hk, hx⟩, h3⟩
      · simp only [SMap.wfFrom, Bool.and_eq_true, decide_eq_true_eq]
        exact ⟨⟨h1, h2⟩, ih h3 (by omega)⟩

theorem SMap.wfFrom_filter {α : Type} [DecidableEq α] {d : α} {b : Nat} {m : SMap α} (p : Nat × α → Bool)
    (h : SMap.wfFrom d b m = true) : SMap.wfFrom d b (m.filter p) = true := by
  induction m generalizing b with
  | nil => rfl
  | cons q m ih =>
    simp only [SMap.wfFrom, Bool.and_eq_true, decide_eq_true_eq] at h
    rw [List.filter_cons]
    split
    · simp only [SMap.wfFrom, Bool.and_eq_true, decide_eq_true_eq]
      exact ⟨h.1, ih h.2⟩
    · exact ih (SMap.wfFrom_mono (by omega) h.2)

theorem SMap.wf_del {α : Type} [DecidableEq α] {d : α} {m : SMap α} (k : Nat) (h : SMap.wf d m = true) :
    SMap.wf d (m.del k) = true := SMap.wfFrom_filter _ h

theorem SMap.wf_set {α : Type} [DecidableEq α] {d : α} {m : SMap α} (k : Nat) (x : α)
    (h : SMap.wf d m = true) : SMap.wf d (SMap.set d m k x) = true := by
  unfold SMap.set
  split
  · exact SMap.wf_del k h
  · exact SMap.wfFrom_put h (Nat.zero_le k) (by assumption)

@[simp] theorem Mem.wf_nil : Mem.wf [] = true := rfl

theorem Mem.wf_set {m : Mem} (a : Nat) (b : Byte) (h : m.wf = true) : (m.set a b).wf = true :=
  SMap.wf_set a b h

theorem Mem.wf_write {m : Mem} (a : Nat) (bs : List Byte) (h : m.wf = true) : (m.write a bs).wf = true := by
  induction bs generalizing m a with
  | nil => exact h
  | cons b bs ih => exact ih (a + 1) (Mem.wf_set a b h)

theorem Mem.wf_writeMask {m : Mem} (a : Nat) (bs : List (Option Byte)) (h : m.wf = true) :
    (m.writeMask a bs).wf = true := by
  induction bs generalizing m a with
  | nil => exact h
  | cons b bs ih =>
    cases b with
    | none => exact ih (a + 1) h
    | some b => exact ih (a + 1) (Mem.wf_set a b h)

theorem Mem.wf_clear {m : Mem} (a b : Nat) (h : m.wf = true) : (m.clear a b).wf = true :=
  SMap.wfFrom_filter _ h

/-! ### Equal contents are equal data -/

theorem SMap.get_below {α : Type} [DecidableEq α] {d : α} {b k : Nat} {m : SMap α}
    (h : SMap.wfFrom d b m = true) (hk : k < b) : SMap.get d m k = d := by
  induction m generalizing b with
  | nil => rfl
  | cons p m ih =>
    simp only [SMap.wfFrom, Bool.and_eq_true, decide_eq_true_eq] at h
    simp only [SMap.get]
    rw [if_neg (by omega)]
    exact ih h.2 (by omega)

theorem SMap.ext_wfFrom {α : Type} [DecidableEq α] {d : α} {b b' : Nat} {m m' : SMap α}
    (h : SMap.wfFrom d b m = true) (h' : SMap.wfFrom d b' m' = true)
    (hg : ∀ k, SMap.get d m k = SMap.get d m' k) : m = m' := by
  induction m generalizing b b' m' with
  | nil =>
    cases m' with
    | nil => rfl
    | cons q m' =>
      simp only [SMap.wfFrom, Bool.and_eq_true, decide_eq_true_eq] at h'
      have := hg q.1
      simp only [SMap.get, if_true] at this
      exact absurd this.symm h'.1.2
  | cons p m ih =>
    obtain ⟨i, x⟩ := p
    simp only [SMap.wfFrom, Bool.and_eq_true, decide_eq_true_eq] at h
    cases m' with
    | nil =>
      have := hg i
      simp only [SMap.get, if_true] at this
      exact absurd this h.1.2
    | cons q m' =>
      obtain ⟨j, y⟩ := q
      simp only [SMap.wfFrom, Bool.and_eq_true, decide_eq_true_eq] at h'
      have hij : i = j := by
        rcases Nat.lt_trichotomy i j with hlt | heq | hgt
        · have := hg i
          simp only [SMap.get, if_true] at this
          rw [if_neg (by omega), SMap.get_below h'.2 (by omega)] at this
          exact absurd this h.1.2
        · exact heq
        · have := hg j
          simp only [SMap.get, if_true] at this
          rw [if_neg (by omega), SMap.get_below h.2 (by omega)] at this
          exact absurd this.symm h'.1.2
      subst hij
      have hxy : x = y := by simpa [SMap.get] using hg i
      subst hxy
      have : m = m' := by
        apply ih h.2 h'.2
        intro k
        by_cases hk : i = k
        · subst hk
          rw [SMap.get_below h.2 (by omega), SMap.get_below h'.2 (by omega)]
        · simpa [SMap.get, hk] using hg k
      rw [this]

theorem Mem.ext {m m' : Mem} (h : m.wf = true) (h' : m'.wf = true) (hg : ∀ a, m.get a = m'.get a) :
    m = m' := SMap.ext_wfFrom h h' hg

/-! ### The parts of the state -/

theorem State.eng_setEng (s : State) (e k : Nat) (x : Engine) :
    (s.setEng e x).eng k = if e = k then x else s.eng k := SMap.get_put ({} : Engine) x s.engines e k

@[simp] theorem State.eng_setEng_same (s : State) (e : Nat) (x : Engine) : (s.setEng e x).eng e = x := by
  simp [State.eng_setEng]

theorem State.eng_modEng (s : State) (e k : Nat) (f : Engine → Engine) :
    (s.modEng e f).eng k = if e = k then f (s.eng e) else s.eng k := State.eng_setEng s e k _

@[simp] theorem State.eng_modEng_same (s : State) (e : Nat) (f : Engine → Engine) :
    (s.modEng e f).eng e = f (s.eng e) := by simp [State.eng_modEng]

theorem State.sqr_modSq (s : State) (i k : Nat) (f : Square → Square) :
    (s.modSq i f).sqr k = if i = k then f (s.sqr i) else s.sqr k := SMap.get_put ({} : Square) _ s.squares i k

@[simp] theorem State.sqr_modSq_same (s : State) (i : Nat) (f : Square → Square) :
    (s.modSq i f).sqr i = f (s.sqr i) := by simp [State.sqr_modSq]

theorem State.rank_modRank (s : State) (i k : Nat) (f : Rank → Rank) :
    (s.modRank i f).rank k = if i = k then f (s.rank i) else s.rank k := SMap.get_put ({} : Rank) _ s.ranks i k

theorem State.ctx_modCtx (s : State) (c k : Byte) (f : Ctx → Ctx) :
    (s.modCtx c f).ctx k = if c = k then f (s.ctx c) else s.ctx k := by
  have h := SMap.get_put ({} : Ctx) (f (s.ctx c)) s.ctxs c.toNat k.toNat
  simp only [BitVec.toNat_inj] at h
  exact h

theorem State.mapCopy_modCopy (s : State) (n k : Nat) (f : MapCopy → MapCopy) :
    (s.modCopy n f).mapCopy k = if n = k then f (s.mapCopy n) else s.mapCopy k :=
  SMap.get_put ({} : MapCopy) _ s.hub.copies n k

end Sys2Proof.Machine
end

