-- ==== Sys2Proof/Laws/Ops.lean ====
section
/-! SUPPORT. What each shared operation over registers, alerts, errors in memory and writes can do, said
once. -/

namespace Sys2Proof.Machine

/-! ### General registers (R133 to R135) -/

@[simp] theorem Engine.reg_zero (x : Engine) : x.reg 0 = 0 := rfl

theorem Engine.reg_sp (x : Engine) : x.reg 31 = (x.stk[x.trap.ring.toNat]).setWidth 64 := rfl

theorem Engine.reg_other {x : Engine} {q : Reg} (h0 : q ≠ 0) (h31 : q ≠ 31) : x.reg q = x.g[q.toNat] := by
  unfold Engine.reg
  rw [if_neg h0, if_neg h31]

theorem Engine.setReg_other {x : Engine} {r : Reg} {v : Word} (h0 : r ≠ 0) (h31 : r ≠ 31) :
    x.setReg r v = { x with g := x.g.set r.toNat v } := by
  unfold Engine.setReg
  rw [if_neg h0, if_neg h31]

/-- A register reads as written: g0 discards, g31 keeps bits 47:0. -/
theorem Engine.reg_setReg_same {x : Engine} {r : Reg} {v : Word} (h0 : r ≠ 0) :
    (x.setReg r v).reg r = if r = 31 then (v.setWidth 48).setWidth 64 else v := by
  by_cases h31 : r = 31
  · subst h31
    rw [Engine.reg_sp]
    exact congrArg (BitVec.setWidth 64) (Vector.getElem_set_self _)
  · rw [Engine.setReg_other h0 h31, Engine.reg_other h0 h31, if_neg h31]
    exact Vector.getElem_set_self _

/-- A register write leaves every other register. -/
theorem Engine.reg_setReg_other {x : Engine} {r q : Reg} {v : Word} (h : q ≠ r) :
    (x.setReg r v).reg q = x.reg q := by
  by_cases h0 : r = 0
  · subst h0; rfl
  · by_cases h31 : r = 31
    · subst h31
      by_cases hz : q = 0
      · subst hz; rfl
      · rw [Engine.reg_other hz h, Engine.reg_other hz h]; rfl
    · rw [Engine.setReg_other h0 h31]
      by_cases hz : q = 0
      · subst hz; rfl
      · by_cases hq : q = 31
        · subst hq; rfl
        · rw [Engine.reg_other hz hq, Engine.reg_other hz hq]
          exact Vector.getElem_set_ne r.isLt q.isLt fun e => h (BitVec.eq_of_toNat_eq e.symm)

@[simp] theorem Engine.setReg_zero (x : Engine) (v : Word) : x.setReg 0 v = x := rfl

/-- A register write changes the registers g0 to g31 alone. -/
theorem Engine.setReg_frame (x : Engine) (r : Reg) (v : Word) :
    ∃ g stk, x.setReg r v = { x with g := g, stk := stk } := by
  unfold Engine.setReg
  split
  · exact ⟨x.g, x.stk, rfl⟩
  · split
    · exact ⟨x.g, _, rfl⟩
    · exact ⟨_, x.stk, rfl⟩

/-- So does a write of a register pair. -/
theorem Engine.setPair_frame (x : Engine) (r : Reg) (lo hi : Word) :
    ∃ g stk, x.setPair r lo hi = { x with g := g, stk := stk } := by
  unfold Engine.setPair
  obtain ⟨g, stk, h⟩ := Engine.setReg_frame x r lo
  obtain ⟨g', stk', h'⟩ := Engine.setReg_frame (x.setReg r lo) (nextReg r) hi
  exact ⟨g', stk', by rw [h', h]⟩

/-! ### Alerts and the health log -/

/-- An alert changes MG_ALERTST and what the I3C target sends or keeps to send. -/
theorem alert_frame (b : BitVec 6) (s : State) :
    ∃ o i, alert b s = { s with mg := { s.mg with alert := s.mg.alert ||| b }, out := o, i3c := i } := by
  unfold alert
  dsimp only
  split
  · exact ⟨s.out, s.i3c, rfl⟩
  · split
    · exact ⟨_, s.i3c, rfl⟩
    · exact ⟨s.out, _, rfl⟩

/-- A health entry is the newest of the log, and sets HEALTH. -/
theorem health_frame (code wher : BitVec 16) (data : List Byte) (s : State) :
    ∃ o i h, health code wher data s =
      { s with
        mg := { s.mg with alert := s.mg.alert ||| 4 }, out := o, i3c := i
        nv := { s.nv.renewed (.health (s.nv.healthSeq % 32768)) with
          health := (h :: s.nv.health).take 32768, healthSeq := s.nv.healthSeq + 1 }
        nvWas := s.nv :: s.nvWas } ∧
      h.code = code ∧ h.wher = wher ∧ h.seq = s.nv.healthSeq := by
  unfold health
  dsimp only
  obtain ⟨o, i, h⟩ := alert_frame 4 (nvSet { s.nv.renewed (.health (s.nv.healthSeq % 32768)) with
    health := (HealthEntry.mk s.nv.healthSeq s.mg.timebase s.nv.boots code wher (padTo 40 data) ::
      s.nv.health).take 32768, healthSeq := s.nv.healthSeq + 1 } s)
  exact ⟨o, i, _, h, rfl, rfl, rfl⟩

/-! ### Errors in memory (R119 to R126) -/

/-- What a detection of an error, or a read that finds none, leaves as it was. -/
structure SameButErrors (s t : State) : Prop where
  hbm : t.hbm = s.hbm
  tile : t.tile = s.tile
  engines : t.engines = s.engines
  squares : t.squares = s.squares
  board : t.board = s.board
  jobs : t.jobs = s.jobs
  ctxs : t.ctxs = s.ctxs
  reqs : t.reqs = s.reqs
  boot : t.boot = s.boot
  session : t.session = s.session
  cxl : t.cxl = s.cxl
  frx : t.frx = s.frx
  ik : t.ik = s.ik
  pending : t.pending = s.pending
  free : t.free = s.free

theorem SameButErrors.refl (s : State) : SameButErrors s s :=
  ⟨rfl, rfl, rfl, rfl, rfl, rfl, rfl, rfl, rfl, rfl, rfl, rfl, rfl, rfl, rfl⟩

theorem health_same (code wher : BitVec 16) (data : List Byte) (s : State) :
    SameButErrors s (health code wher data s) := by
  obtain ⟨o, i, h, e, -⟩ := health_frame code wher data s
  rw [e]
  exact ⟨rfl, rfl, rfl, rfl, rfl, rfl, rfl, rfl, rfl, rfl, rfl, rfl, rfl, rfl, rfl⟩

theorem detectHbm_same (master sec : Nat) (s : State) : SameButErrors s (detectHbm master sec s) := by
  unfold detectHbm
  dsimp only
  have h := health_same 2 0xFFFF
    (leBytes 8 (ueLogged s.hub (place 58 4 master ||| place 0 39 (sec * 64))).toNat)
    { s with
      hub := { s.hub with ueHbm := satInc s.hub.ueHbm,
                          ueLog := ueLogged s.hub (place 58 4 master ||| place 0 39 (sec * 64)) }
      poison := insertNat sec s.poison
      flaws := { s.flaws with hbm := s.flaws.hbm.del sec } }
  exact ⟨h.hbm, h.tile, h.engines, h.squares, h.board, h.jobs, h.ctxs, h.reqs, h.boot, h.session, h.cxl,
    h.frx, h.ik, h.pending, h.free⟩

theorem detectChip_same (array sq pos off : Nat) (s : State) :
    SameButErrors s (detectChip array sq pos off s) := by
  unfold detectChip
  dsimp only
  have h (w : BitVec 16) (l : List Byte) (u : Hub) := health_same 2 w l { s with hub := u }
  constructor <;> first
    | exact (h _ _ _).hbm | exact (h _ _ _).tile | exact (h _ _ _).engines | exact (h _ _ _).squares
    | exact (h _ _ _).board | exact (h _ _ _).jobs | exact (h _ _ _).ctxs | exact (h _ _ _).reqs
    | exact (h _ _ _).boot | exact (h _ _ _).session | exact (h _ _ _).cxl | exact (h _ _ _).frx
    | exact (h _ _ _).ik | exact (h _ _ _).pending | exact (h _ _ _).free

theorem SameButErrors.trans {s t u : State} (h : SameButErrors s t) (k : SameButErrors t u) :
    SameButErrors s u :=
  ⟨k.hbm.trans h.hbm, k.tile.trans h.tile, k.engines.trans h.engines, k.squares.trans h.squares,
    k.board.trans h.board, k.jobs.trans h.jobs, k.ctxs.trans h.ctxs, k.reqs.trans h.reqs, k.boot.trans h.boot,
    k.session.trans h.session, k.cxl.trans h.cxl, k.frx.trans h.frx, k.ik.trans h.ik,
    k.pending.trans h.pending, k.free.trans h.free⟩

theorem noteInner_same (sec : Nat) (s : State) : SameButErrors s (noteInner sec s) := by
  unfold noteInner
  split
  · exact ⟨rfl, rfl, rfl, rfl, rfl, rfl, rfl, rfl, rfl, rfl, rfl, rfl, rfl, rfl, rfl⟩
  · exact SameButErrors.refl s

theorem correctHbm_same (sec : Nat) (s : State) : SameButErrors s (correctHbm sec s) :=
  ⟨rfl, rfl, rfl, rfl, rfl, rfl, rfl, rfl, rfl, rfl, rfl, rfl, rfl, rfl, rfl⟩

/-- A probe of an HBM sector changes error bookkeeping alone. -/
theorem probeHbm_same (master pa : Nat) (s : State) : SameButErrors s (probeHbm master pa s).2 := by
  unfold probeHbm
  dsimp only
  split
  · exact SameButErrors.refl s
  · refine (noteInner_same (pa / 64) s).trans ?_
    split
    · exact SameButErrors.refl _
    · split
      · exact detectHbm_same master _ _
      · split
        · exact correctHbm_same _ _
        · exact SameButErrors.refl _

/-- A probe of a good sector finds no error and changes nothing. -/
theorem probeHbm_clean {pa : Nat} {s : State} (master : Nat) (h1 : unreachable s.hub pa = false)
    (h2 : pa / 64 ∉ s.poison) (h3 : pa / 64 ∉ s.flaws.hbmUe) (h4 : pa / 64 ∉ s.flaws.hbmCe)
    (h5 : pa / 64 ∉ s.flaws.inner) : probeHbm master pa s = (false, s) := by
  simp [probeHbm, noteInner, h1, h2, h3, h4, h5]

/-- A probe of an on-chip array changes error bookkeeping alone. -/
theorem probeChip_same (array eng line off n : Nat) (adr : Nat → Nat) (s : State) :
    SameButErrors s (probeChip array eng line off n adr s).2 := by
  unfold probeChip
  dsimp only
  split
  · refine SameButErrors.trans ?_ (detectChip_same _ _ _ _ _)
    exact ⟨rfl, rfl, rfl, rfl, rfl, rfl, rfl, rfl, rfl, rfl, rfl, rfl, rfl, rfl, rfl⟩
  · exact ⟨rfl, rfl, rfl, rfl, rfl, rfl, rfl, rfl, rfl, rfl, rfl, rfl, rfl, rfl, rfl⟩

theorem probeTile_same (key n : Nat) (s : State) : SameButErrors s (probeTile key n s).2 :=
  probeChip_same _ _ _ _ _ _ s

theorem probeMap_same (array page : Nat) (s : State) : SameButErrors s (probeMap array page s).2 :=
  probeChip_same _ _ _ _ _ _ s

/-! ### Writes of the NV store (R494, R497) -/

/-- A word of the NV store written changes the NV store, and leaves what it was for a loss of power to find. -/
theorem nvSet_frame (n : Nv) (s : State) : nvSet n s = { s with nv := n, nvWas := s.nv :: s.nvWas } := rfl

/-- A two-copy record written: the store is the one with both copies new and without their errors, and four
    stores may be found in its place. -/
theorem nvRecord_frame {α : Type} (k : Nat) (put : NvRec α → Nv) (r : NvRec α) (x : α) (s : State) :
    ∃ c a b d, nvRecord k put r x s =
      { s with nv := ((put ⟨c, c⟩).renewed (.counter k false)).renewed (.counter k true)
               nvWas := a :: b :: d :: s.nv :: s.nvWas } ∧ c = some ((s.nv.held k r).writes + 1, x) :=
  ⟨_, _, _, _, rfl, rfl⟩

/-! ### Writes to memory -/

/-- Dropping reservations changes the reservation field of engines alone. -/
theorem dropResv_frame (me : Option Nat) (sec : Nat) (s : State) :
    ∃ l, dropResv me sec s = { s with engines := l } := ⟨_, rfl⟩

/-- An engine after reservations are dropped. -/
theorem eng_dropResv (me : Option Nat) (sec : Nat) (s : State) (k : Nat) :
    (dropResv me sec s).eng k =
      if (s.eng k).resv = some sec ∧ some k ≠ me then { s.eng k with resv := none } else s.eng k := by
  unfold dropResv State.eng
  dsimp only
  induction s.engines with
  | nil => simp [SMap.get]
  | cons p m ih =>
    obtain ⟨i, x⟩ := p
    by_cases h : i = k
    · subst h
      by_cases hr : x.resv = some sec ∧ some i ≠ me
      · simp only [List.map_cons, SMap.get, if_pos hr, if_true]
      · simp only [List.map_cons, SMap.get, if_neg hr, if_true]
    · by_cases hr : x.resv = some sec ∧ some i ≠ me
      · simp only [List.map_cons, SMap.get, if_pos hr, if_neg h]; assumption
      · simp only [List.map_cons, SMap.get, if_neg hr, if_neg h]; assumption

/-- A write inside an HBM sector: the enabled bytes, and nothing else of any memory. -/
theorem writeHbm_spec (me : Option Nat) (pa : Nat) (bs : List (Option Byte)) (s : State) :
    (writeHbm me pa bs s).hbm = s.hbm.writeMask pa bs ∧ (writeHbm me pa bs s).tile = s.tile ∧
      (writeHbm me pa bs s).engines = (dropResv me (pa / 64) s).engines ∧
      (writeHbm me pa bs s).squares = s.squares ∧ (writeHbm me pa bs s).hub = s.hub ∧
      (writeHbm me pa bs s).pending = s.pending := by
  unfold writeHbm
  dsimp only
  split <;> exact ⟨rfl, rfl, rfl, rfl, rfl, rfl⟩

/-- A write to a tile store: the enabled bytes, and nothing else of any memory. -/
theorem writeTile_spec (me : Option Nat) (key : Nat) (bs : List (Option Byte)) (s : State) :
    (writeTile me key bs s).tile = s.tile.writeMask key bs ∧ (writeTile me key bs s).hbm = s.hbm ∧
      (writeTile me key bs s).engines = (dropResv me (tileSector key) s).engines ∧
      (writeTile me key bs s).squares = s.squares ∧ (writeTile me key bs s).hub = s.hub ∧
      (writeTile me key bs s).pending = s.pending := ⟨rfl, rfl, rfl, rfl, rfl, rfl⟩

/-- Both writes keep the canonical form of the memories. -/
theorem writeHbm_wf {s : State} (me : Option Nat) (pa : Nat) (bs : List (Option Byte)) (h : s.hbm.wf = true) :
    (writeHbm me pa bs s).hbm.wf = true := by
  rw [(writeHbm_spec me pa bs s).1]
  exact Mem.wf_writeMask pa bs h

theorem writeTile_wf {s : State} (me : Option Nat) (key : Nat) (bs : List (Option Byte))
    (h : s.tile.wf = true) : (writeTile me key bs s).tile.wf = true := Mem.wf_writeMask key bs h

/-! ### The monad of an engine's work -/

theorem em_bind_ok {α β : Type} {x : EM α} {f : α → EM β} {s t : State} {b : β}
    (h : (x >>= f) s = .ok b t) : ∃ a u, x s = .ok a u ∧ f a u = .ok b t := by
  simp only [bind, EStateM.bind] at h
  cases hx : x s with
  | ok a u => exact ⟨a, u, rfl, by simpa [hx] using h⟩
  | error e u => simp [hx] at h

@[simp] theorem em_pure {α : Type} (a : α) (s : State) : (pure a : EM α) s = .ok a s := rfl

@[simp] theorem em_raise {α : Type} (v : Ev) (s : State) : (raise v : EM α) s = .error (.ev v) s := rfl

@[simp] theorem em_hold {α : Type} (s : State) : (hold : EM α) s = .error .wait s := rfl

@[simp] theorem em_upd (f : State → State) (s : State) : upd f s = .ok () (f s) := rfl

@[simp] theorem em_updE (e : Nat) (f : Engine → Engine) (s : State) :
    updE e f s = .ok () (s.modEng e f) := rfl

@[simp] theorem em_engM (e : Nat) (s : State) : engM e s = .ok (s.eng e) s := rfl

@[simp] theorem em_liftP {α : Type} (f : State → α × State) (s : State) :
    liftP f s = .ok (f s).1 (f s).2 := rfl

@[simp] theorem em_fresh (s : State) : fresh s = .ok s.free { s with free := s.free + 1 } := rfl

end Sys2Proof.Machine
end

