-- ==== Sys2Proof/Laws/Command.lean ====
section
/-! SUPPORT. What a command frame can come to, said once, and the lengths of the byte strings that frames
carry. -/

namespace Sys2Proof.Machine

/-! ### Lengths -/

@[simp] theorem leBytes_length (n v : Nat) : (leBytes n v).length = n := by simp [leBytes]

@[simp] theorem beBytes_length (n v : Nat) : (beBytes n v).length = n := by simp [beBytes]

@[simp] theorem hashBytes_length (w : BitVec 512) : (hashBytes w).length = 64 := leBytes_length 64 _

theorem shaBlock_length {h : List Word} (b : List Byte) (hh : h.length = 8) : (shaBlock h b).length = 8 := by
  simp [shaBlock, hh]

theorem shaBlocks_length (n : Nat) : ∀ (h : List Word) (m : List Byte), h.length = 8 →
    (shaBlocks n h m).length = 8 := by
  induction n with
  | zero => exact fun h m hh => hh
  | succ n ih =>
    intro h m hh
    cases m with
    | nil => exact hh
    | cons b bs => exact ih _ _ (shaBlock_length _ hh)

theorem flatMap_beBytes_length (l : List Word) : (l.flatMap fun w => beBytes 8 w.toNat).length = 8 * l.length := by
  induction l with
  | nil => rfl
  | cons w l ih => rw [List.flatMap_cons, List.length_append, ih, beBytes_length, List.length_cons]; omega

/-- A digest has 64 bytes. -/
@[simp] theorem sha512_length (m : List Byte) : (sha512 m).length = 64 := by
  show (List.flatMap _ _).length = 64
  rw [flatMap_beBytes_length, shaBlocks_length _ _ _ (by simp [eightWords])]

@[simp] theorem hmac512_length (k m : List Byte) : (hmac512 k m).length = 64 := sha512_length _

/-! ### Responses -/

/-- A response takes the command slot; an in-band interrupt is sent or waits. -/
theorem respond_frame (op st : Byte) (seq : BitVec 32) (p : List Byte) (key : Option (List Byte)) (s : State) :
    ∃ o i, respond op st seq p key s =
      { s with cmd := ⟨none, some (responseFrame op st seq p key)⟩, out := o, i3c := i } := by
  unfold respond raiseIbi
  split
  · exact ⟨_, s.i3c, rfl⟩
  · exact ⟨s.out, _, rfl⟩

/-- What a reply makes of the command slot: answered with a payload, refused, or in progress. -/
theorem finishReply_frame (r : CmdRow) (f : Frame) (key : Option (List Byte)) (a : Reply) (s : State) :
    ∃ o i b, finishReply r f key a s = { s with cmd := b, out := o, i3c := i } ∧
      (∀ p, a = .ok p → b = ⟨none, some (responseFrame r.op 0 f.seq p key)⟩) ∧
      (∀ st d, a = .no st d → b = ⟨none, some (responseFrame r.op st f.seq (leBytes 4 d) key)⟩) ∧
      ∀ w, a = .later w → b = { s.cmd with busy := some ⟨r.op, f.seq, key, w⟩ } := by
  cases a with
  | ok p =>
    obtain ⟨o, i, h⟩ := respond_frame r.op 0 f.seq p key s
    exact ⟨o, i, _, h, by rintro _ ⟨⟩; rfl, nofun, nofun⟩
  | no st d =>
    obtain ⟨o, i, h⟩ := respond_frame r.op st f.seq (leBytes 4 d) key s
    exact ⟨o, i, _, h, nofun, by rintro _ _ ⟨⟩; rfl, nofun⟩
  | later w => exact ⟨s.out, s.i3c, _, rfl, nofun, nofun, by rintro _ ⟨⟩; rfl⟩

/-! ### Frames -/

/-- A frame that may be taken: the steward runs and the command slot is free. -/
theorem nacks_eq_false {s : State} :
    nacks s = false ↔ stewardRuns s = true ∧ s.cmd.busy = none ∧ s.cmd.response = none := by
  unfold nacks
  cases stewardRuns s <;> cases s.cmd.busy <;> cases s.cmd.response <;> simp

/-- A frame that is taken and passes the common checks: the command's own work is done on the state after
    them, its reply is finished, and the last SEQ of a tagged command closes the session. -/
theorem command_passes {r : CmdRow} {f : Frame} {own : List Byte → State → Reply × State} {s : State}
    (ha : f.addr = targetAddr s) (hn : nacks s = false) (hst : frameStatus r f s = 0) :
    ∃ key z, command r f own s = finishReply r f key (own (payloadOf f) (sessionAfter r f 0 s)).1
        { (own (payloadOf f) (sessionAfter r f 0 s)).2 with session := z } ∧
      (r.op ≠ 0x02 → key = replyKey r s) ∧
      (r.slots = none ∨ f.seq ≠ 0xFFFFFFFF → z = (own (payloadOf f) (sessionAfter r f 0 s)).2.session) := by
  unfold command
  rw [if_neg fun h => h ha, hn, hst, if_neg (by decide)]
  dsimp only
  rw [if_neg (by decide)]
  generalize own (payloadOf f) (sessionAfter r f 0 s) = w
  obtain ⟨a, t⟩ := w
  dsimp only
  by_cases hz : r.slots.isSome = true ∧ f.seq = 0xFFFFFFFF
  · rw [if_pos hz]
    refine ⟨_, none, rfl, fun h => ?_, fun h => ?_⟩
    · rw [if_neg (by simp only [beq_eq_false_iff_ne.mpr h, Bool.false_and]; decide)]
    · rcases h with h | h
      · rw [h] at hz; exact absurd hz.1 (by decide)
      · exact absurd hz.2 h
  · rw [if_neg hz]
    refine ⟨_, t.session, rfl, fun h => ?_, fun _ => rfl⟩
    rw [if_neg (by simp only [beq_eq_false_iff_ne.mpr h, Bool.false_and]; decide)]

/-- A frame whose TAG is the session's passes the tag check (R454). -/
theorem tagOk_signed {r : CmdRow} {f : Frame} {s : State} {l : List Nat} {x : Session} {p : List Byte}
    (hr : r.slots = some l) (hx : s.session = some x) (hl : f.length.toNat = p.length)
    (hb : f.body = p ++ (hmac512 x.key (signedFrame r.op f)).take 16) : tagOk r f s = true := by
  unfold tagOk
  rw [hr, hx]
  dsimp only
  rw [hl]
  conv => lhs; lhs; rw [hb]
  rw [List.drop_left, beq_self_eq_true]

end Sys2Proof.Machine
end

