-- ==== Sys2Proof/Laws/Issue.lean ====
section
/-! SUPPORT. What one instruction of an engine does, once for all instructions. -/

namespace Sys2Proof.Machine

/-- Everything one instruction can do: the engine does not issue, an event is taken at the boundary in its
    place, it commits, it waits, or its fault is taken. -/
theorem issue_cases (e : Nat) (i : Inst) (s : State) :
    issue e i s = s ∨
    (∃ b, eventBefore i (s.eng e) = some b ∧ issue e i s = stepEnd e (takeFirst e i b s)) ∨
    (∃ fl s1, (issueBody e i).run s = .ok fl s1 ∧ issue e i s = committed e i fl s1) ∨
    (∃ s1, (issueBody e i).run s = .error .wait s1 ∧ issue e i s = s1) ∨
    ∃ v s1, (issueBody e i).run s = .error (.ev v) s1 ∧
      issue e i s = stepEnd e (takeInstFault e i v s s1) := by
  unfold issue
  split
  · cases hb : eventBefore i (s.eng e) with
    | some b => exact .inr (.inl ⟨b, rfl, rfl⟩)
    | none =>
      refine .inr (.inr ?_)
      cases hr : (issueBody e i).run s with
      | ok fl s1 => exact .inl ⟨fl, s1, rfl, rfl⟩
      | error v s1 =>
        cases v with
        | wait => exact .inr (.inl ⟨s1, rfl, rfl⟩)
        | ev v => exact .inr (.inr ⟨v, s1, rfl, rfl⟩)
  · exact .inl rfl

/-- A ready instruction whose work answers a flow commits it. -/
theorem issue_ready {e : Nat} {i : Inst} {s s1 : State} {fl : Flow} (h : ready e i s = true)
    (hr : i.run.run (fetched e s) = .ok fl s1) : issue e i s = committed e i fl s1 := by
  simp only [ready, Bool.and_eq_true, Option.isNone_iff_eq_none] at h
  obtain ⟨⟨⟨⟨hrun, hc⟩, hb⟩, hf⟩, hd⟩ := h
  have hfetch : (s.eng e).mid = true ∧ fetched e s = s ∨
      (s.eng e).mid = false ∧ fetchCheck e s = .ok () (fetched e s) := by
    unfold fetches at hf
    unfold fetched
    cases hm : (s.eng e).mid with
    | true => exact .inl ⟨rfl, rfl⟩
    | false =>
      simp only [hm, Bool.false_or] at hf
      split at hf <;> simp_all [EStateM.run]
  have hbody : (issueBody e i).run s = .ok fl s1 := by
    have hd' := hd
    simp only [decodes, Bool.and_eq_true, Bool.not_eq_true', Bool.and_eq_false_iff, Bool.or_eq_true,
      Option.isNone_iff_eq_none] at hd'
    obtain ⟨⟨⟨⟨⟨h1, h2⟩, h3⟩, h4⟩, h5⟩, h6⟩ := hd'
    have hdec : (decodeCheck (found e s) i).run (fetched e s) = .ok () (fetched e s) := by
      unfold decodeCheck
      rcases h1 with h1 | h1 <;> rcases h4 with h4 | h4 <;> rcases h5 with h5 | h5 <;>
        simp_all [EStateM.run, pure, EStateM.pure]
    have hl : (atLoopEnd (found e s).loops (instPc (found e s)) &&
        (i.loopBad || (found e s).slot.isSome)) = false := by
      simpa only [Bool.and_eq_false_iff] using h6
    simp only [EStateM.run] at hdec hr ⊢
    have hcheck : issueCheck e i s = .ok () (fetched e s) := by
      unfold issueCheck
      unfold found at hdec
      rcases hfetch with ⟨hm, he⟩ | ⟨hm, he⟩
      · simp only [he] at hdec ⊢
        simpa [bind, EStateM.bind, engM, get, getThe, MonadStateOf.get, EStateM.get, pure, EStateM.pure, hm]
          using hdec
      · simpa [bind, EStateM.bind, engM, get, getThe, MonadStateOf.get, EStateM.get, pure, EStateM.pure, hm, he]
          using hdec
    unfold issueBody
    unfold found at hl
    simp only [bind, EStateM.bind, hcheck, engM, get, getThe, MonadStateOf.get, EStateM.get, pure, EStateM.pure]
    simp only [hl, Bool.false_eq_true, if_false]
    exact hr
  unfold issue
  rw [if_pos hc, hb]
  simp only [hbody]
  rfl

/-- A command that is an instruction of an engine completes. -/
theorem runs_of_exec {c : Instr} {e : Eng} {i : Inst} (h : ∀ s, exec c s = issueOut e i s) :
    Runs c e.val i := by
  intro s s1 fl hr hrun
  rw [h, issueOut, issue_ready hr hrun]

/-- An instruction that changes its engine and goes on completes with that change. -/
theorem issue_upd {e : Nat} {i : Inst} {f : Engine → Engine} {s : State} (h : ready e i s = true)
    (hi : i.run = (do updE e f; return .next)) :
    issue e i s = committed e i .next ((fetched e s).modEng e f) :=
  issue_ready h (by rw [hi]; rfl)

/-- An instruction of one register result completes with it. -/
theorem writes_of_exec {c : Instr} {e : Eng} {w : BitVec 32} {rd : Reg} {f : Engine → Word}
    (h : ∀ s, exec c s = issueOut e (regInst e.val w rd f) s) :
    Writes c e.val (regInst e.val w rd f) rd f := by
  intro s hr
  rw [h, issueOut, issue_upd hr rfl]

/-- An instruction of a pair result completes with it. -/
theorem writesPair_of_exec {c : Instr} {e : Eng} {w : BitVec 32} {rd : Reg} {f : Engine → Word × Word}
    (h : ∀ s, exec c s = issueOut e (pairInst e.val w rd f) s) :
    WritesPair c e.val (pairInst e.val w rd f) rd f := by
  intro s hr
  rw [h, issueOut, issue_upd hr rfl]

end Sys2Proof.Machine
end

