-- ==== Sys2Proof/Laws/WrongPath.lean ====
section
/-! SUPPORT. What work on discarded instructions can leave behind (R124, R166, R167), said once: the caches
and the predictor of its engine, the errors that it met, and nothing else. -/

namespace Sys2Proof.Machine

/-- Two states differ in the caches of an engine, in the errors that have been met, and in what the model
    draws free values from. -/
structure CachesAlone (e : Nat) (s t : State) : Prop where
  hbm : t.hbm = s.hbm
  tile : t.tile = s.tile
  squares : t.squares = s.squares
  board : t.board = s.board
  jobs : t.jobs = s.jobs
  ctxs : t.ctxs = s.ctxs
  reqs : t.reqs = s.reqs
  boot : t.boot = s.boot
  session : t.session = s.session
  cxl : t.cxl = s.cxl
  frx : t.frx = s.frx
  ik : t.ik = s.ik
  pending : t.pending = s.pending
  own : ∃ k, t.eng e = { s.eng e with caches := k }
  others : ∀ k ≠ e, t.eng k = s.eng k

theorem CachesAlone.refl (e : Nat) (s : State) : CachesAlone e s s :=
  ⟨rfl, rfl, rfl, rfl, rfl, rfl, rfl, rfl, rfl, rfl, rfl, rfl, rfl, ⟨_, rfl⟩, fun _ _ => rfl⟩

theorem CachesAlone.trans {e : Nat} {s t u : State} (h : CachesAlone e s t) (k : CachesAlone e t u) :
    CachesAlone e s u := by
  obtain ⟨a, ha⟩ := h.own
  obtain ⟨b, hb⟩ := k.own
  exact ⟨k.hbm.trans h.hbm, k.tile.trans h.tile, k.squares.trans h.squares, k.board.trans h.board,
    k.jobs.trans h.jobs, k.ctxs.trans h.ctxs, k.reqs.trans h.reqs, k.boot.trans h.boot,
    k.session.trans h.session, k.cxl.trans h.cxl, k.frx.trans h.frx, k.ik.trans h.ik,
    k.pending.trans h.pending, ⟨b, by rw [hb, ha]⟩, fun i hi => (k.others i hi).trans (h.others i hi)⟩

theorem SameButErrors.cachesAlone {s t : State} (e : Nat) (h : SameButErrors s t) : CachesAlone e s t :=
  have he (k : Nat) : t.eng k = s.eng k := by unfold State.eng; rw [h.engines]
  ⟨h.hbm, h.tile, h.squares, h.board, h.jobs, h.ctxs, h.reqs, h.boot, h.session, h.cxl, h.frx, h.ik, h.pending,
    ⟨(s.eng e).caches, he e⟩, fun k _ => he k⟩

/-- A change of an engine's caches. -/
theorem cachesAlone_modEng (e : Nat) (s : State) (f : Engine → Engine)
    (h : ∃ k, f (s.eng e) = { s.eng e with caches := k }) : CachesAlone e s (s.modEng e f) := by
  refine ⟨rfl, rfl, rfl, rfl, rfl, rfl, rfl, rfl, rfl, rfl, rfl, rfl, rfl, ?_, fun k hk => ?_⟩
  · rw [State.eng_modEng_same]; exact h
  · rw [State.eng_modEng, if_neg (Ne.symm hk)]

/-- Work that leaves what `CachesAlone` names, however it ends. -/
def LeavesCaches {α : Type} (e : Nat) (m : EM α) : Prop :=
  ∀ s, match m s with
    | .ok _ t => CachesAlone e s t
    | .error _ t => CachesAlone e s t

theorem LeavesCaches.bind {α β : Type} {e : Nat} {m : EM α} {f : α → EM β} (h : LeavesCaches e m)
    (k : ∀ a, LeavesCaches e (f a)) : LeavesCaches e (m >>= f) := by
  intro s
  have hs := h s
  show match (EStateM.bind m f) s with
    | .ok _ t => CachesAlone e s t
    | .error _ t => CachesAlone e s t
  unfold EStateM.bind
  cases hm : m s with
  | ok a t =>
    rw [hm] at hs
    have ht := k a t
    cases hf : f a t with
    | ok b u => rw [hf] at ht; simp only [hf]; exact hs.trans ht
    | error b u => rw [hf] at ht; simp only [hf]; exact hs.trans ht
  | error x t => rw [hm] at hs; exact hs

theorem leavesCaches_pure {α : Type} (e : Nat) (a : α) : LeavesCaches e (pure a : EM α) :=
  fun s => CachesAlone.refl e s

theorem leavesCaches_raise {α : Type} (e : Nat) (v : Ev) : LeavesCaches e (raise v : EM α) :=
  fun s => CachesAlone.refl e s

theorem leavesCaches_hold {α : Type} (e : Nat) : LeavesCaches e (hold : EM α) := fun s => CachesAlone.refl e s

theorem leavesCaches_get (e : Nat) : LeavesCaches e (get : EM State) := fun s => CachesAlone.refl e s

theorem leavesCaches_engM (e k : Nat) : LeavesCaches e (engM k) := fun s => CachesAlone.refl e s

theorem leavesCaches_fresh (e : Nat) : LeavesCaches e fresh := fun _ =>
  ⟨rfl, rfl, rfl, rfl, rfl, rfl, rfl, rfl, rfl, rfl, rfl, rfl, rfl, ⟨_, rfl⟩, fun _ _ => rfl⟩

theorem leavesCaches_recode (e array k line : Nat) : LeavesCaches e (upd (recodeLine array k line)) := fun _ =>
  ⟨rfl, rfl, rfl, rfl, rfl, rfl, rfl, rfl, rfl, rfl, rfl, rfl, rfl, ⟨_, rfl⟩, fun _ _ => rfl⟩

theorem leavesCaches_updE (e : Nat) (f : Engine → Engine)
    (h : ∀ x : Engine, ∃ k, f x = { x with caches := k }) : LeavesCaches e (updE e f) :=
  fun s => cachesAlone_modEng e s f (h _)

theorem leavesCaches_probe {α : Type} (e : Nat) (f : State → α × State) (h : ∀ s, SameButErrors s (f s).2) :
    LeavesCaches e (liftP f) :=
  fun s => (h s).cachesAlone e

theorem leavesCaches_probeCache (e array k line off n : Nat) :
    LeavesCaches e (liftP (probeCache array k line off n)) := by
  intro s
  show CachesAlone e s (probeCache array k line off n s).2
  have h := (probeChip_same array k line off n (fun _ => Config.freeNat s.free) s).cachesAlone e
  unfold probeCache
  split
  · rename_i s1 hs
    rw [hs] at h
    exact h.trans ⟨rfl, rfl, rfl, rfl, rfl, rfl, rfl, rfl, rfl, rfl, rfl, rfl, rfl, ⟨_, rfl⟩, fun _ _ => rfl⟩
  · rename_i s1 hs
    rw [hs] at h
    exact h

theorem leavesCaches_tlbFill (e page : Nat) (ent : Word) : LeavesCaches e (tlbFill e page ent) := by
  refine (leavesCaches_recode e 3 e page).bind fun _ => (leavesCaches_engM e e).bind fun x => ?_
  dsimp only
  split
  · exact leavesCaches_updE e _ fun y => ⟨_, rfl⟩
  · exact (leavesCaches_fresh e).bind fun f => leavesCaches_updE e _ fun y => ⟨_, rfl⟩

theorem leavesCaches_translate (e : Nat) (ring : BitVec 2) (k : Acc) (n : Need) (va : Word) :
    LeavesCaches e (translate e ring k n va) := by
  refine (leavesCaches_get e).bind fun s => ?_
  dsimp only
  split
  · refine (leavesCaches_probeCache e 3 e _ 0 8).bind fun b => ?_
    split
    · exact (leavesCaches_raise e _).bind fun _ => by
        split
        · exact leavesCaches_pure e _
        · exact leavesCaches_raise e _
    · split
      · exact leavesCaches_pure e _
      · exact leavesCaches_raise e _
  · split
    · exact leavesCaches_raise e _
    · refine (leavesCaches_probe e _ fun s => probeMap_same 4 _ s).bind fun b => ?_
      have tail : LeavesCaches e (match checkEntry (sqPart s (e / 9)) (s.eng e).ctx ring n (va.toNat / 2 ^ 18)
          (liveEntry s (va.toNat / 2 ^ 18)) with
          | some c => raise (xlateEv k c va)
          | none => do
            tlbFill e (va.toNat / 2 ^ 18) (liveEntry s (va.toNat / 2 ^ 18))
            return liveEntry s (va.toNat / 2 ^ 18)) := by
        split
        · exact leavesCaches_raise e _
        · exact (leavesCaches_tlbFill e _ _).bind fun _ => leavesCaches_pure e _
      split
      · exact (leavesCaches_raise e _).bind fun _ => tail
      · exact tail

theorem leavesCaches_hbmLine (e : Nat) (k : Acc) (va : Word) (pa : Nat) : LeavesCaches e (hbmLine k va pa) := by
  refine (leavesCaches_probe e _ fun s => probeHbm_same k.master pa s).bind fun b => ?_
  dsimp only
  split
  · exact (leavesCaches_raise e _).bind fun _ => (leavesCaches_get e).bind fun _ => leavesCaches_pure e _
  · exact (leavesCaches_get e).bind fun _ => leavesCaches_pure e _

/-- A cached read of local HBM changes the engine's own caches and meets errors, and does no more. -/
theorem leavesCaches_cachedBytes (e : Nat) (k : Acc) (va : Word) (pa n : Nat) :
    LeavesCaches e (cachedBytes e k va (.hbm pa) n) := by
  refine (leavesCaches_engM e e).bind fun x => ?_
  dsimp only
  split
  · refine (leavesCaches_probeCache e _ e _ _ n).bind fun b => ?_
    split
    · exact (leavesCaches_raise e _).bind fun _ => leavesCaches_pure e _
    · exact leavesCaches_pure e _
  · refine (leavesCaches_hbmLine e k va pa).bind fun w => (leavesCaches_fresh e).bind fun f =>
      (leavesCaches_recode e _ e _).bind fun _ => LeavesCaches.bind ?_ fun _ => leavesCaches_pure e _
    exact leavesCaches_updE e _ fun y => ⟨_, rfl⟩

theorem leavesCaches_strayRead (e : Nat) (k : Acc) (n : Need) (va : Word) :
    LeavesCaches e (strayRead e k n va) := by
  refine (leavesCaches_get e).bind fun s => ?_
  have tail : LeavesCaches e (do
      let ent ← translate e (s.eng e).trap.ring k n va
      let ins := decide (k = .fetch)
      match placeOf (← get) ent va with
      | .hbm pa =>
        if !entNs ent && !((if ins then (s.eng e).caches.ic else (s.eng e).caches.dc).has (lineKey (.hbm pa))) then
          let _ ← cachedBytes e k va (.hbm pa) 1
      | _ => return ()) := by
    refine (leavesCaches_translate e _ k n va).bind fun ent => (leavesCaches_get e).bind fun t => ?_
    split
    · split <;> split
      all_goals first
        | exact (leavesCaches_cachedBytes e k va _ 1).bind fun _ => leavesCaches_pure e _
        | exact leavesCaches_pure e _
    · exact leavesCaches_pure e _
  dsimp only
  split <;> split
  all_goals first | exact tail | exact (leavesCaches_hold e).bind fun _ => tail

/-- A read of discarded work. -/
theorem stray_frame (e : Nat) (k : Acc) (n : Need) (va : Word) (s : State) :
    CachesAlone e s (stray e k n va s) := by
  unfold stray
  split
  · have h := leavesCaches_strayRead e k n va s
    split
    · rename_i t ht
      rw [show strayRead e k n va s = .ok _ t from ht] at h
      exact h
    · rename_i t ht
      rw [show strayRead e k n va s = .error _ t from ht] at h
      exact h
  · exact CachesAlone.refl e s

theorem cachesAlone_free (e n : Nat) (s : State) : CachesAlone e s { s with free := n } :=
  ⟨rfl, rfl, rfl, rfl, rfl, rfl, rfl, rfl, rfl, rfl, rfl, rfl, rfl, ⟨_, rfl⟩, fun _ _ => rfl⟩

theorem wrongStep_frame (e : Nat) (s : State) : CachesAlone e s (wrongStep e s) := by
  refine (cachesAlone_free e (s.free + 3) s).trans ?_
  unfold wrongStep
  dsimp only
  split
  · exact cachesAlone_modEng e _ _ ⟨_, rfl⟩
  · exact cachesAlone_modEng e _ _ ⟨_, rfl⟩
  · exact cachesAlone_modEng e _ _ ⟨_, rfl⟩
  · exact stray_frame e _ _ _ _
  · exact stray_frame e _ _ _ _

/-- Wrong-path execution leaves nothing but caches, the predictor and errors that it met (R166). -/
theorem wrongPath_frame (e : Nat) (s : State) : CachesAlone e s (wrongPath e s) := by
  have steps (n : Nat) : ∀ t, CachesAlone e t (wrongSteps e n t) := by
    induction n with
    | zero => exact CachesAlone.refl e
    | succ n ih => exact fun t => (wrongStep_frame e t).trans (ih _)
  exact (cachesAlone_free e (s.free + 1) s).trans (steps _ _)

end Sys2Proof.Machine
end

