-- ==== Sys2Proof/Tests/Slice0.lean ====
section
/-! SUPPORT. Tests of the model against numbers of the spec, the smoke test of WellFormed, and for every
statement with hypotheses a state and operands that meet them. -/

namespace Sys2Proof.Machine.Tests

-- The proofs of this file are checked one after another: side by side each waits on a thread of its own.
set_option Elab.async false

open Sys2Proof Sys2Proof.Machine

/-! ### Small states -/

/-- The map entry of a page of local HBM that every ring and context may use, not cached. -/
def openEntry (page : Nat) : Word := BitVec.ofNat 64 (page * 2 ^ 40 + 0xFFFFF9)

/-- An engine in ring 3 that runs job 1 at the start of page 1, with pages 1 and 2 in its translation
    cache. -/
def runner : Engine :=
  { run := .running, job := 1, ctx := 3, pc := 0x40000, trap := { ring := 3 }
    caches := { tlb := [(1, openEntry 1), (2, openEntry 2)] } }

/-- A part after its boot: engine 0 runs job 1 on square 0. -/
def busy : State :=
  { State.reset with
      boot := { State.reset.boot with powered := true, conversion := true, ready := true, step := 9 }
      mg := { State.reset.mg with running := true }
      engines := [(0, runner)]
      squares := [(0, { st := .busy, job := 1, opp := 4 })] }

/-- The same with the engine changed. -/
def busyEng (f : Engine → Engine) : State := busy.modEng 0 f

/-- The engine with registers written. -/
def withRegs (l : List (Reg × Word)) (x : Engine) : Engine := l.foldl (fun x p => x.setReg p.1 p.2) x

/-- A ring-0 version of the engine. -/
def inRing0 (x : Engine) : Engine := { x with trap := { x.trap with ring := 0 } }

/-- Gives the outcome a next state, and does the state hold what a test asks of it? -/
def nextHolds (o : Host.Outcome State Fault Refusal) (p : State → Bool) : Bool :=
  match o with
  | .next t => p t
  | _ => false

/-! ### WellFormed refuses -/

/-- A frame of the debug port. -/
def frameOfData (d : BitVec 32) : IkFrame := { tog := false, data := d, chk := 0 }

/-- A packet with a type, a tag, a code and a payload. -/
def packetOf (typ code : Byte) (tag : BitVec 32) (pay : List Byte) : FrxPacket :=
  { dst := 0, src := 5, typ := typ, route := 0, len := BitVec.ofNat 16 pay.length, tag := tag, code := code,
    addrH := 0, payload := pay }

theorem test_wf_sync_offset : Instr.wf (.syncRegisterStore 0 0x010 0) = false := by decide
theorem test_wf_tender_square : Instr.wf (.tenderGo (.engine 0) 1 0 1) = false := by decide
theorem test_wf_tender_writer : Instr.wf (.tenderGo .steward 0 0 1) = false := by decide
theorem test_wf_engine_register : Instr.wf (.registerWrite (.engine 0) 0xFFFF10000004 0) = false := by decide
theorem test_wf_hub_register : Instr.wf (.registerWrite .steward 0x5FFFFFF8 0) = false := by decide
theorem test_wf_bar_register : Instr.wf (.registerWrite .host 0xC000 0) = false := by decide
theorem test_wf_castle_writer : Instr.wf (.castle .host) = false := by decide
theorem test_wf_rebuild_writer : Instr.wf (.rebuildGo .host) = false := by decide
theorem test_wf_xcoal_reader : Instr.wf (.mgXcoalRead (.engine 0 1) false) = false := by decide
theorem test_wf_self_test : Instr.wf (.selfTestDone [3, 3]) = false := by decide
theorem test_wf_link_width : Instr.wf (.cxlLinkUp 5 4) = false := by decide
theorem test_wf_link_speed : Instr.wf (.cxlLinkUp 4 0) = false := by decide
theorem test_wf_read_request : Instr.wf (.frxReadRequest 0 (packetOf 1 0 0 [])) = false := by decide
theorem test_wf_request_sector :
    Instr.wf (.frxReadRequest 0 (packetOf 1 0 0 (8 :: List.replicate 15 0))) = false := by decide
theorem test_wf_write_request : Instr.wf (.frxWriteRequest 0 (packetOf 2 0 0 [])) = false := by decide
theorem test_wf_amo_request :
    Instr.wf (.frxAmoRequest 0 (packetOf 3 7 0 (List.replicate 24 0))) = false := by decide
theorem test_wf_damo_request : Instr.wf (.frxDamoRequest 0 (packetOf 4 0 0 [])) = false := by decide
theorem test_wf_response : Instr.wf (.frxResponse 0 (packetOf 6 0 0 [])) = false := by decide
theorem test_wf_acknowledge : Instr.wf (.frxWriteAcknowledge 0 (packetOf 6 0 0 [1])) = false := by decide
theorem test_wf_strip : Instr.wf (.frxStrip 0 (packetOf 7 0 0 [])) = false := by decide
theorem test_wf_freeze : Instr.wf (.frxFreezeNotice 0 (packetOf 8 0 0x200 [])) = false := by decide
theorem test_wf_ready : Instr.wf (.frxReadyNotice 0 (packetOf 8 0 0x100 [])) = false := by decide
theorem test_wf_abort : Instr.wf (.frxAbortNotice 0 (packetOf 8 0 0x100 [])) = false := by decide
theorem test_wf_drop : Instr.wf (.drop (frameOfData 3)) = false := by decide
theorem test_wf_abort_frame : Instr.wf (.abort (frameOfData 5)) = false := by decide
theorem test_wf_halt : Instr.wf (.halt (frameOfData 6)) = false := by decide
theorem test_wf_resume : Instr.wf (.resume (frameOfData 5)) = false := by decide
theorem test_wf_step : Instr.wf (.step (frameOfData 3)) = false := by decide

/-! ### Numbers of the spec -/

/-- The three encodings at the end of chapter 4's branches, and the canonical NOP (R196). -/
theorem test_word_ldD : (ldDInst 0 5 6 0).word = 0x68A60000 := by decide
theorem test_word_add : (addInst 0 7 7 5).word = 0x04E72800 := by decide
theorem test_word_bnez : (bnezInst 0 true 4 0xFFFD).word = 0x8A24FFFD := by decide
theorem test_word_nop : (oriInst 0 0 0 0).word = 0x18000000 := by decide

/-- The 45 + 38 example of R204. -/
theorem test_dajB : nextHolds (exec (.dajB 0 9 7 8) (busyEng (withRegs [(7, 0xE3), (8, 0x93)])))
    (fun t => (t.eng 0).reg 9 == 0x83 && (t.eng 0).pc == 0x40004) = true := by decide

/-- A carry out of the top bit (R198). -/
theorem test_adc_carry : nextHolds (exec (.adc 0 4 1 2 0)
    (busyEng (withRegs [(1, 0xFFFFFFFFFFFFFFFF), (2, 1)])))
    (fun t => (t.eng 0).reg 4 == 0 && (t.eng 0).reg 5 == 1) = true := by decide

/-- A pair with an odd gd is ILLEGAL (R188): with no vector table the engine stops with cause 1. -/
theorem test_pair_odd : nextHolds (exec (.mulw 0 5 1 2) (busyEng fun x => { x with mode := 0 }))
    (fun t => (t.eng 0).reg 5 == 0 && (t.eng 0).trap.cause.extractLsb' 0 8 == 1) = true := by decide

/-- The division corners of R202: 7 over 0, and -2^63 by -1. -/
theorem test_div_zero : divided true 7 0 = (7, BitVec.allOnes 64) := by decide
theorem test_div_corner :
    divided true 0x8000000000000000 0xFFFFFFFFFFFFFFFF = (0, 0x8000000000000000) := by decide +kernel

/-- The first two example columns of the rounding modes (R373): 12.345 and -12.345 to scale 2. -/
theorem test_rounding_modes :
    (List.range 7).map (fun m => (decDeliver (BitVec.ofNat 3 m) 31 3 2 12345).val) =
      [1234, 1235, 1234, 1234, 1235, 1234, 1235] := by decide
theorem test_rounding_modes_negative :
    (List.range 7).map (fun m => (decDeliver (BitVec.ofNat 3 m) 31 3 2 (-12345)).val) =
      [-1234, -1235, -1234, -1234, -1235, -1235, -1234] := by decide

/-- +1,234.50 as a P31 (R370), and the posting of the accrued-interest example (R116). -/
theorem test_p31_read : decRead 31 0x0123450C = some 123450 := by decide
theorem test_damo_posting : damo true 0x0100000C 0x0001234C = (0, some 0x0101234C) := by decide

/-- The root of 1.0 in binary32 (the example of R378's section). -/
theorem test_root_start : (f32.operand false 0x3F800000).map f32.rootStart = some 0x02000000 := by decide
theorem test_root_step : f32.rootStep 0x02000000 0 = (0, 2) := by decide

/-- Stack 5 in the interleave example of R77, globally and locally with FOLD. -/
theorem test_stack_global : stackOf { chskew := 1, bkskew := 1 } 0x48D16A4C0 = 5 := by decide
theorem test_stack_local : stackOf { ilvLocal := true, chskew := 1, bkskew := 1 } 0x48D16A4C0 = 5 := by decide

/-- P_LIMIT at 7.2 V: 756 W (R562). -/
theorem test_input_limit : 105 * 7200 / 1000 = 756 ∧ inputLimit State.reset
    { vin := 7200, iin := 0, pkg := 0, sqTemp := [], sqPower := [], sqBusy := [], sqMarginShort := [],
      quarterTemp := [], hubTemp := 0, stackTemp := [], stageTemp := [], overrun := false } = 756 := by decide

/-- The headers of the example of chapter 16: IK_SELECT, IK_CCTL, IK_CSTAT, IK_RSEL and IK_RDATA. -/
theorem test_ik_headers : [ikHeader 1 3 true, ikHeader 3 0 false, ikHeader 2 1 true, ikHeader 3 3 false,
    ikHeader 2 4 true] = [0x27, 0x60, 0x43, 0x66, 0x49] := by decide

/-! ### Single steps -/

/-- LD.D reads the word at g20 in the own tile store, and a store to it changes its byte alone. -/
theorem test_ldD : nextHolds (exec (.ldD 0 5 20 0)
    { busyEng (withRegs [(20, 0xFFFF00000100)]) with tile := [⟨0x100, 0x11⟩, ⟨0x107, 0x80⟩] })
    (fun t => (t.eng 0).reg 5 == 0x8000000000000011) = true := by decide
theorem test_stB : nextHolds (exec (.stB 0 5 20 1) (busyEng (withRegs [(20, 0xFFFF00000100), (5, 0x1234)])))
    (fun t => t.tile.get 0x101 == 0x34 && t.tile.get 0x102 == 0) = true := by decide

/-- A taken branch has its slot at PC + 4 and its target pending (R160). -/
theorem test_beqz : nextHolds (exec (.beqz 0 false 0 3) (busyEng fun x => { x with mode := 0 }))
    (fun t => (t.eng 0).pc == 0x40004 && (t.eng 0).slot == some ⟨0x40000, true, 0x4000C⟩) = true := by decide

/-- A queue's command leaves the front of the queue (the block's own step). -/
theorem test_step_front : nextHolds (step { busy with pending := [.hostSnoop 0, .cxlLinkDown] })
    (fun t => t.pending == [.cxlLinkDown]) = true := by decide

/-- A square's engines stop when its quiesce is complete (R40). -/
theorem test_quiesce : nextHolds (exec (.quiesceComplete 0) (busy.modSq 0 fun q => { q with st := .quiescing }))
    (fun t => (t.sqr 0).st == .quiesced) = true := by decide

set_option maxRecDepth 100000 in
/-- SHA-512 of "abc", of FIPS 180-4. -/
theorem test_sha512 : (sha512 [0x61, 0x62, 0x63]).take 8 =
    [0xDD, 0xAF, 0x35, 0xA1, 0x93, 0x61, 0x7A, 0xBA] := by decide +kernel

/-! ### Witnesses: states and operands that meet the hypotheses of the statements

Each theorem is named after its statement; a statement of several clauses has one for each. -/

theorem witness_StepRunsFrontCommand :
    { busy with pending := [.hostSnoop 0] }.pending = Instr.hostSnoop 0 :: [] := rfl
theorem witness_EmptyQueueTicks :
    State.reset.pending = [] ∧ State.reset.boot.powered = false ∧ busy.pending = [] ∧
      busy.boot.powered = true := by decide
theorem witness_StateFormKept : busy.memoryForm ∧ busy.jobForm ∧ ∃ t, step busy = .next t :=
  ⟨by unfold State.memoryForm; decide, by unfold State.jobForm; decide, _, rfl⟩
theorem witness_RegisterFileRules : (1 : Reg) ≠ 0 ∧ (1 : Reg) ≠ 31 ∧ (2 : Reg) ≠ 1 := by decide
theorem witness_IntegerRegisterResults : ∀ i ∈ [addInst 0 1 2 3, sarInst 0 31 0 31, maxuInst 0 0 1 1,
    clzInst 0 1 2, zextWInst 0 31 0, mulInst 0 1 2 3, mulwInst 0 28 31 0, mulwuInst 0 0 1 1],
    ready 0 i busy = true := by decide
theorem witness_ImmediateResults : ∀ i ∈ [addiInst 0 1 2 0xFFFF, cltiuInst 0 0 31 0, roriInst 0 1 2 63,
    ldiInst 0 1 0xFFFF 3, insiInst 0 31 0 0], ready 0 i busy = true := by decide
theorem witness_CarryResults : ready 0 (adcInst 0 0 1 2 3) busy = true ∧
    ready 0 (sbbInst 0 28 31 31 31) busy = true ∧ ready 0 (adcInst 0 30 1 2 3) busy = false := by decide
theorem witness_DivisionStepResults : ∀ i ∈ [dstartSInst 0 4 1, dstartUInst 0 4 1, dstepSInst 0 4 2,
    dstepUInst 0 28 2, dendSInst 0 4 1 2, dendUInst 0 0 1 2], ready 0 i busy = true := by decide
theorem witness_DivisionSequenceDivides : (3 : Word) ≠ 0 ∧ divided false 22 3 = (1, 7) := by decide
theorem witness_PackedDigitResults_daj : ready 0 (dajBInst 0 9 7 8) busy = true := by decide
theorem witness_PackedDigitResults_fits :
    let s := busyEng (withRegs [(1, 0x9999999999999999 - 0x9999999999999999 + 0x45C), (2, 0x38D)])
    ready 0 (daddInst 0 3 1 2) s = true ∧ decRead 15 ((found 0 s).reg 1).toNat = some 45 ∧
      decRead 15 ((found 0 s).reg 2).toNat = some (-38) := by decide
theorem witness_PackedDigitResults_saturates :
    let s := busyEng fun x => withRegs [(1, 0x999999999999999C), (2, 0x1D)] { x with dctl := 0 }
    ready 0 (dsubInst 0 3 1 2) s = true ∧ decRead 15 ((found 0 s).reg 1).toNat = some (10 ^ 15 - 1) ∧
      decRead 15 ((found 0 s).reg 2).toNat = some (-1) ∧
      10 ^ 15 ≤ ((10 ^ 15 - 1 : Int) - -1).natAbs ∧ (found 0 s).dctl.getLsbD 12 = false := by decide
theorem witness_PackedDigitResults_invalid : ready 0 (daddInst 0 3 1 2) (busyEng (withRegs [(1, 0xA1C)])) = true ∧
    decRead 15 ((found 0 (busyEng (withRegs [(1, 0xA1C)]))).reg 1).toNat = none := by decide
theorem witness_PackedDigitResults_overflow :
    let s := busyEng (withRegs [(1, 0x999999999999999D), (2, 0x1C)])
    ready 0 (dsubInst 0 3 1 2) s = true ∧ decRead 15 ((found 0 s).reg 1).toNat = some (-(10 ^ 15 - 1)) ∧
      decRead 15 ((found 0 s).reg 2).toNat = some 1 ∧ (found 0 s).dctl.getLsbD 12 = true ∧
      10 ^ 15 ≤ ((-(10 ^ 15 - 1) : Int) - 1).natAbs := by decide
theorem witness_PackedDigitResults_digits : (99 : Nat) < 10 ^ 2 ∧ 99999999 < 10 ^ 8 ∧
    (-(10 ^ 15 - 1) : Int).natAbs < 10 ^ 15 := by decide
theorem witness_FloatResults_value :
    let s := busyEng (withRegs [(1, 0x3FF0000000000000), (2, 0x4000000000000000)])
    ready 0 (faddInst 0 true 3 1 2) s = true ∧
      fadd f64 (found 0 s).fctl (fpReg (found 0 s) true 1) (fpReg (found 0 s) true 2) =
        .val 0x4008000000000000 0 := by decide
theorem witness_FloatResults_trap :
    let s := busyEng fun x => withRegs [(1, 0x7FF0000000000000), (2, 0xFFF0000000000000)]
      { x with fctl := 0x1F00 }
    ready 0 (faddInst 0 true 3 1 2) s = true ∧ ∃ (n : Nat) (fl : BitVec 5),
      fadd f64 (found 0 s).fctl (fpReg (found 0 s) true 1) (fpReg (found 0 s) true 2) = .val n fl ∧
        fl &&& teOf (found 0 s).fctl ≠ 0 := ⟨by decide, _, _, rfl, by decide⟩
theorem witness_FloatResults_denorm :
    let s := busyEng fun x => withRegs [(1, 1)] { x with fctl := 0x10 }
    ready 0 (faddInst 0 true 3 1 2) s = true ∧
      fadd f64 (found 0 s).fctl (fpReg (found 0 s) true 1) (fpReg (found 0 s) true 2) = .denorm := by decide

/-- 1.0 and 2.0 of binary64 in g1 and g2. -/
def oneTwo : State := busyEng (withRegs [(1, 0x3FF0000000000000), (2, 0x4000000000000000)])

theorem witness_FloatStepResults_steps :
    ready 0 (fdstartInst 0 true 4 1 2) oneTwo = true ∧ ready 0 (fdstepInst 0 true 4 2) oneTwo = true ∧
      ready 0 (fsstartInst 0 true 4 1) oneTwo = true ∧ ready 0 (fsstepInst 0 true 4) oneTwo = true ∧
      (f64.operand (dnOf (found 0 oneTwo).fctl) (fpReg (found 0 oneTwo) true 1)).isSome = true ∧
      (f64.operand (dnOf (found 0 oneTwo).fctl) (fpReg (found 0 oneTwo) true 2)).isSome = true := by decide
theorem witness_FloatStepResults_ends :
    ready 0 (fdendInst 0 true 4 1 2) oneTwo = true ∧ ready 0 (fsendInst 0 true 4 1) oneTwo = true ∧
      ((f64.operand false 0x3FF0000000000000).bind fun a => (f64.operand false 0x4000000000000000).map fun b =>
        decide (f64.divEnd 0 false a b 0 0x10000000000000 ≠ .denorm ∧
          f64.rootEnd 0 false a 0 0x40000000000000 ≠ .denorm)) = some true := by decide
theorem witness_RoundedResultIsCorrect : ∀ p ∈ [((0 : BitVec 3), false), (1, true), (2, true), (3, false), (4, true)],
    (match f64.round p.1 false p.2 (2 ^ 54 + 1) (-1) with
      | .val _ fl => fl == flagNX && fl &&& (flagOF ||| flagUF) == 0
      | _ => false) = true := by decide +kernel

/-- The engine at a word of its own tile store, and at one of page 2. -/
def atTile : State := busyEng (withRegs [(20, 0xFFFF00000100), (5, 0x1122334455667788)])
def atPage : State := busyEng (withRegs [(20, 0x80040), (5, 0x1122334455667788)])

theorem witness_LoadResults_value : ready 0 (ldDInst 0 5 20 0) atTile = true ∧ ∃ (v : Word) (s1 : State),
    (loadAt 0 (effAddr (found 0 atTile) 20 0) 8).run (fetched 0 atTile) = .ok v s1 := ⟨by decide, _, _, rfl⟩
theorem witness_LoadResults_event : ready 0 (ldDInst 0 5 20 1) atTile = true ∧ ∃ (v : Ev) (s1 : State),
    (loadAt 0 (effAddr (found 0 atTile) 20 1) 8).run (fetched 0 atTile) = .error (.ev v) s1 :=
  ⟨by decide, _, _, rfl⟩
theorem witness_AccessNotUnderWay : (found 0 atTile).mid = false ∧ (found 0 atPage).mid = false ∧
    (busy.eng 0).mid = false := by decide
theorem witness_LocalLoadValue_tile : natural 0xFFFF0003FEF8 8 ∧
    (0xFFFF0003FEF8 : Word).toNat + 8 ≤ 0xFFFF0003FF00 ∧
    cleanTile busy (0 * 2 ^ 18 + (0xFFFF0003FEF8 - 0xFFFF00000000)) 8 := by
  unfold natural cleanTile; decide +kernel
theorem witness_LocalLoadValue_hbm : natural 0x80040 8 ∧ cachedHbm atPage 0 0x80040 .r (openEntry 2) ∧
    entNs (openEntry 2) = true ∧ cleanHbm atPage (hbmAddr (openEntry 2) 0x80040) := by
  unfold natural cachedHbm cleanHbm; decide
theorem witness_StoreResults_stored : ready 0 (stDInst 0 5 20 0) atTile = true ∧ ∃ s1 : State,
    (storeAt 0 (effAddr (found 0 atTile) 20 0) 8 ((found 0 atTile).reg 5)).run (fetched 0 atTile) = .ok () s1 :=
  ⟨by decide, _, rfl⟩
theorem witness_StoreResults_event : ready 0 (stWInst 0 5 20 2) atTile = true ∧ ∃ (v : Ev) (s1 : State),
    (storeAt 0 (effAddr (found 0 atTile) 20 2) 4 ((found 0 atTile).reg 5)).run (fetched 0 atTile) =
      .error (.ev v) s1 := ⟨by decide, _, _, rfl⟩
theorem witness_LocalStoreFrame_tile : ready 0 (stDInst 0 5 20 0) atTile = true ∧
    natural (effAddr (found 0 atTile) 20 0) 8 ∧ 0xFFFF00000000 ≤ (effAddr (found 0 atTile) 20 0).toNat ∧
    (effAddr (found 0 atTile) 20 0).toNat + 8 ≤ 0xFFFF0003FF00 := by unfold natural; decide
theorem witness_LocalStoreFrame_hbm : ready 0 (stDInst 0 5 20 0) atPage = true ∧
    natural (effAddr (found 0 atPage) 20 0) 8 ∧
    cachedHbm (fetched 0 atPage) 0 (effAddr (found 0 atPage) 20 0) .w (openEntry 2) ∧
    cleanHbm (fetched 0 atPage) (hbmAddr (openEntry 2) (effAddr (found 0 atPage) 20 0)) ∧
    ((fetched 0 atPage).sqr 0).paired = false := by unfold natural cachedHbm cleanHbm; decide
theorem witness_MisalignedAccessFaults_plain : (0x80041 : Word).toNat % 8 ≠ 0 ∧ windowOf 0x80041 = none ∧
    (busy.eng 0).mode.getLsbD 3 = false := by decide
theorem witness_MisalignedAccessFaults_split : (0x9000000001 : Word).toNat % 2 ≠ 0 ∧
    windowOf 0x9000000001 = none ∧ splitRegion 0x9000000001 = false ∧
    ((busyEng fun x => { x with mode := 0xA }).eng 0).mode.getLsbD 3 = true := by decide
theorem witness_AtomicResults_tile :
    let s := busyEng fun x => withRegs [(20, 0xFFFF0003FEF8)] { x with resv := some (tileSector 0x3FEF8) }
    let va := ea48 ((found 0 s).reg 20)
    va.toNat % 8 = 0 ∧ 0xFFFF00000000 ≤ va.toNat ∧ va.toNat + 8 ≤ 0xFFFF0003FF00 ∧
      ready 0 (ldlInst 0 1 20) s = true ∧ ready 0 (stcInst 0 1 20 2) s = true ∧
      (found 0 s).resv = some (tileSector (0 * 2 ^ 18 + (va.toNat - 0xFFFF00000000))) ∧
      (found 0 busy).resv ≠ some (tileSector 0) ∧
      ∀ i ∈ [amoAddInst 0 1 20 2, amoXorInst 0 1 20 2, amoMinInst 0 1 20 2, amoMaxInst 0 1 20 2,
        amoSwpInst 0 1 20 2], ready 0 i s = true := by decide
theorem witness_AtomicResults_damo :
    let s := { busyEng (withRegs [(20, 0x80040), (6, 0x1234C)]) with
      hbm := (Mem.write [] (2 * 2 ^ 18 + 0x40) [0x0C, 0, 0, 1]) }
    let va := ea48 ((found 0 s).reg 20)
    va.toNat % 16 = 0 ∧ cachedHbm (fetched 0 s) 0 va .rw (openEntry 2) ∧
      cleanHbm (fetched 0 s) (hbmAddr (openEntry 2) va) ∧
      decRead 31 (leNat ((fetched 0 s).hbm.bytes (hbmAddr (openEntry 2) va) 16)) = some 100000 ∧
      decRead 31 (((found 0 s).reg (nextReg 6)) ++ ((found 0 s).reg 6)).toNat = some 1234 ∧
      ready 0 (damoAddInst 0 5 20 6) s = true := by unfold cachedHbm cleanHbm; decide
theorem witness_BranchResults : ∀ i ∈ [beqzInst 0 true 1 0xFFFD, bnezInst 0 false 1 0, bevenInst 0 true 31 1,
    brInst 0 true 0x1FFFFFF, brlInst 0 false 1, jrInst 0 true 1, jrlInst 0 false 30],
    ready 0 i busy = true := by decide
theorem witness_LoopInstructionResult_taken : ready 0 (loopInst 0 4 1) (busyEng (withRegs [(4, 3)])) = true ∧
    activeLevels (busy.eng 0).loops.st < 4 ∧ 1 ≤ (1 : BitVec 21).toInt := by decide
theorem witness_LoopInstructionResult_zero : ready 0 (loopInst 0 0 1) busy = true ∧
    ((found 0 busy).reg 0).extractLsb' 0 32 = 0 := by decide
theorem witness_LoopInstructionResult_full :
    let s := busyEng fun x => { x with loops := { x.loops with st := 0xF } }
    ready 0 (loopInst 0 4 1) s = true ∧ activeLevels (found 0 s).loops.st = 4 ∧
      ready 0 (loopInst 0 4 0) busy = true ∧ (0 : BitVec 21).toInt < 1 := by decide
theorem witness_StreamAdvances :
    let x := runner
    let l := { x with loops := { x.loops with st := 0x301, lpe := x.loops.lpe.set 0 0x40000 } }
    x.vec.gpend = [] ∧ activeLevels x.loops.st = 0 ∧ x.slot = none ∧ activeLevels l.loops.st = 1 ∧
      l.loops.lpe[0] = ea48 l.pc ∧ l.loops.st.extractLsb' 8 2 = l.trap.ring := by decide
theorem witness_OrderingInstructionResults :
    let s := busyEng fun x => { inRing0 x with defer := some (0x80000, 3) }
    vsuBusy (found 0 s) = false ∧ writesOut (fetched 0 s) 0 = false ∧
      (found 0 s).defer = some (0x80000, 3) ∧ (found 0 (busyEng inRing0)).defer = none ∧
      ∀ i ∈ [syncCInst 0, syncIInst 0, fenceLInst 0, fenceDInst 0, fenceSInst 0, jendInst 0, wfiInst 0],
        ready 0 i (busyEng inRing0) = true ∧ ready 0 i s = true := by decide
theorem witness_OrderingInstructionResults_wfi :
    let s := busyEng fun x => { x with trap := { x.trap with ring := 0, ipend := 1, ien := 1 } }
    ready 0 (wfiInst 0) s = true ∧ (found 0 s).trap.ipend &&& (found 0 s).trap.ien ≠ 0 := by decide
theorem witness_MaskMoveAndBreakResults : (7 : BitVec 3) ≠ 0 ∧
    (found 0 (busyEng fun x => { x with dbg := { x.dbg with haltBrk := true } })).dbg.haltBrk = true ∧
    ready 0 (brkInst 0 5) (busyEng fun x => { x with dbg := { x.dbg with haltBrk := true } }) = true ∧
    ∀ i ∈ [mtmInst 0 7 1, mtmInst 0 0 1, mfmInst 0 1 7, brkInst 0 0xFFFF], ready 0 i busy = true := by decide

/-- A gate table of one entry at the start of page 2: valid, MINCALL 3, RING 0, PC 0x40100. -/
def gated : State :=
  { busyEng fun x => { x with
      stk := Vector.replicate 4 0x81000
      trap := { x.trap with gatebase := 0x8000000000080000 } } with
    hbm := Mem.write [] (2 * 2 ^ 18) [0, 1, 4, 0, 0, 0, 3, 0x80] }

theorem witness_GateResults_invalid : ready 0 (gateInst 0 1) gated = true ∧
    ¬ ((1 : BitVec 12) ≤ (found 0 gated).trap.gatebase.extractLsb' 48 12) := by decide
theorem witness_GateResults_call : ready 0 (gateInst 0 0) gated = true ∧
    (match (readTable 0 0 0x80000 8).run (fetched 0 gated) with
      | .ok bs s1 =>
        let ent := BitVec.ofNat 64 (leNat bs)
        ent.getLsbD 63 && decide ((found 0 gated).trap.ring ≤ ent.extractLsb' 48 2) &&
          ent.extractLsb' 0 2 == 0 &&
          (pushFrame 0 0 ⟨0x40004, statusWord (found 0 gated).trap, 0x3E, 0, 0, 0, 0, 0⟩ s1).1.1
      | _ => false) = true := by decide +kernel

/-- The gate table with another entry: its PC and RING, MINCALL and V. -/
def gateEntry (l : List Byte) (s : State) : State := { s with hbm := Mem.write s.hbm (2 * 2 ^ 18) l }

theorem witness_GateResults_refusals :
    (∀ q ∈ [([0, 1, 4, 0, 0, 0, 3, 0], false, true, false), ([0, 1, 4, 0, 0, 0, 2, 0x80], true, false, false)],
      let s := gateEntry q.1 gated
      ready 0 (gateInst 0 0) s = true ∧ (match (readTable 0 0 0x80000 8).run (fetched 0 s) with
        | .ok bs _ =>
          let ent := BitVec.ofNat 64 (leNat bs)
          ent.getLsbD 63 == q.2.1 && decide ((found 0 s).trap.ring ≤ ent.extractLsb' 48 2) == q.2.2.1
        | _ => false) = true) ∧
    (let s := (gateEntry [3, 1, 4, 0, 0, 0, 2, 0x80] gated).modEng 0 fun x => { x with trap := { x.trap with ring := 2 } }
     ready 0 (gateInst 0 0) s = true ∧ (match (readTable 0 0 0x80000 8).run (fetched 0 s) with
        | .ok bs _ =>
          let ent := BitVec.ofNat 64 (leNat bs)
          ent.getLsbD 63 && decide ((found 0 s).trap.ring ≤ ent.extractLsb' 48 2) &&
            decide ((found 0 s).trap.ring < ent.extractLsb' 0 2)
        | _ => false) = true) := by decide +kernel

/-- A gate frame of ring 3 at the current stack pointer. -/
def inGate : State :=
  { busyEng fun x => { x with stk := Vector.replicate 4 0x81000 } with
    hbm := Mem.write [] (2 * 2 ^ 18 + 0x1000) [0x40, 0, 4, 0, 0, 0, 0, 0, 3, 0, 0, 0, 0, 0, 0, 0, 0x3E] }

theorem witness_GateResults_return : ready 0 (gretInst 0) inGate = true ∧
    (match (readTable 0 3 0x81000 64).run (fetched 0 inGate) with
      | .ok bs _ =>
        decide ((found 0 inGate).trap.ring ≤ (Frame64.ofBytes bs).status.extractLsb' 0 2) &&
          (Frame64.ofBytes bs).cause.extractLsb' 0 8 == 0x3E
      | _ => false) = true := by decide +kernel
/-- A frame of a ring at the current stack pointer of an engine in ring 2, with a cause and FLAGS. -/
def inFrame (ring cause : Byte) (flags : List Byte) : State :=
  { busyEng fun x => { x with stk := Vector.replicate 4 0x81000, trap := { x.trap with ring := 2, vheld := true } } with
    hbm := Mem.write (Mem.write [] (2 * 2 ^ 18 + 0x1000) [0x40, 0, 4, 0, 0, 0, 0, 0, ring, 0, 0, 0, 0, 0, 0, 0, cause])
      (2 * 2 ^ 18 + 0x1030) flags }

theorem witness_GateResults_exception :
    ∀ q ∈ [(inFrame 1 0x20 [], false), (inFrame 2 0x20 [0, 0, 0], true), (inFrame 3 0x10 [0, 0, 7], true)],
      ready 0 (gretInst 0) q.1 = true ∧ (found 0 q.1).dbg.step = false ∧
      (match (readTable 0 2 0x81000 64).run (fetched 0 q.1) with
        | .ok bs _ => decide ((found 0 q.1).trap.ring ≤ (Frame64.ofBytes bs).status.extractLsb' 0 2) == q.2 &&
            (Frame64.ofBytes bs).cause.extractLsb' 0 8 != 0x3E
        | _ => false) = true := by decide +kernel
theorem witness_GateResults_flags :
    (match (readTable 0 2 0x81000 64).run (fetched 0 (inFrame 3 0x10 [0, 0, 7])) with
      | .ok bs _ =>
        let f := Frame64.ofBytes bs
        f.flags.getLsbD 18 && f.flags.getLsbD 16 && f.flags.getLsbD 17
      | _ => false) = true ∧ (found 0 (inFrame 3 0x10 [])).trap.vheld = true ∧
    (∀ p ∈ (found 0 (inFrame 3 0x10 [])).sync, p.1 ≠ 0x180) := by decide +kernel
theorem witness_DecodeTraps_runs : (busy.eng 0).run = .running := by decide
theorem witness_DecodeTraps : canIssue 0 busy = true ∧ boundaryEvent (busy.eng 0) = none ∧
    fetches 0 busy = true ∧ (found 0 busy).vec.gpend = [] ∧ scalarReserved 0x44000000 = true ∧
    vectorReserved 0xF8000000 = true ∧ (busy.eng 0).wfi = false ∧ (found 0 busy).slot = none ∧
    (found 0 busy).rights ≠ 0 := by decide

/-- A vector table at the start of page 2 whose entry 0x21 leads to 0x40200 in ring 0, and the soft
    interrupt pending; an ORI stands at the boundary. -/
def interrupted : State :=
  { busyEng fun x => { x with
      stk := Vector.replicate 4 0x81000
      trap := { x.trap with vecbase := 0x8000000000080000, ie := true, ipend := 2, ien := 2 } } with
    hbm := Mem.write (Mem.write [] (2 * 2 ^ 18 + 8 * 0x21) [0, 2, 4, 0, 0, 0, 0, 0x80]) (2 ^ 18)
      [0, 0, 0, 0x18] }

theorem witness_ExceptionEntryEffects :
    (match readVector 0 0x21 interrupted with
      | ((some (_, _), _), s1) =>
        (pushFrame 0 0 (frameOf (interrupted.eng 0) 0x40000 none none) s1).1.1
      | _ => false) = true ∧
      boundaryOpen (interrupted.eng 0) = true ∧ (interrupted.eng 0).trap.vecbase.getLsbD 63 = true ∧
      readyInterrupt (interrupted.eng 0).trap = some 0x21 ∧ (interrupted.eng 0).run = .running ∧
      (interrupted.sqr 0).st = .busy ∧ (interrupted.eng 0).vec.imprecise = [] ∧
      (match (issueBody 0 (instHere 0 interrupted)).run interrupted with
        | .ok _ _ => true
        | .error _ _ => false) = true := by decide +kernel
theorem witness_ControlRegisterStoreResults :
    let s := busyEng fun x => { inRing0 x with trap := { x.trap with ring := 0, vheld := true },
                                               wd := { x.wd with en := true } }
    ready 0 (syncRegisterStoreInst 0 0x180 5) busy = true ∧ syncOffset 0x180 = true ∧
      (found 0 busy).rights.toNat ≤ ecbWriteRing 0x180 ∧ (found 0 s).rights = 0 ∧
      (found 0 s).trap.vheld = true ∧ (s.eng 0).wd.en = true ∧
      ready 0 (traceMarkInst 0 7) busy = true ∧
      ∀ i ∈ [vdropInst 0, softwareInterruptInst 0 true, ecWdCtlStoreInst 0 1, watchdogKickInst 0 0x4B1C],
        ready 0 i s = true := by decide
theorem witness_ControlRegisterStoreResults_late :
    let x (en : Bool) (t : BitVec 24) : Engine := { runner with wd := { runner.wd with en := en, close := 9, t := t } }
    (x true 9).wd.close ≤ (x true 9).wd.t ∧ (x true 8).wd.t < (x true 8).wd.close ∧ (x false 9).wd.en = false ∧
      (x true 9).wd.recent = false := by decide
theorem witness_ControlRegisterStoreResults_nochain :
    let s := { busyEng (fun x => { inRing0 x with trap := { x.trap with ring := 0, vheld := true } }) with
      board := { busy.board with opening := false } }
    ready 0 (vdropInst 0) s = true ∧ (lengOf (fetched 0 s) 0).bind (chainOf (fetched 0 s)) = none := by decide
theorem witness_WatchdogWindow :
    let x (t : BitVec 24) : Engine := { runner with wd := { runner.wd with en := true, opn := 2, close := 9, t := t } }
    (x 2).wd.opn ≤ (x 2).wd.t ∧ (x 8).wd.t < (x 8).wd.close ∧ (x 1).wd.t < (x 1).wd.opn ∧
      (x 9).wd.close ≤ (x 9).wd.t ∧ (0x4B1C : Word).extractLsb' 0 16 = 0x4B1C ∧ (x 2).dbg.halted = false := by
  decide
theorem witness_VectorControlResults :
    let frozen (f : Bool) (l : List Nat) : State := { busy with chains := [(0, { frozen := f, aborted := l })] }
    (∀ i ∈ [setvlInst 0 1 2 6, vbarrierInst 0, chresumeInst 0 1, vqcntInst 0 1 3], ready 0 i busy = true) ∧
      vsuBusy (found 0 busy) = false ∧ lengOf (fetched 0 busy) 0 = some 0 ∧
      chainOf (fetched 0 busy) 0 = some 0 ∧ 0 ∈ (chainSt (frozen false [0]) 0).aborted ∧
      (chainSt (frozen true []) 0).frozen = true ∧ (chainSt busy 0).frozen = false ∧
      ready 0 (chresumeInst 0 1) (frozen false [0]) = true ∧ ready 0 (chresumeInst 0 1) (frozen true []) = true :=
  by decide

/-! ### Vectors -/

/-- VADD of signed doublewords, register group 0 throughout. -/
def vaddWord (c : Bool) : BitVec 32 := wordVR 0x33 c 0 1 2 3 3 0

/-- The part with VL 3 and every descriptor a REG form. -/
def vectors : State :=
  busyEng fun x => { x with vec := { x.vec with vl := 3, sd := Vector.replicate 64 5 } }

/-- A group of the engine at an element. -/
def groupAt (w : BitVec 32) (i : Nat) (s : State) : VGroup :=
  let x := s.eng 0
  let ms := match vopOfWord w with | some op => [captureMember x w 0x40000 op] | none => []
  let g : VGroup :=
    { members := ms, vl := 3, gs := 0, fctl := 0, dctl := 0, mode := 2, ring := 3, start := 0, prog := i }
  { g with strip := stripLen (groupOps g) }

/-- The part with a group in the VSU. -/
def atElement (w : BitVec 32) (i : Nat) (s : State) : State :=
  let g := groupAt w i s
  s.modEng 0 fun x => { x with vec := { x.vec with q := [g] } }

theorem witness_VectorInstructionsCommit_last : ready 0 (streamInst 0 (vaddWord false)) vectors = true ∧
    (found 0 vectors).vec.gpend = [] ∧ (found 0 vectors).trap.vheld = false ∧
    (found 0 vectors).vec.stopped = false ∧ (found 0 vectors).dbg.step = false ∧
    vC (vaddWord false) = false ∧ (found 0 vectors).vec.q = [] ∧ commitHeld (fetched 0 vectors) 0 = false ∧
    (match vopOfWord (vaddWord false) with
      | some op => (groupFault (groupEnv (fetched 0 vectors) 0) none 0 0 []
          [(captureMember (found 0 vectors) (vaddWord false) 0x40000 op, op)]).isNone
      | none => false) = true := by decide
theorem witness_VectorInstructionsCommit_open : ready 0 (streamInst 0 (vaddWord true)) vectors = true ∧
    vC (vaddWord true) = true ∧ (found 0 vectors).slot = none ∧
    (vopOfWord (vaddWord true)).isSome = true := by decide
theorem witness_VsuAdvancesStrips_done : vsuReady (busy.eng 0) = false ∧
    let s := atElement (vaddWord false) 3 vectors
    vsuReady (s.eng 0) = true ∧ stopCause s 0 = false ∧
      (s.eng 0).vec.q = [groupAt (vaddWord false) 3 vectors] ∧
      (groupAt (vaddWord false) 3 vectors).vl ≤ (groupAt (vaddWord false) 3 vectors).prog ∧
      openOutputs (continueGroup 0 s) 0 (groupAt (vaddWord false) 3 vectors) = [] := by decide
theorem witness_VsuAdvancesStrips_elements :
    let s := atElement (vaddWord false) 0 vectors
    let g := groupAt (vaddWord false) 0 vectors
    (match (runElements 0 3 3).run (continueGroup 0 s) with
      | .ok _ s1 => (s1.eng 0).vec.q.length == 1 && decide (g.prog < g.vl) && !stopCause s1 0 &&
          min g.vl ((g.prog / g.strip + 1) * g.strip) == 3 &&
          ((s1.eng 0).vec.q.map VGroup.prog) == [3]
      | .error _ _ => false) = true := by decide +kernel
theorem witness_VsuAdvancesStrips_first_strip :
    let g := { groupAt (vaddWord false) 0 vectors with vl := 33 }
    min g.vl ((g.prog / g.strip + 1) * g.strip) = 32 := by decide +kernel
theorem witness_VsuAdvancesStrips_runs : ((atElement (vaddWord false) 0 vectors).eng 0).run ≠ .stopping ∧
    (groupAt (vaddWord false) 0 vectors).far = [] ∧ (vectors.eng 0).dbg.feed = false ∧
    (let s := (atElement (vaddWord false) 0 vectors).modEng 0 fun x => { x with run := .stopping }
     (s.eng 0).run = .stopping ∧ vsuReady (s.eng 0) = true ∧ canStop (s.eng 0) = true ∧ stopCause s 0 = false) ∧
    (let s := ((atElement (vaddWord false) 0 vectors).modSq 0 fun q => { q with st := .quiescing }).modEng 0
       fun x => { x with vec := { x.vec with stopped := true } }
     (s.eng 0).vec.stopped = true ∧ vsuReady (s.eng 0) = true ∧ stopCause s 0 = true) := by decide
theorem witness_VectorIntegerElements : (7 : BitVec 4).toNat < 8 ∧ (0 : BitVec 4).toNat < 8 ∧
    255 < 2 ^ (8 * 2 ^ ((4 : BitVec 4).toNat % 4)) ∧ 2 ^ 64 - 1 < 2 ^ (8 * 2 ^ ((3 : BitVec 4).toNat % 4)) := by
  decide
theorem witness_VectorFloatElements_value :
    (match fadd f32 0 0x3F800000 0x40000000 with | .val n _ => n == 0x40400000 | _ => false) = true ∧
    (match ffma true true f64 0 0x3FF0000000000000 0x3FF0000000000000 0 with
      | .val _ _ => true | _ => false) = true ∧
    (match ftoint f64 0 1 true 64 0x4059000000000000 with | .val n _ => n == 100 | _ => false) = true := by
  decide +kernel
theorem witness_VectorFloatElements_denorm :
    (match fadd f32 0x10 1 0x3F800000 with | .denorm => true | _ => false) = true ∧
    (match fadd f32 (0x10 &&& ~~~0x10) 1 0x3F800000 with | .val _ _ => true | _ => false) = true := by
  decide +kernel
theorem witness_VectorDecimalElements : readDec .p15 0x123C = some 123 ∧ readDec .p31 0x5D = some (-5) ∧
    readDec .p15 0xA1C = none ∧ (∀ p ∈ [((0x5C : Nat), (5 : Int)), (0x7D, -7)], readDec .p15 p.1 = some p.2) ∧ readDec .p31 0x10 = none ∧
    ((10 : BitVec 4) = 10 ∧ ((123 : Int) + -5).natAbs < 10 ^ 15 ∧ ((123 : Int) * -5).natAbs < 10 ^ 62) := by
  decide +kernel
theorem witness_VectorStepElements : (2 ^ 64 - 1 < 2 ^ 64 ∧ 2 ^ 63 ≠ 0) ∧
    (f64.operand false 0x4024000000000000).isSome = true ∧ (f32.operand true 0x3F800000).isSome = true ∧
    readDec .p31 0x7C = some 7 ∧ readDec .p31 0xC = some 0 ∧
    (match f64.operand false 0x4024000000000000, f64.operand false 0x4000000000000000 with
      | some y, some z => match f64.divEnd 0 false y z 0 0, f64.rootEnd 0 false y 0 0 with
        | .val _ _, .val _ _ => true
        | _, _ => false
      | _, _ => false) = true := by decide +kernel
theorem witness_VectorMovesAndReductions : (13 : BitVec 4).toNat < 14 ∧ (7 : BitVec 4).toNat < 8 ∧
    (12 : BitVec 4) = 12 ∧ (13 : BitVec 4) ≠ 12 ∧ 255 < 2 ^ (8 * 2 ^ ((4 : BitVec 4).toNat % 4)) := by decide

/-- VCOMPRESS of signed doublewords from source 2 to destination 1, a member whose first element has committed. -/
def compressing (s : State) : VMember :=
  match vopOfWord (wordVR 0x37 false 0 1 2 3 3 2) with
  | some op => { captureMember (s.eng 0) (wordVR 0x37 false 0 1 2 3 3 2) 0x40000 op with started := true }
  | none => { word := 0, pc := 0 }

theorem witness_VectorMovesAndReductions_packs : (compressing vectors).srcs.length = 1 ∧
    (∀ o ∈ (compressing vectors).srcs, o.desc.form.indexed = false) ∧
    (compressing vectors).d.desc.form.indexed = false := by decide

/-! ### Strips and stalemates -/

/-- A strip of one doubleword. -/
def strip8 : Strip := { data := List.replicate 8 1, nbytes := 8, eop := false, pseq := 0 }

/-- Engines 0 and 1 of square 0 run job 1 under the wiring of the opening, where output 0 of engine 0
    leads to queue 0 of engine 1; output 0 holds a strip that waits and `n` strips on its wire. -/
def wired (ctx : Byte) (n : Nat) : State :=
  let o : CqOutput := { waiting := some strip8, wire := List.replicate n strip8 }
  let src : Engine := { runner with outs := #v[o, {}, {}, {}] }
  { busy with engines := [(0, src), (1, { runner with ctx := ctx })] }

theorem witness_VsuAndStripEvents_send : lengOf (wired 3 7) 0 = some 0 ∧ chainStopped (wired 3 7) 0 = false ∧
    cqFrozen ((wired 3 7).eng 0) = false ∧ wireOf (wired 3 7) 0 0 = some (.queue 1 0 1) ∧
    wireDests (wired 3 7) 0 1 = [1] ∧ (outOf ((wired 3 7).eng 0) (0 : Fin 4)).waiting = some strip8 ∧
    sameCtx ((wired 3 7).eng 0) ((wired 3 7).eng 1) = true ∧
    sameCtx ((wired 4 7).eng 0) ((wired 4 7).eng 1) = false ∧
    (∀ m ∈ wireDests (wired 3 7) 0 1, cqFrozen ((wired 3 7).eng m) = false ∧
      (((wired 3 7).eng m).cq.toList.getD 0 {}).strips.length + 7 < 8) ∧
    8 ≤ (outOf ((wired 3 8).eng 0) (0 : Fin 4)).wire.length := by decide
theorem witness_VsuAndStripEvents_arrive : lengOf (wired 3 1) 1 = some 1 ∧
    feederOf (wired 3 1) 1 0 = some (0, 0) ∧ engOf (wired 3 1) 0 = some 0 ∧
    (outOf ((wired 3 1).eng 0) 0).wire = [strip8] ∧ (wireDests (wired 3 1) 0 1).Nodup := by decide

/-- Engine 0 waits at an empty queue 0, and no other member runs the job. -/
def stale (halted : Bool) : State :=
  let s := busyEng fun x => { x with
    dbg := { x.dbg with halted := halted }, vec := { x.vec with vl := 3, sd := Vector.replicate 64 4 } }
  atElement (vaddWord false) 0 s

theorem witness_VsuAndStripEvents_stale : (membersOf (stale false) 0).filter (groupStalled (stale false)) = [0] ∧
    (membersOf busy 0).filter (groupStalled busy) = [] ∧ ((stale false).eng 0).dbg.halted = false ∧ chainStopped (stale false) 0 = false ∧
    (∀ m ∈ membersOf (stale false) 0, memberHalted (stale false) m = false) ∧
    (∀ m ∈ membersOf (stale false) 0, m = 0 ∨ outOfPlay (stale false) 3 m = true) ∧
    (∃ m ∈ membersOf (stale true) 0, memberHalted (stale true) m = true) ∧
    (membersOf (stale true) 0).filter (groupStalled (stale true)) = [0] := by decide

/-! ### Registers and tenders -/

theorem witness_RegisterCommands_engine :
    let s := busyEng inRing0
    let at' (a v : Word) := storeWordInst 0 a v
    (∀ p ∈ [(0x1000, 1), (0x1050, 1), (0x1028, 1), (0x1028, 5)],
      ready 0 (at' (BitVec.ofNat 64 (0xFFFF40000000 + p.1)) p.2) s = true) ∧ (found 0 s).rights = 0 ∧
      (0xFFFFF8 : Nat) < 0x1000000 ∧ (0xFFFFF8 : Nat) % 8 = 0 ∧
      ready 0 (at' (0xFFFF30000118 + BitVec.ofNat 64 (0x40 * (3 : Fin 4))) (0 ||| 1)) s = true ∧
      ready 0 (loadWordInst 0 0xFFFF40002018 5) s = true ∧ isPartner (fetched 0 s) 0 = false := by decide
theorem witness_RegisterCommands_decoder :
    let s := { busy with cxl := { busy.cxl with up := true, hdm := { committed := true } } }
    s.cxl.up = true ∧ s.cxl.perst = false ∧ s.cxl.hdm.committed = true ∧ busy.cxl.hdm.committed = false := by decide
theorem witness_RegisterCommands_counts : busy.mg.wdT < busy.mg.wdClose ∧ busy.nv.soft = [] := by decide
theorem witness_RegisterCommands_steward : stewardRuns busy = true ∧
    (0x4B1C : Word).extractLsb' 0 16 = 0x4B1C ∧ (0x4B1D : Word).extractLsb' 0 16 ≠ 0x4B1C ∧
    busy.mg.wdOpen ≤ busy.mg.wdT ∧ busy.mg.wdT < busy.mg.wdClose ∧ busy.mg.wdBite = false ∧
    (let s := { busy with mg := { busy.mg with wdT := 100000, wdBite := true } }
     s.mg.wdClose ≤ s.mg.wdT ∧ s.mg.wdBite = true ∧ stewardRuns s = true) ∧
    debugConsumes busy = false ∧
    debugConsumes { busy with ik := { busy.ik with level := 2, consume := true } } = true ∧
    (let s := { busy with cxl := { busy.cxl with up := true } }
     s.cxl.up = true ∧ s.cxl.perst = false) := by decide

/-- Channel 0 of square 0 with a length, from the first window of the square to its second, or from
    page 5. -/
def tender (busy' : Bool) (src : BitVec 48) (len : BitVec 32) : State :=
  let k : Tender := { src := src, dst := 0xFFFF20040038, len := len, ctx := 3, busy := busy' }
  busy.modSq 0 fun q => { q with tnd := #v[k, {}, {}, {}] }

theorem witness_TenderTransfers_control :
    let s := tender false 0xFFFF20000000 0x3FEC8
    let v : Word := 0x301
    v.getLsbD 0 = true ∧ isPartner s 0 = false ∧
      (match sqPart s 0 with | some p => p.hasCtx (v.extractLsb' 8 8) | none => false) = true ∧
      tenderRange (s.sqr 0) 0xFFFF20000000 0x3FEC8 = true ∧ tenderRange (s.sqr 0) 0xFFFF20040038 0x3FEC8 = true ∧
      tenderRange (s.sqr 0) 0xFFFF20040038 0x3FEC9 = false ∧ (tnd s 0 0).busy = false ∧
      (tnd (tender true 0 0) 0 0).busy = true ∧ (tnd (tender false 0 0) 0 0).len = 0 ∧
      sqPart { s with board := { s.board with parts := [] } } 0 = none := by decide
theorem witness_TenderTransfers_copy :
    let s := tender true 0xFFFF20000000 8
    tenderPaused s 0 = false ∧ (tnd s 0 0).len ≠ 0 ∧ noErrors s ∧
      (match tenderPlace 0 0 true 0xFFFF20000000 s with
        | (.ok (.tile 0), s1) => (match tenderPlace 0 0 false 0xFFFF20040038 s1 with
          | (.ok (.tile a), _) => a == 0x40038
          | _ => false)
        | _ => false) = true ∧
      min (tnd s 0 0).len.toNat (min (64 - 0) (64 - (0xFFFF20040038 % 64))) = (tnd s 0 0).len.toNat ∧
      (tnd s 0 0).outstanding = [] := by unfold noErrors; decide
theorem witness_TenderTransfers_unmapped :
    let s := tender true 0x140000 9
    min (tnd s 0 0).len.toNat (min (64 - 0) (64 - (0xFFFF20040038 % 64))) < (tnd s 0 0).len.toNat ∧
      (match tenderPlace 0 0 true 0x140000 s with | (.error (.code 1), _) => true | _ => false) = true := by
  decide
theorem witness_TenderTransfers_paused :
    tenderPaused ((tender true 0 9).modSq 0 fun q => { q with st := .quiescing }) 0 = true := by decide

/-! ### The map -/

/-- The part with a host link, one partition of context 3, pages 0 to 15 and frames 0 to 15, and the map
    command registers of engine 0 (copy 0) set. -/
def mapper (page : BitVec 21) (data : Word) (busy' : Bool) : State :=
  let m : MapCopy := { idx := page, data := data, busy := busy' }
  { busy with
      cxl := { busy.cxl with up := true }
      board := { busy.board with opening := false, parts := [⟨0, 1, 0, 16, 0, 16, 8⟩] }
      hub := { busy.hub with copies := [(0, m)], live := [(7, 0x000000040001)] } }

theorem witness_MapCommandResults_busy : barOpen (mapper 15 0 true) = true ∧
    copyNum (mapper 15 0 true) (.engine 0) = some 0 ∧ ((mapper 15 0 true).mapCopy 0).busy = true ∧
    copyPart { mapper 15 0 false with board := { busy.board with parts := [] } } (.engine 0) = none ∧
    copyPart (mapper 15 0 false) .host = some ⟨0, 1, 0, 16, 0, 16, 8⟩ := by decide
theorem witness_MapCommandResults_codes :
    (let s := mapper 16 0 false
     (copyPart s (.engine 0)).isSome = true ∧ ¬ (s.mapCopy 0).idx.toNat < 0 + 16) ∧
    (let s := mapper 15 0x040001 false
     entV (s.mapCopy 0).data = true ∧ entCtx (s.mapCopy 0).data ≠ 0xFF ∧
      (⟨0, 1, 0, 16, 0, 16, 8⟩ : Partition).hasCtx (entCtx (s.mapCopy 0).data) = false) ∧
    (let s := mapper 7 0 false
     entV (liveEntry s 7) = true ∧ entCtx (liveEntry s 7) = 4) ∧
    (let ent : Word := BitVec.ofNat 64 (16 * 2 ^ 40 + 0x030001)
     entV ent = true ∧ entTgt ent = 0 ∧ entPage ent = 16 ∧ entCtx ent = 3) ∧
    (let ent : Word := BitVec.ofNat 64 (15 * 2 ^ 40 + 0x030005)
     entV ent = true ∧ entTgt ent = 2 ∧ ∀ t ∈ (mapper 0 0 false).board.tunnels, t.part ≠ 0) ∧
    (let ent : Word := BitVec.ofNat 64 (15 * 2 ^ 40 + 0x030001)
     entTgt ent = 0 ∧ entPage ent < 0 + 16 ∧ writeCode (mapper 15 ent false) ⟨0, 1, 0, 16, 0, 16, 8⟩ ent
      [liveEntry (mapper 15 ent false) 15, shadowEntry (mapper 15 ent false) 15] = 0) := by decide
theorem witness_MapEventResults_shoot : copyNum (mapper 15 0 true) (.engine 0) = some 0 ∧
    ((mapper 15 0 true).mapCopy 0).busy = true ∧ ((mapper 15 0 false).mapCopy 0).busy = false ∧
    (∃ q ∈ (mapper 15 0 true).hub.copies, q.2.busy = true) ∧
    (∀ q ∈ (mapper 15 0 false).hub.copies, q.2.busy = false) ∧ oldRefs busy = 0 ∧
    (let s := busyEng fun x => { x with vec := { x.vec with q := [{ groupAt 0 0 busy with
      pages := [⟨0, 1, openEntry 1, true⟩] }] } }
     oldRefs s ≠ 0) := by decide

/-- The rebuild engine set up. -/
def rebuild (rb : Rebuild) (fence : Bool) (master : Byte) : State :=
  let s := mapper 0 0 false
  { s with hub := { s.hub with rb := rb, fence := fence }, board := { s.board with mapMaster := master } }

theorem witness_MapEventResults_under_way :
    let under (shot old : Bool) : State := busyEng fun x => { x with mid := true, way := { old := old, shot := shot } }
    underWay Way.shot FarWrite.shot (under true false) = true ∧ underWay Way.shot FarWrite.shot (under false true) = false ∧
      underWay Way.old FarWrite.old (under false true) = true ∧ underWay Way.old FarWrite.old (under true false) = false :=
  by decide
theorem witness_MapEventResults_castle : copyNum (rebuild {} true 1) (.engine 0) = some 0 ∧
    (sqPart (rebuild {} true 1) 0).isSome = true ∧ (rebuild {} true 1).board.mapMaster.toNat ≠ 0 ∧
    (rebuild {} false 0).board.mapMaster.toNat = 0 ∧ (rebuild {} false 0).hub.fence = false ∧
    stewardRuns (rebuild {} true 0) = true := by decide
theorem witness_MapEventResults_rebuild :
    let last : Rebuild := { src := 0x3FFF78, first := 1, count := 15, busy := true, next := 14, runSrc := 0x3FFF78, runFirst := 1, runCount := 15 }
    let s := rebuild last true 0
    last.first.toNat + last.count.toNat ≤ 0 + 16 ∧ last.src.toNat + 8 * last.count.toNat ≤ (0 + 16) * 2 ^ 18 ∧
      ¬ last.src.toNat + 1 + 8 * 17 ≤ (0 + 16) * 2 ^ 18 ∧ ¬ (2 + 15 ≤ 0 + 16) ∧
      (partOf s s.hub.rb.part.toNat).isSome = true ∧ noErrors s ∧
      last.next + 1 = last.count.toNat ∧
      writeCode s ⟨0, 1, 0, 16, 0, 16, 8⟩ 0 [shadowEntry s 15] = 0 ∧
      writeCode s ⟨0, 1, 0, 16, 0, 16, 8⟩ 0x040001 [shadowEntry s 15] ≠ 0 ∧
      stewardRuns s = true ∧ s.boot.conversion = true := by unfold noErrors; decide
theorem witness_MapEventResults_scrub :
    let s := { busy with flaws := { hbm := [(5, .bytes 0 1)] } }
    stewardRuns s = true ∧ s.boot.conversion = true ∧ 5 ∈ s.flaws.hbmUe ∧
      unreachable s.hub (5 * 64) = false := by decide

/-! ### Jobs -/

/-- A job of context 3 on square 0. -/
def jobAt (id : Nat) (stage : JobStage) (compl : Word) : Job :=
  { id := id, ctx := 3, seq := 0, prio := 1, order := 0, entry := 0x140000, arg := 0, sqmask := 1,
    compl := compl, tag := 0, home := 1, stage := stage }

/-- A descriptor of context 3: entry 0x140000, square 0, and its completion record at 0x140040. -/
def descriptor (sqmask : Byte) : List Byte :=
  [3, 0, 0, 0, 0, 0, 0, 0, 0, 0, 0x14, 0, 0, 0, 0, 0] ++ List.replicate 8 0 ++ [sqmask, 0, 0, 0, 0, 0, 0, 0] ++
    [0x40, 0, 0x14, 0, 0, 0, 0, 0]

/-- The part with an open link, context 3 granted with a ring of 16 at page 5, and jobs. -/
def ringed (jobs : List Job) (f : Ctx → Ctx) : State :=
  let x : Ctx := { granted := true, base := 0x140000, n := 16 }
  let sq : Square := { st := .idle, opp := 4 }
  { busy with
      cxl := { busy.cxl with up := true }, jobs := jobs, nextJob := 9, engines := [], squares := [(0, sq)]
      ctxs := [(3, f x)], hub := { busy.hub with live := [(5, openEntry 5)] }
      hbm := Mem.write [] (5 * 2 ^ 18) (descriptor 1) }

theorem witness_JobPathResults_doorbell : barOpen (ringed [] id) = true ∧ barOpen busy = false ∧
    ((ringed [] id).ctx 3).granted = true ∧ ((ringed [] id).ctx 4).granted = false ∧
    ((16 : BitVec 32) - ((ringed [] id).ctx 3).head).toNat ≤ ((ringed [] id).ctx 3).n.toNat ∧
    ((ringed [] id).ctx 3).n.toNat < ((17 : BitVec 32) - ((ringed [] id).ctx 3).head).toNat := by decide
theorem witness_JobPathResults_descriptor :
    let s := ringed [] fun x => { x with tail := 1 }
    (s.ctx 3).granted = true ∧ (s.ctx 3).head ≠ (s.ctx 3).tail ∧ (s.ctx 3).ringerr = false ∧
      ((s.ctx 3).base.toNat + 64 * ((s.ctx 3).head.toNat % max (s.ctx 3).n.toNat 1)) = 0x140000 ∧
      (match rankRead 3 0x140000 64 s with
        | (.ok d, _) => fieldAt d 0 1 == 3 && fieldAt d 8 8 == 0x140000 && fieldAt d 0x18 8 == 1
        | _ => false) = true ∧
      (match rankRead 3 0x140000 64 { s with hub := { s.hub with live := [] } } with
        | (.error .fault, _) => true
        | _ => false) = true ∧
      (match rankRead 3 0x140000 64 { s with hbm := Mem.write [] (5 * 2 ^ 18) (4 :: (descriptor 0).drop 1) } with
        | (.ok d, _) => fieldAt d 0 1 != 3 && fieldAt d 0x18 8 == 0
        | _ => false) = true ∧
      ((ringed [] id).ctx 3).head = ((ringed [] id).ctx 3).tail := by decide +kernel
theorem witness_JobPathResults_reserve :
    let s := ringed [jobAt 1 .queued 0, jobAt 2 .running 0] id
    squareFree s 0 = true ∧ (s.jobs.filter fun j => j.waiting && waitsFor j == some 0) = [jobAt 1 .queued 0] ∧
      squareFree busy 0 = false := by decide
theorem witness_JobPathResults_measure_failed :
    let s := { ringed [jobAt 1 .measuring 0] id with
      hub := busy.hub, nv := { busy.nv with owner := NvRec.both 4 } }
    let begun := s.modCtx 3 fun x => { x with measJob := 1, meas := [] }
    measuredJob s 3 = some (jobAt 1 .measuring 0) ∧ needsMeasure s 3 = true ∧
      needsMeasure busy 3 = false ∧ (s.ctx 3).measJob ≠ 1 ∧
      (match readPage 3 (0x140000 / 2 ^ 18) 4096 begun with | (.fault, _) => true | _ => false) = true := by
  decide

/-- Context 3 with the whole page of its first job read. -/
def pageRead : State :=
  { ringed [jobAt 1 .measuring 0] (fun x => { x with measJob := 1, meas := List.replicate (2 ^ 18) 0 }) with
    nv := { busy.nv with owner := NvRec.both 4 } }

theorem readPage_done (c : Byte) (page n : Nat) (s : State) (h : 2 ^ 18 ≤ (s.ctx c).meas.length) :
    readPage c page (n + 1) s = (.done, s) := by
  rw [readPage, readSector, if_pos h]
theorem pageRead_meas : (pageRead.ctx 3).meas = List.replicate (2 ^ 18) 0 := rfl
theorem pageRead_length : 2 ^ 18 ≤ (pageRead.ctx 3).meas.length :=
  Nat.le_of_eq (by rw [pageRead_meas, List.length_replicate])
theorem witness_JobPathResults_measured : needsMeasure pageRead 3 = true ∧
    measuredJob pageRead 3 = some (jobAt 1 .measuring 0) ∧ (pageRead.ctx 3).measJob = 1 ∧
    readPage 3 (0x140000 / 2 ^ 18) 4096 pageRead = (.done, pageRead) :=
  ⟨by decide, by decide, by decide, readPage_done 3 (0x140000 / 2 ^ 18) 4095 pageRead pageRead_length⟩
theorem witness_JobPathResults_waits :
    let s := { pageRead with mg := { pageRead.mg with running := false } }
    stewardRuns pageRead = true ∧ stewardRuns s = false ∧
      allStopped (ringed [jobAt 1 .ended 0x140040] id) 1 = true ∧
      allStopped { busyEng (fun x => { x with run := .stopping }) with jobs := [jobAt 1 .ended 0] } 1 = false := by
  decide
theorem witness_JobPathResults_complete :
    let s := ringed [jobAt 1 .ended 0x140040, jobAt 2 .ended 0x140041, jobAt 3 .queued 0] id
    let j := jobAt 1 .ended 0x140040
    jobOf s 1 = some j ∧ j.recordOut = false ∧ writesDone s 1 = true ∧ (jobAt 2 .ended 0x140041).compl.toNat % 32 ≠ 0 ∧
      j.compl.toNat % 32 = 0 ∧ noErrors s ∧ s.cmd.busy = none ∧ (jobAt 3 .queued 0).stage ≠ .running ∧
      (match rankPlace 3 .w 0x140040 s with
        | (some (.hbm pa), _) => pa == 5 * 2 ^ 18 + 0x40
        | _ => false) = true := by unfold noErrors; decide
theorem witness_JobPathResults_running :
    let s := { busyEng (fun x => { x with run := .ended }) with
      jobs := [jobAt 1 .running 0x140040], squares := [(0, { st := .busy, job := 1, map := 0xFFFFFFF0 })] }
    allEnded s 1 = true ∧ writesDone s 1 = true ∧ (s.sqr 0).job = 1 ∧
      (jobOf s 1).map Job.stage = some .running := by decide

/-! ### Squares and the structure -/

theorem witness_SquareAndStructureResults_states :
    let st (k : SqState) (due : Bool) : State :=
      { busyEng (fun x => { x with vec := { x.vec with
          held := if due then some ⟨{ code := 0x10 }, 0, 0, 0, true⟩ else none } }) with
        squares := [(0, { st := k, job := 1 })], jobs := [jobAt 1 .running 0] }
    let due (s : State) : Bool := (availEngs s 0).any fun k =>
      (s.eng k).run == .running && !(s.eng k).dbg.halted && (s.eng k).vec.held.isSome
    due (st .quiescing true) = true ∧ due (st .quiescing false) = false ∧
      ((st .quiescing false).sqr 0).st = .quiescing ∧ ((st .failed false).sqr 0).st = .failed ∧
      ((st .busy false).sqr 0).job ≠ 0 ∧ jobOf (st .busy false) 1 = some (jobAt 1 .running 0) ∧
      (jobAt 1 .running 0).stage ≠ .ended ∧ (tnd (tender true 0 1) 0 0).busy = true := by decide
theorem witness_SquareAndStructureResults_parking :
    let s (k : SqState) (w : Bool) : State := { busy with
      squares := [(0, { st := k, waking := w })]
      pw := { busy.pw with policy := { busy.pw.policy with parkidle := 1 } } }
    ((s .idle false).sqr 0).st = .idle ∧ ((s .idle false).sqr 0).reservedBy = 0 ∧
      (s .idle false).pw.policy.parkidle ≠ 0 ∧ busy.pw.policy.parkidle = 0 ∧
      ((s .parked true).sqr 0).waking = true ∧ ((s .parked true).sqr 0).st = .parked := by decide
theorem witness_SquareAndStructureResults_spare : busy.boot.next = none ∧ busy.board.spare = 0 ∧
    (busy.sqr 0).st ≠ .failed ∧ (busy.sqr 0).spareUsed = false ∧ (busy.sqr 0).retired.getLsbD 8 = false ∧
    lostLogical (busy.sqr 0) (7 : Fin 8) = some 7 ∧
    lostLogical { busy.sqr 0 with map := 0xF6543210 } (7 : Fin 8) = some 7 := by decide
theorem witness_SquareAndStructureResults_link :
    let s : State := { (tender true 0 1) with jobs := [jobAt 1 .running 0] }
    (0 : Fin 64).val / 16 = (0 : Fin 4).val ∧ (s.sqr 0).st ≠ .failed ∧ (s.sqr 0).job ≠ 0 ∧
      jobOf s (s.sqr 0).job = some (jobAt 1 .running 0) ∧ (jobAt 1 .running 0).stage ≠ .ended ∧
      (tnd s 0 0).busy = true := by decide
theorem witness_SquareAndStructureResults_asked :
    let s : State := { busy with cmd := { busy := some ⟨0x62, 7, none, .spare 0 7⟩ }
                                 board := { busy.board with spare := 1 } }
    stewardRuns s = true ∧ s.board.spare.toNat ≤ 1 ∧ s.boot.next = none ∧
      (s.cmd.busy.map Deferred.work) = some (.spare (0 : SqId) (7 : Fin 9)) ∧ busy.cmd.busy = none ∧
      stewardRuns { s with mg := { s.mg with running := false } } = false := by decide
theorem witness_SquareAndStructureResults_switch :
    let b : Board := { opening := false, digest := 1, parts := [] }
    let s := { busy with boot := { busy.boot with next := some b } }
    s.boot.next.isSome = true ∧ (∃ i ∈ affectedSquares s.board b, settled (s.sqr i) = false) ∧
      (∀ i ∈ affectedSquares s.board b, settled ((s.modSq 0 fun q => { q with st := .quiesced }).sqr i) = true) ∧
      0 ∈ affectedSquares s.board b := by decide +kernel

/-! ### Power and boot -/

theorem witness_PowerResults : supplied State.reset = false ∧
    supplied { busy with boot := { busy.boot with vinValid := true } } = true ∧ busy.boot.powered = true ∧ State.reset.boot.powered = false ∧
    nearEdge 9099 0 = false ∧ nearEdge 9100 0 = true ∧ nearEdge 10101 1 = false ∧
    nearEdge 9600 3 = false ∧ nearEdge 38501 3 = false ∧
    busy.mg.running = true ∧ busy.ik.steward.halted = false ∧ State.reset.mg.running = false ∧
    ((busy.modSq 0 fun q => { q with pinned := true }).sqr (0 : Fin 64)).pinned = true := by decide

theorem witness_PowerResults_brake :
    let s : State := { busy with boot := { busy.boot with step := 8, ready := false }
                                 squares := [(0, { st := .parked, opp := 4 })] }
    s.boot.powered = true ∧ s.boot.step = 8 ∧ (s.sqr 0).st = .parked ∧ (s.sqr 0).pinned = false ∧
      busy.boot.step ≠ 8 := by decide

/-- The part with its supplies and its boot state set. -/
def booting (vin vaux powered conversion : Bool) (step : BitVec 4) : State :=
  { busy with boot := { busy.boot with
      vinValid := vin, vaux := vaux, powered := powered, conversion := conversion, step := step, ready := false } }

theorem witness_BootSequence_supply :
    let s := booting false false false false 1
    let t := booting false true true false 2
    ¬ (s.boot.vinValid = true ∨ s.boot.vaux = true) ∧ (t.boot.vinValid = false ∧ t.boot.vaux = true ∧
      t.boot.held = false) ∧ (booting true false true true 9).boot.vaux = false ∧
      (booting true true true true 9).boot.vinValid = true ∧ s.boot.powered = false ∧
      heldReset s = false ∧ heldReset { s with pins := { s.pins with resetN := false } } = true ∧
      (booting true false false false 1).boot.vinValid = true ∧ t.pins.thermtrip = false ∧
      (booting true false true false 2).mg.running = true := by decide
theorem witness_BootSequence_steps : inStep 5 (booting true false true true 5) = true ∧
    inStep 5 (booting true false true true 6) = false ∧ inStep 6 (booting true false true true 6) = true ∧
    inStep 8 (booting true false true true 8) = true ∧ inStep 8 (booting true false true false 8) = false ∧
    (let s := { booting true false true true 6 with pins := { busy.pins with force := true } }
     s.pins.force = true ∧ s.boot.next = none) := by decide
theorem witness_BootSequence_level :
    let s := { booting true true true true 9 with ik := { busy.ik with level := 2 } }
    s.ik.level ≠ 0 ∧ busy.ik.level = 0 ∧ s.boot.vinValid = true ∧ s.boot.vaux = true := by decide
theorem witness_ResetResults_opened : busy.nv.opened = [] ∧ busy.ik.level = 0 ∧
    ({ busy with ik := { busy.ik with level := 1 } } : State).ik.level ≠ 0 := by decide
theorem witness_ResetResults :
    let held := { busy with pins := { busy.pins with resetN := false } }
    let test := { busy with pins := { busy.pins with testen := true } }
    State.reset.boot.powered = false ∧ busy.boot.powered = true ∧ heldReset held = true ∧
      heldReset { held with pins := { held.pins with resetN := true } } = false ∧
      heldReset { held with pins := { held.pins with resetN := true, testen := true } } = true ∧
      test.pins.testen = true ∧ heldReset { test with pins := { test.pins with testen := false } } = false ∧
      ({ busy with cxl := { busy.cxl with up := true } } : State).cxl.up = true := by decide

/-- A number from its 256-bit digits, most significant first. -/
def wordsOf (l : List Nat) : Nat := l.foldl (fun a x => a * 2 ^ 256 + x) 0

/-- The modulus of a 4,096-bit RSA key made for these tests. -/
def testModulus : Nat :=
  wordsOf [
    0xa5bc5e8dee91e669319ed56e48b783f19b2c4a0ebdf40aa17878eb36bf7bfd9a,
    0xbdc71c153e8e60d6c9a9afee3f3d88bc078bc1c21bbd93872577969b1d5c115c,
    0xfec8eeb7bcfa2e5854494334e843c44e5383e3d61467cf9a053584906be82e45,
    0x667c76672898962c8753b7974b241d534ffbdb140c71f720d6952b4f5cf3b46b,
    0x9d91a40a847fd049697528a5c7d2c2f369848e4ad2d9b98453c5370dd8764f57,
    0x7ba3ddfbacea41bf2e449d82f8dd55c5ccbb4b09e1ce7dda70b4deb8bf118337,
    0xc1b6ab8ab9c0280b4f43a507d8e30f3ee1824f0edb4c3dc3b99412159890c54b,
    0xaf24b3e06aa0755e7fcbf4a3335e7475d0a0be2149608b5cab72970e95ff8cc8,
    0xb5174fc24531e144882bc0c671107a59d7f8c5cbcb422f907bcbb6b874892f90,
    0xf658b70ce5ad72139c6893f7205d89fae37fbc1fd1eff33dbfa9d4f96df8db7b,
    0x4dfe534f3eb8c0c2dc04436c7a3dcae16cecd017588ff343b03a256f82986cbe,
    0xbf85b7938012e8bbb9134761f79301834099be9aadd8fc21b62b6970469666e3,
    0xe378cbde2c7d98f95d8c1960904b45898a1e1b9de9b2c10c3d7313925729660c,
    0xcb34c90e75d96d6ca42264fb522ab9ed05f5c3816d0dcd31f925deb1ca910573,
    0x98b76c49fbdbd470456e694e7b8dc8fe52a9ab87ea96c4cf30ef67aa2b7ffb68,
    0x6cfbdeefea1e89533548cfd933713dab18d00ae61bca91c92046baba40d3d0e1]

/-- The RSASSA-PSS signature of `testSigned` under that key, computed outside the model. -/
def testSignature : Nat :=
  wordsOf [
    0x1a3c2ff1f3413bb2c2852985ff78a44d0faccc0f063ef9f7098edb6e21cc3ed3,
    0x4e52efc825994a547bea2c8d9cf3413e110259f531c4c0766dd147f13f4469e1,
    0xa58f72fd46d03168d746ffe5cef2a977145b463542f5610875214fdec18a2e9d,
    0x8c17867bae54bee03654343cb538f6f9f9dd1a3469167ff7c146e8775de931b1,
    0x1c8a552c8aa728ab01432d7534aa819adb037e18ed1ca897ff24ae9259104224,
    0x47049a9a81434feb8873f35903aafeb74fcf1396a702e2958f59eb33fbde12b0,
    0x95bddc6847ce858dcf39bc82c8fbc0906a41bce179f088d2285f1df72137fd32,
    0xba9efaffef68026cbc784d9ccc324af55f952eb9a6ff8680c5d0caef48860cb9,
    0xff59355539aded7cc272a193d6f3ed1c266bf8e92eaaebfa87799098484746ff,
    0x0534b37fb6897f784c6e7e4b35b1f9356f7a6d219d7b57c27134835cf00f8246,
    0xed7431b7ee826ad6556ff2a0c3ad0d8cae1b6c2ec677188f36549f0f111ac1d6,
    0x0ccf58434025883df4265f20494527687fef1590b4771c47c91023da5a7da4ea,
    0xa5f1b9dea4b2f26512809633c95d1d779517baef9857453c5cd8688649fc53e1,
    0xa39170956d2f2e5893d71777854dbac06d9d7c34eb2558420e422d62aa723017,
    0x6f9d20355f41dba5c491111119eb88047a0a5723f0b46c5380b9db211af9cba6,
    0xb68af14b11b5e5df30fdd1b84ec12fdb6439e218fab1dfe303a2d6dbee09eb4e]

/-- SHA-512 of `testSigned`, computed outside the model. -/
def testDigest : Nat :=
  wordsOf [
    0xdc3902662be169ccebec572cfb6f685d41e754694e97de703e1e85372db9c944,
    0x035ffc7076fb01ab67432ec5450e90cb241347e0c57fefe789269c404e07e47b]

/-- The signed part of a structure image (Tables 9.4, 9.6, 9.7): SERIAL 1, signing slot 1, a DEVICE section and
    one PARTITION that holds everything. -/
def testSigned : List Byte :=
  ascii "BNSI" ++ [0, 1] ++ leBytes 2 0x9512 ++ leBytes 8 1 ++ leBytes 4 0 ++ leBytes 4 928 ++ leBytes 2 2 ++
    leBytes 2 0 ++ [1, 0, 0, 0] ++ List.replicate 224 0 ++
    leBytes 2 1 ++ leBytes 2 0 ++ leBytes 4 16 ++ [0, 0, 0, 1, 1, 0, 0] ++ List.replicate 9 0 ++
    leBytes 2 2 ++ leBytes 2 0 ++ leBytes 4 64 ++ List.replicate 8 0xFF ++ leBytes 4 0 ++ leBytes 4 2097152 ++
    leBytes 4 0 ++ leBytes 4 1572864 ++ List.replicate 8 0 ++ List.replicate 32 0xFF

/-- The image in a structure slot. -/
def testImage : ImgSlot :=
  { data := testSigned ++ beBytes 64 testDigest ++ beBytes 512 testSignature, complete := true }

/-- The part with the test key in signing slot 1. -/
def signing : State := { busy with nv := { busy.nv with keys := busy.nv.keys.set 4 (leBytes 512 testModulus) } }

theorem test_structure_image_accepted :
    (match imageCheck signing true false testImage with
      | (k, some b) => k == 0 && b.serial == 1 && b.parts.length == 1
      | _ => false) = true := by decide +kernel
theorem test_structure_image_incomplete :
    imageCheck signing true false { testImage with complete := false } = (2, none) := by decide +kernel

/-! ### Commands -/

/-- The key of slot 0 in these tests. -/
def key64 : List Byte := List.replicate 64 0x5A

/-- A claimed part with key 0, and a session of the owner where `sess` is set. -/
def claimed (sess : Bool) : State :=
  let k : Session := { slot := 0, key := key64, seq := 7, badTags := 0 }
  { busy with
      nv := { busy.nv with keys := busy.nv.keys.set 0 key64, claimed := NvRec.both true }
      session := if sess then some k else none }

/-- A command frame with a payload and a tag. -/
def framed (flags : Byte) (seq : BitVec 32) (pay tag : List Byte) : Frame :=
  { addr := 0x48, flags := flags, length := BitVec.ofNat 16 pay.length, seq := seq, body := pay ++ tag }

/-- Sixteen zero bytes. -/
def noTag : List Byte := List.replicate 16 0

/-- The row of CLOSE. -/
def closeRow : CmdRow := { op := 0x03, slots := some [0, 1, 2, 3], len := len 0 }
/-- The HMAC of CLOSE with SEQ 7 under the session key, computed outside the model. -/
def closeHmac : List Byte := beBytes 64 (
    0xf4d310cea8f99b7d11708f592b24d204f17fa22feedce029704e663a9f82391a * 2 ^ 256 +
    0xa505899a4fc9654c77bc8f66d4e7ad57ef983513c8fbc63e7f845c5a78c6c335)
/-- CLOSE with SEQ 7. -/
def closeFrame : Frame := framed 0 7 [] (closeHmac.take 16)

theorem test_hmac_of_frame : hmac512 key64 (signedFrame 0x03 closeFrame) = closeHmac := by decide +kernel

/-- The session at another SEQ. -/
def atSeq (n : BitVec 32) : State :=
  { claimed true with session := some { slot := 0, key := key64, seq := n, badTags := 0 } }

theorem closeTag_ok (n : BitVec 32) : tagOk closeRow closeFrame (atSeq n) = true := by
  show (_ == (hmac512 key64 (signedFrame 0x03 closeFrame)).take 16) = true
  rw [test_hmac_of_frame]
  decide +kernel
theorem closeTag_bad : tagOk closeRow (framed 0 7 [] noTag) (atSeq 7) = false := by
  show (_ == (hmac512 key64 (signedFrame 0x03 closeFrame)).take 16) = false
  rw [test_hmac_of_frame]
  decide +kernel
theorem witness_CommandFrames_tagged : frameStatus closeRow closeFrame (atSeq 7) = 0 := by
  unfold frameStatus; rw [closeTag_ok]; decide
theorem witness_CommandFrames_bad_seq : frameStatus closeRow closeFrame (atSeq 8) = 0x05 := by
  unfold frameStatus; rw [closeTag_ok]; decide
theorem witness_CommandFrames_bad_tag : frameStatus closeRow (framed 0 7 [] noTag) (atSeq 7) = 0x04 := by
  unfold frameStatus; rw [closeTag_bad]; decide
theorem witness_CommandFrames_untagged : stewardRuns (claimed true) = true ∧ (claimed true).cmd.busy = none ∧
    (claimed true).cmd.response = none ∧
    frameStatus { op := 0x01, len := len 1 } (framed 0 0 [0] noTag) (claimed false) = 0 ∧
    frameStatus { op := 0x01, len := len 1 } (framed 0 0 [] noTag) (claimed false) = 0x02 ∧
    frameStatus closeRow closeFrame (claimed false) = 0x06 ∧
    frameStatus { op := 0x01, len := len 1 } (framed 1 0 [0] noTag) (claimed false) = 0x03 := by decide +kernel
theorem witness_CommandFrames_replies :
    (match infoPage [4] busy with | (.ok b, _) => b.length == 516 | _ => false) = true ∧
    (match infoPage [5] busy with | (.no k d, _) => k == 0x0D && d == 1 | _ => false) = true ∧
    (match setPolicy [2] busy with | (.no k d, _) => k == 0x03 && d == 0 | _ => false) = true ∧
    (match revokeContext [3] { ringed [jobAt 1 .queued 0] id with cmd := {} } with
      | (.later (.revoke 3), _) => true
      | _ => false) = true := by decide +kernel
theorem witness_CommandFrames_slot : knownOpcodes.contains 0x06 = false ∧
    ({ busy with cmd := { response := some [1] } } : State).cmd.response = some [1] ∧
    ({ busy with cmd := { busy := some ⟨0x12, 0, none, .quote [1]⟩ } } : State).cmd.busy =
      some ⟨0x12, 0, none, .quote [1]⟩ ∧ (3 : Fin 4) ≠ 0 := by decide

/-- The proof of OPEN phase 2 for slot 0, a nonce of zeros and a host nonce of nines, computed outside the
    model. -/
def openHmac : List Byte := beBytes 64 (
    0x2a132078e3ee57f732b7b4a4d54c7ce3f5ff7ae6d21b7400141d4be77887f636 * 2 ^ 256 +
    0x5a61ba98cadaca9bcf5a8dcc1b334eb084f5aded1025589c96c9978aa994edc2)

/-- The payload of OPEN phase 2 with that proof or another. -/
def openPayload (good : Bool) : List Byte :=
  [0, 0, 0, 0] ++ List.replicate 32 9 ++ if good then openHmac else List.replicate 64 0

theorem test_open_proof :
    hmac512 key64 (leBytes 32 0 ++ List.replicate 32 9 ++ leBytes 1 0) = openHmac := by decide +kernel
theorem witness_CommandEffects_open :
    let s := { claimed false with np := some ⟨0, 0⟩ }
    slotKey s 0 = key64 ∧ slotKey s 0 ≠ [] ∧ slotKey s 1 = [] ∧ (lockoutOf s 0).left = 0 ∧
      (lockoutOf { s with nv := { s.nv with lockout := NvRec.both #v[⟨1, 5⟩, {}, {}, {}] } } 0).left ≠ 0 ∧
      bytesAt (openPayload true) 4 32 = List.replicate 32 9 ∧ bytesAt (openPayload true) 36 64 = openHmac ∧
      bytesAt (openPayload false) 4 32 = List.replicate 32 9 ∧ bytesAt (openPayload false) 36 64 ≠ openHmac ∧
      s.nv.isClaimed = true ∧ busy.nv.isClaimed = false ∧ key64.length = 64 := by decide +kernel
theorem witness_CommandEffects_load :
    let s := { busy with nv := { busy.nv with st := #v[{ data := [1, 2] }, {}] } }
    fieldAt [0, 0, 0, 0, 2, 0, 0, 0, 9] 4 4 = (s.nv.st.toList.getD 0 {}).data.length ∧
      fieldAt [0, 0, 0, 0, 3, 0, 0, 0, 9] 4 4 ≠ (s.nv.st.toList.getD 0 {}).data.length ∧
      fieldAt [1, 0, 0, 0, 0, 0, 0, 0, 9] 4 4 = 0 ∧ 2 + ([0, 0, 0, 0, 2, 0, 0, 0, 9].drop 8).length ≤ 2097152 ∧
      fieldAt [4] 0 1 = 4 ∧ fieldAt [1] 0 1 = 1 := by decide
theorem witness_CommandEffects_grant :
    let s := ringed [jobAt 1 .queued 0] id
    let p : List Byte := [4, 0, 255, 0, 0, 0, 1, 0] ++ [0xC0, 0xFF, 0xFF, 0xFF, 0x7F, 0, 0, 0]
    s.jobForm ∧ fieldAt p 2 2 ≤ 255 ∧ (∃ k ≤ 12, fieldAt p 4 4 = 2 ^ (k + 4)) ∧ fieldAt p 8 8 % 64 = 0 ∧
      fieldAt p 8 8 < 2 ^ 39 ∧ s.boot.ready = true ∧ (ctxPart s 4).isSome = true ∧
      ctxPart (mapper 0 0 false) 4 = none ∧ (s.ctx 4).granted = false ∧ (s.ctx 3).granted = true := by
  unfold State.jobForm
  exact ⟨by decide, by decide, ⟨12, by decide, by decide⟩, by decide, by decide, by decide, by decide, by decide,
    by decide, by decide⟩
theorem witness_CommandEffects_apply :
    let s := { signing with nv := { signing.nv with st := #v[{}, testImage] } }
    s.boot.ready = true ∧ fieldAt [1] 0 1 ≤ 1 ∧ s.nv.st.toList.getD (fieldAt [1] 0 1) {} = testImage ∧
      imageCheck busy true false {} = (2, none) := by decide +kernel
theorem witness_CommandEffects_debug : certCode [] busy = 1 ∧ fieldAt [0, 0, 0, 0, 63] 4 1 ≤ 63 ∧
    (fieldAt [1, 0, 0, 0, 8] 0 1 = 1 ∧ fieldAt [1, 0, 0, 0, 8] 4 4 ≤ 8) ∧
    (fieldAt [2, 0, 0, 0, 63] 0 1 = 2 ∧ fieldAt [2, 0, 0, 0, 63] 4 4 < 64) ∧
    (fieldAt [3, 0, 0, 0, 0, 2] 0 1 = 3 ∧ 512 ≤ fieldAt [3, 0, 0, 0, 0, 2] 4 4) ∧ fieldAt [0] 0 1 = 0 := by decide
theorem witness_CommandEffects_health :
    let s : State := { claimed true with nv := { (claimed true).nv with
      health := [{ seq := 0, time := 0, boot := 1, code := 6, wher := 15, data := [] }] } }
    (∀ h ∈ healthFrom s.nv 0 63, s.nv.bad (.health (h.seq % 32768)) = false) ∧
      (healthFrom s.nv 0 63).length = 1 ∧ s.nv.flaws = [] ∧ ∀ j ∈ s.jobs, j.waiting = false := by decide
/-- A power policy in range (Table 14.6). -/
def policy32 : List Byte :=
  leBytes 2 300 ++ leBytes 2 1000 ++ [70, 105, 1, 2, 1, 0] ++ List.replicate 22 0

/-- The payload of GRANT_CONTEXT for context 4: vector 255, a ring of 65,536 at the last sector below 2^39. -/
def grant16 : List Byte := [4, 0, 255, 0, 0, 0, 1, 0, 0xC0, 0xFF, 0xFF, 0xFF, 0x7F, 0, 0, 0]

/-- A command frame with SEQ 7 and the tag of the session of `claimed`. -/
def signed (op flags : Byte) (pay : List Byte) : Frame :=
  let f := framed flags 7 pay noTag
  { f with body := pay ++ (hmac512 key64 (signedFrame op f)).take 16 }

theorem length_framed {pay : List Byte} (flags : Byte) (tag : List Byte) (h : pay.length ≤ 4096) :
    (framed flags 7 pay tag).length.toNat = pay.length := by
  show (BitVec.ofNat 16 pay.length).toNat = pay.length
  rw [BitVec.toNat_ofNat]
  omega
theorem payload_framed {pay : List Byte} (flags : Byte) (tag : List Byte) (h : pay.length ≤ 4096) :
    payloadOf (framed flags 7 pay tag) = pay := by
  unfold payloadOf
  rw [length_framed flags tag h]
  exact List.take_left' rfl
theorem payload_signed {pay : List Byte} (op flags : Byte) (h : pay.length ≤ 4096) :
    payloadOf (signed op flags pay) = pay :=
  payload_framed flags ((hmac512 key64 (signedFrame op (framed flags 7 pay noTag))).take 16) h

/-- A frame tagged so is taken where the conditions on its bytes and on the role hold. -/
theorem taken_signed {r : CmdRow} {l : List Nat} {flags : Byte} {pay : List Byte} {s : State} {x : Session}
    (hr : r.slots = some l) (hx : s.session = some x) (hk : x.key = key64) (hq : x.seq = 7)
    (ha : targetAddr s = 0x48) (hn : nacks s = false) (hp : pay.length ≤ 4096)
    (hc : (r.len flags pay && roleCode s l == 0 && flags &&& ~~~r.flags == 0 &&
      r.zero.all fun z => zeros pay z.1 z.2) = true) : Taken r (signed r.op flags pay) s := by
  have hl := length_framed flags noTag hp
  obtain ⟨n1, n2, n3⟩ := nacks_eq_false.mp hn
  refine ⟨ha.symm, n1, n2, n3, ?_⟩
  simp only [Bool.and_eq_true, beq_iff_eq, List.all_eq_true] at hc
  obtain ⟨⟨⟨c1, c2⟩, c3⟩, c4⟩ := hc
  have hpay : payloadOf (signed r.op flags pay) = pay := payload_signed r.op flags hp
  have hcount : countOkFrame (signed r.op flags pay) = true := by
    have hb : (signed r.op flags pay).body.length = pay.length + 16 := by
      show (pay ++ (hmac512 _ _).take 16).length = _
      rw [List.length_append, List.length_take, hmac512_length]
      rfl
    unfold countOkFrame
    rw [show (signed r.op flags pay).length.toNat = pay.length from hl, hb]
    simpa using hp
  have htag : tagOk r (signed r.op flags pay) s = true := by
    refine tagOk_signed (p := pay) hr hx hl ?_
    have hs : signedFrame r.op (signed r.op flags pay) = signedFrame r.op (framed flags 7 pay noTag) := by
      unfold signedFrame
      rw [hpay, payload_framed flags noTag hp]
      rfl
    rw [hs, hk]
    rfl
  have hseq : seqOk r (signed r.op flags pay) s = true := by
    unfold seqOk
    rw [hx, hr]
    show ((7 : BitVec 32) == x.seq) = true
    rw [hq]
    rfl
  have hz : ¬ (flags &&& ~~~r.flags ≠ 0 ∨ (r.zero.any fun z => !zeros pay z.1 z.2) = true) := by
    rintro (h | h)
    · exact h c3
    · obtain ⟨z, hm, hz⟩ := List.any_eq_true.mp h
      rw [c4 z hm] at hz
      exact absurd hz (by decide)
  unfold frameStatus
  rw [hr, hpay, hcount, htag, hseq]
  dsimp only
  rw [c2, show (signed r.op flags pay).flags = flags from rfl, c1, if_neg (by decide), if_neg (by decide),
    if_neg (by decide), if_neg (by decide), if_neg hz]

/-- Every tagged command of Table 11.6 with a payload, in a session of the owner. -/
def taggedFrames : List (CmdRow × Byte × List Byte) :=
  [({ op := 0x03, slots := some [0, 1, 2, 3], len := len 0 }, 0, []),
    ({ op := 0x05, slots := some [0], len := keyLen, zero := [(1, 3)] }, 0, [1, 0, 0, 0, 0, 0, 0, 0]),
    ({ op := 0x11, slots := some [0, 2], len := len 8 }, 0, leBytes 8 0),
    ({ op := 0x20, slots := some [0], len := loadLen, flags := 1, zero := [(1, 3)] }, 1, [0, 0, 0, 0, 0, 0, 0, 0, 9]),
    ({ op := 0x21, slots := some [0], len := len 1 }, 0, [1]),
    ({ op := 0x22, slots := some [0], len := loadLen, flags := 1, zero := [(1, 3)] }, 1, [1, 0, 0, 0, 0, 0, 0, 0, 9]),
    ({ op := 0x30, slots := some [0], len := policyLen, zero := [(1, 3)] }, 0, [0, 0, 0, 0, 8] ++ List.replicate 11 0),
    ({ op := 0x30, slots := some [0, 1], len := policyLen, zero := [(1, 3)] }, 0, [1, 0, 0, 0, 32, 0, 0, 0] ++ policy32),
    ({ op := 0x31, slots := some [0, 1, 2, 3], len := len 1 }, 0, [1]),
    ({ op := 0x32, slots := some [0, 1], len := len 8, zero := [(1, 3)] }, 0, [1, 0, 0, 0, 99, 0, 0, 0]),
    ({ op := 0x40, slots := some [0, 1, 2, 3], len := len 12, flags := 1, zero := [(5, 3)] }, 1,
      [0, 0, 0, 0, 63] ++ List.replicate 7 0),
    ({ op := 0x50, slots := some [0, 1], len := len 16, zero := [(1, 1)] }, 0, grant16),
    ({ op := 0x51, slots := some [0, 1], len := len 1 }, 0, [4]),
    ({ op := 0x60, slots := some [0, 3], len := fun _ _ => true }, 0, []),
    ({ op := 0x61, slots := some [0, 1], len := len 8, zero := [(1, 3)] }, 0, [0, 0, 0, 0, 0, 0, 0, 0]),
    ({ op := 0x61, slots := some [0, 1], len := len 8, zero := [(1, 3)] }, 0, [1, 0, 0, 0, 8, 0, 0, 0]),
    ({ op := 0x61, slots := some [0, 1], len := len 8, zero := [(1, 3)] }, 0, [2, 0, 0, 0, 63, 0, 0, 0]),
    ({ op := 0x61, slots := some [0, 1], len := len 8, zero := [(1, 3)] }, 0, [3, 0, 0, 0, 0xFF, 1, 0, 0]),
    ({ op := 0x62, slots := some [0, 1], len := len 2 }, 0, [0, 7])]

theorem witness_CommandEffects_tagged :
    ∀ q ∈ taggedFrames, Taken q.1 (signed q.1.op q.2.1 q.2.2) (claimed true) := by
  have h : ∀ q ∈ taggedFrames, (match q.1.slots with
      | some l => decide (q.2.2.length ≤ 4096) && (q.1.len q.2.1 q.2.2 && roleCode (claimed true) l == 0 &&
          q.2.1 &&& ~~~q.1.flags == 0 && q.1.zero.all fun z => zeros q.2.2 z.1 z.2)
      | none => false) = true := by decide +kernel
  intro q hq
  have hc := h q hq
  split at hc
  · rename_i l hl
    rw [Bool.and_eq_true] at hc
    exact taken_signed hl rfl rfl rfl (by decide) (by decide) (of_decide_eq_true hc.1) hc.2
  · exact absurd hc (by decide)
theorem witness_CommandEffects_untagged :
    Taken { op := 0x01, len := len 1 } (framed 0 0 [4] noTag) (claimed false) ∧
    Taken { op := 0x02, len := openLen, flags := 1 } (framed 0 0 [0] noTag) (claimed false) ∧
    Taken { op := 0x02, len := openLen, flags := 1 } (framed 1 0 (openPayload true) noTag) (claimed false) ∧
    zeros (openPayload true) 1 3 = true ∧ (1 : Byte).getLsbD 0 = true ∧ (claimed false).session = none ∧
    Taken { op := 0x04, len := len 512 } (framed 0 0 (List.replicate 512 1) noTag) busy ∧
    Taken { op := 0x10, len := len 9 } (framed 0 0 (List.replicate 8 0 ++ [31]) noTag) (claimed false) ∧
    Taken { op := 0x12, len := len 32 } (framed 0 0 (List.replicate 32 7) noTag) (claimed false) ∧
    Taken { op := 0x41, len := len 0 } (framed 0 0 [] noTag) (claimed false) := by
  unfold Taken; decide +kernel
theorem witness_CommandEffects_ledger :
    let n := (claimed true).nv
    oldestSeq n ≤ fieldAt (List.replicate 8 0 ++ [31]) 0 8 ∧ fieldAt (List.replicate 8 0 ++ [31]) 0 8 ≤ n.nextSeq ∧
      fieldAt (List.replicate 8 0 ++ [31]) 8 1 = 31 ∧ chainBase n = some (0, ledgerRoot) ∧ n.lastArchived ≤ 0 ∧
      (n.st.toList.getD 0 {}).data = [] ∧ (claimed true).boot.fwslotB = false ∧
      (claimed true).boot.recovery = false ∧ (claimed true).boot.ready = true :=
  ⟨by decide, by decide, by decide, rfl, by decide, by decide, by decide, by decide, by decide⟩
theorem witness_CommandEffects_policies :
    let s := claimed true
    BitVec.ofNat 64 (leNat (([0, 0, 0, 0, 8, 0, 0, 0] ++ List.replicate 8 0 : List Byte).drop 8)) &&& ~~~7 = 0 ∧
      s.nv.ownerPolicy.getLsbD 1 = false ∧ policyOk policy32 = true ∧ sessionSlot s ≠ 1 ∧
      fieldAt [1, 0, 0, 0, 99, 0, 0, 0] 0 1 = (1 : Fin 4).val ∧
      fieldAt ([0, 0, 0, 0, 63] ++ List.replicate 7 0) 4 1 ≤ 63 := by decide
theorem witness_CommandEffects_contexts :
    let s := claimed true
    (ctxPart s 4).isSome = true ∧ fieldAt grant16 0 1 = 4 ∧ fieldAt grant16 4 4 = 2 ^ (12 + 4) ∧
      fieldAt grant16 2 2 ≤ 255 ∧ fieldAt grant16 8 8 % 64 = 0 ∧ fieldAt grant16 8 8 < 2 ^ 39 ∧
      (s.ctx 4).granted = false ∧ engOf s 511 = some (63 * 9 + 7) ∧ s.board.spare ≠ 2 ∧
      spareFree (s.sqr 0) = true ∧ (s.sqr 0).st ≠ .failed ∧ (lostLogical (s.sqr 0) 7).isSome = true := by decide
theorem witness_I3cTargetCodes : State.reset.boot.powered = false ∧ busy.boot.powered = true ∧ busy.i3c.da = none ∧
    ({ busy with i3c := { busy.i3c with da := some 9 } } : State).i3c.da ≠ none ∧ (4119 : BitVec 16).toNat < 4120 ∧
    4120 ≤ (4120 : BitVec 16).toNat ∧ (1 : Byte).getLsbD 0 = true := by decide

/-! ### The host and Frarix -/

/-- The part with a CXL link up and its window at 0x1000. -/
def hosted : State := { busy with cxl := { busy.cxl with up := true, cxl := true, hdm := ⟨0x1000, 0x7000000000, true, true⟩ } }

/-- A read request of engine 0 that waits. -/
def waiting (host : Bool) : Req :=
  { tag := 5, who := .engine 0, write := false, host := host, va := 0x80000, acc := 2 }

theorem witness_HostPortResults : hosted.boot.ready = true ∧ hosted.boot.recovery = false ∧ hosted.cxl.up = true ∧
    hosted.cxl.cxl = true ∧ hosted.cxl.perst = false ∧ hosted.cxl.hdm.on = true ∧ hosted.cxl.hdm.committed = true ∧
    hosted.cxl.hdm.base = 0x1000 ∧ (0x7000000FFF : Word).toNat < 0x1000 + hosted.cxl.hdm.size.toNat ∧
    ¬ (0x7000001000 : Word).toNat < 0x1000 + hosted.cxl.hdm.size.toNat ∧
    (0x1000 : Word).toNat ≤ (0x6000000FFF : Word).toNat ∧
    (0x6000000FFF - 0x1000) / 64 * 64 < hbmBytes ∧ hbmBytes ≤ (0x6000001000 - 0x1000) / 64 * 64 ∧
    cleanHbm hosted 64 ∧ 1 ∈ ({ hosted with poison := [1] } : State).poison ∧ hostOpen hosted = true ∧
    barOpen hosted = true ∧ stewardRuns hosted = true := by unfold cleanHbm; decide
theorem witness_HostPortResults_completion : reqOf true 5 { hosted with reqs := [waiting true] } = some (waiting true) ∧
    (waiting true).acc ≠ 5 ∧ reqOf true 5 hosted = none ∧ busy.cxl.up = false ∧ busy.cxl.perst = false ∧
    heldReset busy = false ∧
    ({ hosted with cxl := { hosted.cxl with msixPend := 1 } } : State).cxl.msixPend.getLsbD 0 = true := by decide

theorem witness_HostPortResults_pages : (hosted.ctx 3).granted = false ∧ barOpen hosted = true ∧
    (0x3FFF : Word).toNat / 0x1000 = (3 : Byte).toNat ∧ (waiting true).acc ≠ 6 ∧ busy.cxl.up = false ∧
    unreachable ({ hosted with hub := { hosted.hub with unreachable := 1 } } : State).hub 0 = true := by decide

/-- The part under a structure with an inbound tunnel from node 5 to queue 0 of engine 0, a chain of that
    engine, and link 0 up. -/
def tunnelled (c : Chain) : State :=
  let up : FrxLink := { st := 2, peer := 5, peerv := true }
  let tun : Tunnel := { num := 1, part := 0, inbound := true, node := 5, rtun := 3, cls := 0, dest := 0, lctx := 3 }
  { busy with
      board := { busy.board with opening := false, tunnels := [tun], chids := [(0, 0)] }
      chains := [(0, c)]
      frx := { busy.frx with links := busy.frx.links.set 0 up } }

/-- A flit with a CRC. -/
def flit (crc : BitVec 64) : Flit :=
  { seq := 0, ackseq := 0, ftype := 0, creditClass := 0, creditLane := false, creditCount := 0, data := 0, crc := crc }

/-- A request of node 5 for the last sector of frame 7. -/
def request (typ code : Byte) (mask : List Byte) (more : List Byte) : FrxPacket :=
  { packetOf typ code 0x30000 ([0xC0, 0xFF] ++ List.replicate 6 0 ++ mask ++ more) with addrH := 0x1F }

theorem witness_FrarixResults_flits : (frxLink (tunnelled {}) (0 : Fin 8)).st = 2 ∧
    (frxLink (tunnelled {}) (1 : Fin 8)).st ≠ 2 ∧
    (flit (Config.flitCrc (flitBits (flit 0)))).crc =
      Config.flitCrc (flitBits (flit (Config.flitCrc (flitBits (flit 0))))) ∧
    busy.boot.powered = true ∧ heldReset busy = false := ⟨by decide, by decide, rfl, by decide, by decide⟩
theorem witness_FrarixResults_bad_flit :
    (flit (Config.flitCrc (flitBits (flit 0)) + 1)).crc ≠
      Config.flitCrc (flitBits (flit (Config.flitCrc (flitBits (flit 0)) + 1))) := by
  show Config.flitCrc (flitBits (flit 0)) + 1 ≠ Config.flitCrc (flitBits (flit 0))
  generalize Config.flitCrc (flitBits (flit 0)) = x
  bv_omega
/-- A link whose replay buffer holds the flits of these sequence numbers. -/
def replaying (l : List (BitVec 12)) (fails : Nat) : FrxLink :=
  { st := 2, fails := fails, replay := l.map fun n => { flit 0 with seq := n } }

theorem witness_FrarixResults_replay :
    (replaying [4, 5, 6] 0).replay = [{ flit 0 with seq := 4 }] ++ { flit 0 with seq := 5 } :: [{ flit 0 with seq := 6 }] ∧
    (∀ k ∈ [({ flit 0 with seq := 4 } : Flit)], k.seq ≠ 5) ∧ (∀ h ∈ (replaying [4, 5, 6] 0).replay, h.seq ≠ 7) ∧
    (replaying [] 7).fails < 8 ∧ 8 ≤ (replaying [] 8).fails ∧ busy.frx.notices = [] ∧
    (∀ k : Fin 8, (frxLink (tunnelled {}) k).back = []) ∧ (frxLink (tunnelled {}) 0).flight = [] ∧
    (frxLink (tunnelled {}) 0).waiting = [] :=
  ⟨rfl, fun k h => by rw [List.mem_singleton.mp h]; decide, by decide, by decide, by decide, by decide, fun k => by
    revert k; decide, by decide, by decide⟩
theorem witness_FrarixResults_served :
    ∀ p ∈ [request 1 0 (List.replicate 8 0xFF) [], request 2 0 (List.replicate 8 0xFF) (List.replicate 64 1),
      request 3 2 [0, 0, 0, 0, 0, 0, 0, 0xFF] (List.replicate 8 1),
      request 4 0 [0, 0, 0, 0, 0, 0, 0xFF, 0xFF] ([0x1C] ++ List.replicate 15 0)],
      ServedAt (tunnelled {}) p (7 * 2 ^ 18 + 0x3FFC0) := by
  unfold ServedAt cleanHbm; decide
theorem witness_FrarixResults_denied : remoteMay busy 5 (reqAddr (request 1 0 [] []) / 2 ^ 18) = false ∧
    remoteMay (tunnelled {}) 6 7 = false ∧ (request 1 0 [] []).dst = busy.frx.node := by decide
theorem witness_FrarixResults_answers :
    reqOf false 5 { tunnelled {} with reqs := [waiting false] } = some (waiting false) ∧
    reqOf false 5 busy = none ∧ (waiting false).acc ≠ 5 := by decide
theorem witness_FrarixResults_tunnels :
    let s := tunnelled {}
    let p := packetOf 7 0 0x30000 []
    let f (t : Tunnel) : Bool := t.node == p.src && t.rtun == p.tag.extractLsb' 16 6
    (s.board.tunnels.find? fun t => t.inbound && f t).isSome = true ∧
      (busy.board.tunnels.find? f).isNone = true ∧ SMap.get [] s.frx.inWait 1 = [] ∧
      (s.board.tunnels.find? f).bind (tunnelChain s) = some 0 ∧ (chainSt s 0).frozen = false ∧
      (∃ u ∈ chainTunnels s 0, True) ∧ (chainSt (tunnelled { frozen := true }) 0).frozen = true ∧
      chainStopped (tunnelled { frozen := true }) 0 = true := by decide

/-! ### Debug -/

/-- The part in FULL debug with a port selected on position 0 of square 0. -/
def debugging (port : BitVec 4) (halted : Bool) (flights : SMap IkFlight) : State :=
  { busyEng (fun x => { x with dbg := { x.dbg with halted := halted } }) with
    ik := { busy.ik with synced := true, level := 2, port := port, flights := flights, duration := 1 } }

/-- A frame of a kind and register with its check. -/
def ikf (kind : BitVec 2) (reg : BitVec 4) (d : BitVec 32) : IkFrame :=
  { tog := false, data := d, chk := crc4 (ikHeader kind reg false) d }

theorem witness_DebugFrames_frames : NewFrame (debugging 9 false []) 0 0 (ikf 0 0 0) ∧
    NewFrame (debugging 9 false []) 1 3 (ikf 1 3 0x0700000A) ∧ NewFrame (debugging 9 false []) 1 2 (ikf 1 2 4) ∧
    (NewFrame (debugging 9 false []) 1 1 (ikf 1 1 4) ∧ (4 : BitVec 32).getLsbD 1 = false ∧
      (4 : BitVec 32).getLsbD 2 = true) ∧
    NewFrame (debugging 9 false []) 1 1 (ikf 1 1 2) ∧ readAgain true 0x69 (debugging 9 false []) = none ∧
    readAgain false 0x49 (debugging 9 false []) = none := by unfold NewFrame; decide +kernel
theorem witness_DebugFrames_errors :
    let s := debugging 9 false []
    let t (f : Ik → Ik) : State := { s with ik := f s.ik }
    State.reset.boot.powered = false ∧ (t fun k => { k with err := true }).ik.err = true ∧
      (ikf 1 3 0).tog ≠ (t fun k => { k with tog := true }).ik.tog ∧
      (t fun k => { k with last := some (ikHeader 1 3 false, 0) }).ik.last = some (ikHeader 1 3 false, 0) ∧
      (ikf 1 3 0).chk ≠ crc4 (ikHeader 1 4 false) 1 ∧ 4 < (5 : BitVec 4).toNat ∧
      levelAllows (t fun k => { k with level := 0 }) 0 true = false ∧ levelAllows s 0 true = true ∧
      selected (t fun k => { k with port := 12 }) = .absent ∧ selected (debugging 11 false []) ≠ .absent ∧
      portRegs (selected (debugging 11 false [])) ≤ (6 : BitVec 4).toNat := by decide +kernel
theorem witness_DebugFrames_duration :
    let s (t : Word) : State := { debugging 9 false [] with mg := { busy.mg with timebase := t } }
    (s 0).ik.level ≠ 0 ∧ (s 0).ik.duration ≠ 0 ∧
      (s 999999999).mg.timebase.toNat < (s 0).ik.unlocked.toNat + (s 0).ik.duration.toNat * 1000000000 ∧
      (s 0).ik.unlocked.toNat + (s 0).ik.duration.toNat * 1000000000 ≤ (s 1000000000).mg.timebase.toNat := by decide
theorem witness_DebugFrames_abort :
    let s := debugging 9 true [(9, { header := ikHeader 2 4 false, data := 0 })]
    (∀ p ∈ s.ik.flights, p.2.header.getLsbD 5 = false ∧ p.2.fed = []) ∧ ∃ p ∈ s.ik.flights, p.2.done = false := by decide
theorem witness_DebugAccess_core : DebugsEngine (debugging 9 false []) 0 ∧
    NewFrame (debugging 9 false []) 3 0 (ikf 3 0 0x0F01) ∧ (0x0F01 : BitVec 32).getLsbD 0 = true ∧
    ((debugging 9 false []).eng 0).dbg.halted = false ∧ ((debugging 9 true []).eng 0).dbg.halted = true ∧
    NewFrame (debugging 9 true []) 3 0 (ikf 3 0 2) ∧ NewFrame (debugging 9 true []) 3 0 (ikf 3 0 4) ∧
    twinOf (debugging 9 true []) 0 = none ∧ ((debugging 9 true []).eng 0).dbg.bites = 0 ∧
    ((debugging 9 true []).eng 0).run = .running ∧
    mayHalt ((busyEng fun x => { x with dbg := { x.dbg with haltReq := true } }).eng 0) = true ∧
    ((busyEng fun x => { x with dbg := { x.dbg with haltReq := true } }).eng 0).wfi = false := by
  unfold DebugsEngine NewFrame; decide +kernel
theorem witness_DebugAccess_steward :
    let s (halted step : Bool) : State := { debugging 0 false [] with
      ik := { (debugging 0 false []).ik with steward := { halted := halted, step := step } } }
    NewFrame (s true false) 3 0 (ikf 3 0 4) ∧ (s true false).ik.port = 0 ∧ (s true false).ik.steward.bites = 0 ∧
      (4 : BitVec 32).getLsbD 2 = true ∧ (s false true).ik.steward.step = true ∧
      (s false true).ik.steward.halted = false := by unfold NewFrame; decide +kernel
theorem witness_DebugAccess_feeds :
    let s := debugging 9 true []
    let fl : IkFlight := { header := ikHeader 3 4 false, data := 7 }
    let t := { s with ik := { s.ik with flights := [(selectedKey s, fl)] } }
    NewFrame s 3 2 (ikf 3 2 7) ∧ levelAllows s 2 true = true ∧ feeds (selected s) 2 = true ∧
      wrongState s (selected s) = false ∧ s.ik.flights = [] ∧ NewFrame t 3 2 (ikf 3 2 7) ∧ fl.done = false ∧
      selectedKey t = selectedKey s ∧ feeds (selected t) 2 = true ∧ wrongState t (selected t) = false ∧
      (let u := { s with ik := { s.ik with flights := [(selectedKey s, feedFlight (addInst 0 1 2 3).word)] } }
       u.ik.flights = [(selectedKey u, feedFlight (addInst 0 1 2 3).word)] ∧ (u.eng 0).vec.gpend = []) ∧
      ({ fl with done := true }.header ≠ ikHeader 3 7 false) := by unfold NewFrame; decide +kernel
theorem witness_DebugAccess_starts :
    let s := debugging 9 true []
    NewFrame s 2 4 (ikf 2 4 0) ∧ levelAllows s 4 false = true ∧ 4 < portRegs (selected s) ∧
      startsAccess (selected s) 4 false = true ∧ wrongState s (selected s) = false ∧
      wrongState (debugging 9 false []) (selected (debugging 9 false [])) = true ∧
      startsAccess (selected (debugging 11 true [])) 5 false = true := by unfold NewFrame; decide +kernel

/-- A core port on the halted engine with an access in flight. -/
def inFlight (port : BitVec 4) (wr : Bool) (reg : BitVec 4) (d : BitVec 32) : State :=
  let s := debugging port true []
  { s with ik := { s.ik with
      flights := [(selectedKey s, { header := ikHeader (if wr then 3 else 2) reg false, data := d, args := flightArgs s (selected s) })] } }

theorem witness_DebugAccess_flights : InFlight (inFlight 9 false 4 0) false 4 0 ∧
    InFlight (inFlight 9 true 4 7) true 4 7 ∧ InFlight (inFlight 9 false 7 0) false 7 0 ∧
    InFlight (inFlight 10 true 3 0) true 3 0 ∧ InFlight (inFlight 11 false 3 0) false 3 0 ∧
    InFlight (inFlight 11 false 5 0) false 5 0 :=
  ⟨⟨false, rfl⟩, ⟨false, rfl⟩, ⟨false, rfl⟩, ⟨false, rfl⟩, ⟨false, rfl⟩, ⟨false, rfl⟩⟩
theorem witness_DebugAccess_places :
    let s := inFlight 9 false 7 0
    let t := s.modEng 0 fun x => { x with dbg := { x.dbg with caddr := 0xFFFF0003FFFC } }
    DebugsEngine t 0 ∧ (t.eng 0).dbg.halted = true ∧ (t.eng 0).dbg.caddr.toNat % 4 = 0 ∧
      0xFFFF00000000 ≤ (t.eng 0).dbg.caddr.toNat ∧ (t.eng 0).dbg.caddr.toNat + 4 ≤ 0xFFFF00040000 ∧
      cleanTile t (0 * 2 ^ 18 + (0xFFFF0003FFFC - 0xFFFF00000000)) 4 ∧ feedRefused 0x80000000 = true ∧
      (t.eng 0).vec.gpend = [] ∧ ((32 : BitVec 9).extractLsb' 0 6).toNat = 32 ∧ (7 : BitVec 32).toNat % 4 ≠ 0 ∧
      (let u := { inFlight 10 true 3 0 with ik := { (inFlight 10 true 3 0).ik with mspace := 1 } }
       u.ik.mspace = 1 ∧ u.ik.level = 2 ∧ u.boot.conversion = true ∧ u.ik.maddr.toNat < hbmBytes ∧
         cleanHbm u 0 ∧ hbmBytes ≤ (0x6000000000 : BitVec 48).toNat) ∧
      enginePowered t 0 0 = true := by unfold DebugsEngine cleanTile cleanHbm; decide +kernel

/-! ### Boundary cases of the clauses -/

theorem witness_OrderingInstructionResults_waits :
    let s := busyEng fun x => { inRing0 x with vsu := { x.vsu with st := .waking } }
    let t := { busyEng inRing0 with
      reqs := [{ tag := 5, who := .engine 0, write := true, host := true, va := 0x80000, acc := 3 }] }
    ready 0 (syncCInst 0) s = true ∧ vsuBusy (found 0 s) = false ∧
      (applyAllSync (found 0 s)).vsu.inWake = true ∧
      (applyAllSync (found 0 (busyEng inRing0))).vsu.inWake = false ∧
      ready 0 (syncIInst 0) t = true ∧ storesOut (fetched 0 t) 0 = true ∧
      storesOut (fetched 0 (busyEng inRing0)) 0 = false ∧
      (found 0 t).trap.ipend &&& (found 0 t).trap.ien = 0 ∧ (found 0 t).dbg.haltReq = false := by decide
theorem witness_DecodeTraps_opcodes : opcodeOf 0x00FFFFFF = 0x00 ∧ opcodeOf 0xFC000000 = 0x3F ∧
    ((busy.eng 0).vsu.stall && (busy.eng 0).vsu.inWake) = false := by decide
theorem witness_ExceptionEntryEffects_calm : (interrupted.eng 0).dbg.halted = false ∧
    (interrupted.eng 0).dbg.haltReq = false ∧ (interrupted.eng 0).wfi = false ∧
    (interrupted.eng 0).wd.ready = false ∧ (interrupted.eng 0).vec.held = none := by decide

/-- The group of a vector add at an element, on a square that is quiescing. -/
def stopping (i : Nat) : State :=
  (atElement (vaddWord false) i vectors).modSq 0 fun q => { q with st := .quiescing }

theorem witness_VsuAdvancesStrips_stops : vsuReady ((stopping 0).eng 0) = true ∧ stopCause (stopping 0) 0 = true ∧
    canStop ((stopping 0).eng 0) = true ∧ canStop ((stopping 1).eng 0) = false ∧
    canStop ((stopping 3).eng 0) = true := by decide
theorem witness_VsuAndStripEvents_contexts : sameCtx ((wired 3 1).eng 0) ((wired 3 1).eng 1) = true ∧
    1 ∈ wireDests (wired 4 1) 0 1 ∧ sameCtx ((wired 4 1).eng 0) ((wired 4 1).eng 1) = false := by decide

/-- Engine 1 waits at its empty queue 0, to which engine 0 has `n` strips on the wire. -/
def staleWired (n : Nat) : State :=
  let s0 := (wired 3 n).modEng 0 fun x => { x with outs := #v[{ wire := List.replicate n strip8 }, {}, {}, {}] }
  let s := s0.modEng 1 fun x => { x with vec := { x.vec with vl := 3, sd := Vector.replicate 64 4 } }
  s.modEng 1 fun x => { x with vec := { x.vec with q := [
    let ms := match vopOfWord (vaddWord false) with
      | some op => [captureMember (s.eng 1) (vaddWord false) 0x40000 op]
      | none => []
    let g : VGroup :=
      { members := ms, vl := 3, gs := 0, fctl := 0, dctl := 0, mode := 2, ring := 3, start := 0, prog := 0 }
    { g with strip := stripLen (groupOps g) }] } }

theorem witness_VsuAndStripEvents_leaving : stripComing (wired 3 0) 0 = true ∧
    chainStopped (wired 3 0) 0 = false ∧ 0 ∈ membersOf (wired 3 0) 0 := by decide
theorem witness_VsuAndStripEvents_coming :
    ((membersOf (staleWired 1) 0).filter (groupStalled (staleWired 1))).head? = some 1 ∧
      1 ∈ membersOf (staleWired 1) 0 ∧ stripComing (staleWired 1) 1 = true ∧
      (∀ m ∈ membersOf (staleWired 0) 0, stripComing (staleWired 0) m = false) ∧
      (∀ m ∈ membersOf (stale false) 0, stripComing (stale false) m = false) := by decide
theorem witness_TenderTransfers_runs :
    let s := tender true 0xFFFF20000000 8
    let parted (c : Byte) := { s with
      board := { s.board with opening := false, parts := [⟨0, 1, 0, 16, 0, 16, BitVec.ofNat 256 (2 ^ c.toNat)⟩] } }
    tenderRuns (s.sqr 0) = true ∧ tenderRuns ((s.modSq 0 fun q => { q with waking := true }).sqr 0) = false ∧
      tenderRuns ((s.modSq 0 fun q => { q with st := .parked }).sqr 0) = false ∧
      (match sqPart (parted 3) 0 with | some p => p.hasCtx (tnd (parted 3) 0 0).ctx | none => false) = true ∧
      (match sqPart (parted 4) 0 with | some p => !p.hasCtx (tnd (parted 4) 0 0).ctx | none => false) = true := by
  decide
theorem witness_MapCommandResults_steward :
    let m : MapCopy := { idx := 7, data := 0x040001 }
    let s := { busy with hub := { busy.hub with copies := [(513, m)], live := [(7, 0x000000040001)] } }
    stewardRuns s = true ∧ (s.mapCopy 513).busy = false ∧ noErrors s ∧
      noErrors (mapper 15 0 false) := by unfold noErrors; decide

/-- A write of engine 0 that is on its way under an entry shot down, or one of the old epoch. -/
def onWay (shot old : Bool) : State :=
  { busy with reqs := [{ tag := 5, who := .engine 0, write := true, host := true, va := 0x80000, acc := 3,
                         shot := shot, old := old }] }

theorem witness_MapEventResults_on_way : (∃ r ∈ (onWay true false).reqs, r.shot = true) ∧
    (∀ r ∈ (onWay false true).reqs, r.shot = false) ∧ (∀ q ∈ (onWay false true).hub.copies, q.2.busy = false) ∧
    (∃ r ∈ (onWay false true).reqs, r.old = true) ∧ (∀ r ∈ (onWay true false).reqs, r.old = false) ∧
    oldRefs (onWay true false) = 0 ∧ portCopy busy (.engine 0) = some 0 ∧ portCopy busy .steward = some 513 := by
  decide
theorem witness_MapEventResults_errors :
    let s := { busy with flaws := { hbm := [(5, .bytes 0 1)] } }
    s.boot.recovery = false ∧ stewardRuns s = true ∧ s.flaws ≠ {} ∧ noErrors busy := by
  unfold noErrors; decide
theorem witness_JobPathResults_not_free :
    squareFree ((ringed [jobAt 1 .queued 0] id).modSq 0 fun q => { q with reservedBy := 1 }) 0 = false := by decide
theorem witness_SquareAndStructureResults_due :
    (availEngs (stopping 1) 0).any (fun k => quiesceDue ((stopping 1).eng k)) = true ∧
      (availEngs (stopping 3) 0).any (fun k => quiesceDue ((stopping 3).eng k)) = false ∧
      ((stopping 3).sqr 0).st = .quiescing := by decide
theorem witness_SquareAndStructureResults_calm :
    let s := { busy with boot := { busy.boot with next := some { opening := false, digest := 1, parts := [] } } }
    (∀ j ∈ s.jobs, j.waiting = false) ∧ ∃ j ∈ (ringed [jobAt 1 .queued 0] id).jobs, j.waiting = true := by decide
theorem witness_ResetResults_due :
    let s := { busy with boot := { busy.boot with resetDue := true } }
    s.boot.powered = true ∧ s.boot.resetDue = true ∧ busy.boot.resetDue = false ∧ heldReset s = false := by decide
theorem witness_CommandFrames_read :
    let s := { busy with cmd := { response := some [1] } }
    let t := { s with boot := { s.boot with resetDue := true } }
    targetAddr s = 0x48 ∧ (0x49 : BitVec 7) ≠ targetAddr s ∧ s.cmd.response = some [1] ∧ stewardRuns s = true ∧
      s.boot.resetDue = false ∧ stewardRuns t = true ∧ t.boot.resetDue = true ∧ busy.cmd.response = none ∧
      stewardRuns { s with mg := { s.mg with running := false } } = false := by decide
theorem witness_I3cTargetCodes_address : (0x49 : BitVec 7).toNat ≠ 0x48 + busy.pins.addrSel.toNat ∧
    staticAddr busy = 0x48 ∧ busy.i3c.da = none := by decide
theorem witness_HostPortResults_recovery :
    let s := { busy with boot := { busy.boot with recovery := true } }
    s.cxl.up = false ∧ s.cxl.perst = false ∧ s.boot.powered = true ∧ heldReset s = false ∧
      s.boot.recovery = true ∧ busy.boot.recovery = false := by decide
theorem witness_FrarixResults_strips :
    let s := tunnelled {}
    let x : Tunnel := { num := 1, part := 0, inbound := true, node := 5, rtun := 3, cls := 0, dest := 0, lctx := 3 }
    s.board.tunnels.head? = some x ∧ inboundEnd x = (0, 0) ∧ wireDests s 512 0 = [0] ∧ chainAborted s 0 = false ∧
      tunnelCtx (s.eng 0) x = true ∧ cqFrozen (s.eng 0) = false ∧ queueRoom (s.eng 0) 0 0 = true ∧
      chainAborted (tunnelled { aborted := [0] }) 0 = true ∧ wireDests (s.modSq 1 fun q => { q with map := 0xFFFFFFFF }) 512 9 = [] := by decide

/-- A frame of a read or a write on the core port of the halted engine, with one access in flight or none. -/
theorem witness_DebugAccess_frames :
    let s := debugging 9 true []
    let m := debugging 10 true []
    let p := debugging 11 true []
    (∀ q ∈ [(s, (3 : BitVec 2), (4 : BitVec 4)), (s, 3, 7), (m, 3, 3)],
      NewFrame q.1 q.2.1 q.2.2 (ikf q.2.1 q.2.2 7) ∧ levelAllows q.1 q.2.2.toNat true = true ∧
        startsAccess (selected q.1) q.2.2.toNat true = true ∧ wrongState q.1 (selected q.1) = false ∧
        q.1.ik.flights = []) ∧
    ∀ q ∈ [(s, (2 : BitVec 2), (4 : BitVec 4)), (s, 2, 7), (m, 2, 3), (p, 2, 3), (p, 2, 5)],
      let fl : IkFlight := { header := ikHeader q.2.1 q.2.2 false, data := 0, done := true, result := 9 }
      let t : State := { q.1 with ik := { q.1.ik with flights := [(selectedKey q.1, fl)] } }
      NewFrame t q.2.1 q.2.2 (ikf q.2.1 q.2.2 7) ∧ selectedKey t = selectedKey q.1 ∧
        fl.header = ikHeader q.2.1 q.2.2 (ikf q.2.1 q.2.2 7).tog := by unfold NewFrame; decide +kernel

/-! ### The package -/

/-- The worked example of five balls (file 17). -/
theorem test_ball_examples : ballAt 1 1 = .vin ∧ ballAt 7 4 = .gnd ∧ ballAt 26 5 = .frx 2 2 false true ∧
    ballAt 52 58 = .frx 7 7 true true ∧ ballAt 64 47 = .cxl 15 false false := by decide
/-- The ball counts of Table 17.4. -/
theorem test_ball_groups : allBalls.count .vin = 320 ∧ allBalls.count .vaux = 8 ∧ allBalls.count .reserved = 64 ∧
    (allBalls.countP fun b => match b with | .frx .. => true | _ => false) = 256 ∧
    (allBalls.countP fun b => match b with | .cxl .. => true | _ => false) = 64 ∧
    allBalls.count .gnd = 3352 := by decide +kernel
/-- A part without a supply drives no pin, and a supplied one holds CLKREQ_N low. -/
theorem witness_BootSequence_pins : supplied State.reset = false ∧
    supplied { busy with boot := { busy.boot with vaux := true } } = true := by decide
theorem witness_RegisterCommands_refresh : stewardRuns busy = true ∧ busy.nv.flaws = [] ∧ busy.mg.nvBlock ≠ 4095 := by
  decide

end Sys2Proof.Machine.Tests
end

/-! ### What an entry in the NV store leaves as it was, and what it makes of the store -/

namespace Sys2Proof.Machine

/-- A quantity of the state that each step of a fold keeps is kept by the fold. -/
theorem foldl_keeps {σ α β : Type} (p : σ → β) {f : σ → α → σ} (h : ∀ s a, p (f s a) = p s) (l : List α) (s : σ) :
    p (l.foldl f s) = p s := by
  induction l generalizing s with
  | nil => rfl
  | cons a l ih => exact (ih _).trans (h s a)

/-- A reflexive and transitive relation that each step of a fold keeps is kept by the fold. -/
theorem foldl_rel {σ α : Type} {R : σ → σ → Prop} (hrefl : ∀ s, R s s) (htrans : ∀ {s t u}, R s t → R t u → R s u)
    {f : σ → α → σ} (h : ∀ s a, R s (f s a)) (l : List α) (s : σ) : R s (l.foldl f s) := by
  induction l generalizing s with
  | nil => exact hrefl s
  | cons a l ih => exact htrans (h s a) (ih _)

/-! #### The state outside the NV store -/

/-- The state but for the NV store, and for what an entry in it raises and draws: alert bits, interrupts and free
    values. -/
def outsideNv (s : State) : State :=
  { s with nv := Nv.factory, nvWas := [], mg := { s.mg with alert := 0 },
           i3c := { s.i3c with ibiPend := [] }, out := [], free := 0 }

section
variable {s t : State} (h : outsideNv t = outsideNv s)
include h

theorem outsideNv_squares : t.squares = s.squares := (congrArg State.squares h :)
theorem outsideNv_hub : t.hub = s.hub := (congrArg State.hub h :)
theorem outsideNv_hbm : t.hbm = s.hbm := (congrArg State.hbm h :)
theorem outsideNv_tile : t.tile = s.tile := (congrArg State.tile h :)
theorem outsideNv_poison : t.poison = s.poison := (congrArg State.poison h :)
theorem outsideNv_flaws : t.flaws = s.flaws := (congrArg State.flaws h :)
theorem outsideNv_boot : t.boot = s.boot := (congrArg State.boot h :)
theorem outsideNv_timebase : t.mg.timebase = s.mg.timebase := (congrArg (fun u : State => u.mg.timebase) h :)

/-- Memory reads as before. -/
theorem sameMemory_of_outsideNv : SameMemory s t := by
  intro a
  rw [outsideNv_hbm h, outsideNv_tile h]
  exact ⟨rfl, rfl⟩

end

/-- A health entry is a word of the NV store and an alert. -/
theorem health_eq_alert (code wher : BitVec 16) (data : List Byte) (s : State) :
    ∃ n, health code wher data s = alert 4 (nvSet n s) := ⟨_, rfl⟩

@[simp] theorem outsideNv_nvSet (n : Nv) (s : State) : outsideNv (nvSet n s) = outsideNv s := rfl

/-- A record of the counters region written stands in both copies, which are without an error. -/
theorem nvRecordFrom_eq {α : Type} (k : Nat) (before put : NvRec α → Nv) (r : NvRec α) (x : α) (s : State) :
    ∃ w, nvRecordFrom k before put r x s = nvSet (((put ⟨some ((s.nv.held k r).writes + 1, x),
      some ((s.nv.held k r).writes + 1, x)⟩).renewed (.counter k false)).renewed (.counter k true)) w ∧
      outsideNv w = outsideNv s := by
  unfold nvRecordFrom
  exact ⟨_, rfl, by rw [outsideNv_nvSet, outsideNv_nvSet, outsideNv_nvSet]⟩

/-- An entry appended writes the head record, and may raise LEDGER90 (R501, R508). -/
theorem appendEntry_eq (e : List Byte) (s : State) : ∃ before n m,
    let t := nvRecordFrom 6 before (recorded s.nv e) s.nv.head
      ⟨s.nv.nextSeq, ledgerHead s.nv.headRec.head e, s.nv.boots⟩ (nvSet n (nvSet m s))
    appendEntry e s = if 58983 ≤ unarchived t.nv then alert 1 t else t := ⟨_, _, _, rfl⟩

@[simp] theorem outsideNv_alert (b : BitVec 6) (s : State) : outsideNv (alert b s) = outsideNv s := by
  unfold alert
  dsimp only
  split
  · rfl
  · split <;> rfl

@[simp] theorem outsideNv_health (code wher : BitVec 16) (data : List Byte) (s : State) :
    outsideNv (health code wher data s) = outsideNv s := by
  obtain ⟨n, h⟩ := health_eq_alert code wher data s
  rw [h, outsideNv_alert, outsideNv_nvSet]

@[simp] theorem outsideNv_nvRecord {α : Type} (k : Nat) (put : NvRec α → Nv) (r : NvRec α) (x : α) (s : State) :
    outsideNv (nvRecord k put r x s) = outsideNv s := by
  obtain ⟨w, h, hw⟩ := nvRecordFrom_eq k (fun r => { put r with opened := s.nv.opened }) put r x s
  rw [nvRecord, h, outsideNv_nvSet, hw]

@[simp] theorem outsideNv_nvMeet (fs : List NvFlaw) (s : State) : outsideNv (nvMeet fs s) = outsideNv s := by
  unfold nvMeet
  refine foldl_keeps outsideNv (fun s f => ?_) fs s
  split
  · rw [outsideNv_health]; rfl
  · rfl

@[simp] theorem outsideNv_appendEntry (e : List Byte) (s : State) : outsideNv (appendEntry e s) = outsideNv s := by
  obtain ⟨before, n, m, h⟩ := appendEntry_eq e s
  obtain ⟨w, ht, hw⟩ := nvRecordFrom_eq 6 before (recorded s.nv e) s.nv.head
    ⟨s.nv.nextSeq, ledgerHead s.nv.headRec.head e, s.nv.boots⟩ (nvSet n (nvSet m s))
  rw [h]
  split <;> simp only [outsideNv_alert, ht, hw, outsideNv_nvSet]

@[simp] theorem outsideNv_plainEntry (rom : Bool) (typ : BitVec 16) (comp meas data : List Byte) (s : State) :
    outsideNv (plainEntry rom typ comp meas data s) = outsideNv s := outsideNv_appendEntry _ s

@[simp] theorem outsideNv_romEntry (typ : BitVec 16) (comp meas data : List Byte) (s : State) :
    outsideNv (romEntry typ comp meas data s) = outsideNv s := outsideNv_appendEntry _ s

@[simp] theorem outsideNv_cksigEntry (sig : List Byte) (s : State) (j : Nat) :
    outsideNv (cksigEntry sig s j) = outsideNv s := outsideNv_appendEntry _ s

/-- A checkpoint group is six entries, and the counts of what they checkpoint (R510 to R512). -/
theorem checkpointGroup_eq (s : State) : ∃ e sig q lost,
    let t := (List.range 5).foldl (cksigEntry sig) (appendEntry e { s with free := s.free + 1 })
    checkpointGroup s = { t with
      nv := { t.nv with ckptDone := q, lostSince := 0, lostTot := satAdd t.nv.lostTot lost } } :=
  ⟨_, _, _, _, rfl⟩

theorem outsideNv_setNv (n : Nv) (s : State) : outsideNv { s with nv := n } = outsideNv s := rfl

theorem outsideNv_setFree (k : Nat) (s : State) : outsideNv { s with free := k } = outsideNv s := rfl

@[simp] theorem outsideNv_checkpointGroup (s : State) : outsideNv (checkpointGroup s) = outsideNv s := by
  obtain ⟨e, sig, q, lost, h⟩ := checkpointGroup_eq s
  rw [h, outsideNv_setNv, foldl_keeps outsideNv (outsideNv_cksigEntry sig), outsideNv_appendEntry, outsideNv_setFree]

/-- The checkpoint group that is due. -/
@[simp] theorem outsideNv_checkpointDue (s : State) :
    outsideNv (if checkpointDue s.nv then checkpointGroup s else s) = outsideNv s := by
  split
  · exact outsideNv_checkpointGroup s
  · rfl

@[simp] theorem outsideNv_logEntry (typ : BitVec 16) (comp meas data : List Byte) (s : State) :
    outsideNv (logEntry typ comp meas data s) = outsideNv s := by
  unfold logEntry
  simp only [outsideNv_plainEntry, outsideNv_checkpointDue]

@[simp] theorem outsideNv_logChange (typ : BitVec 16) (comp meas data : List Byte) (s : State) :
    outsideNv (logChange typ comp meas data s) = outsideNv s := by
  unfold logChange logKeyed
  extract_lets s1
  rw [outsideNv_plainEntry]
  exact outsideNv_checkpointDue s

@[simp] theorem outsideNv_changeDone (s : State) : outsideNv (changeDone s) = outsideNv s := rfl

@[simp] theorem outsideNv_abandonOpened (s : State) : outsideNv (abandonOpened s) = outsideNv s := by
  unfold abandonOpened
  extract_lets s1
  refine Eq.trans (b := outsideNv s1) rfl (foldl_keeps outsideNv (fun t o => ?_) _ s)
  split
  · rfl
  · exact outsideNv_logEntry _ _ _ _ t

@[simp] theorem outsideNv_refusal (slotB : Bool) (code : Nat) (x : ImgSlot) (s : State) :
    outsideNv (refusal slotB code x s) = outsideNv s := by
  unfold refusal
  split
  · rfl
  · exact outsideNv_health _ _ _ s

@[simp] theorem outsideNv_saveSpare (sq : Nat) (s : State) : outsideNv (saveSpare sq s) = outsideNv s := rfl

/-! #### The NV store -/

/-- A record written afresh loses its own latent error and no other. -/
theorem Nv.bad_renewed (n : Nv) (f g : NvFlaw) : (n.renewed f).bad g = (n.bad g && decide (g ≠ f)) := by
  unfold Nv.bad Nv.renewed
  dsimp only
  induction n.flaws with
  | nil => rfl
  | cons p l ih =>
    by_cases hp : p.1 = f
    · rw [List.filter_cons_of_neg (by simpa using hp), ih, List.any_cons, hp]
      by_cases hg : g = f
      · simp [hg]
      · simp [beq_eq_false_iff_ne.mpr (Ne.symm hg)]
    · rw [List.filter_cons_of_pos (by simpa using hp), List.any_cons, ih, List.any_cons]
      by_cases hg : g = f
      · simp [hg, hp]
      · simp [hg]

theorem Nv.bad_renewed_other (n : Nv) {f g : NvFlaw} (h : g ≠ f) : (n.renewed f).bad g = n.bad g := by
  rw [Nv.bad_renewed, decide_eq_true h, Bool.and_true]

/-- A latent error that is met stays one. -/
theorem Nv.bad_met (n : Nv) (f g : NvFlaw) :
    ({ n with flaws := n.flaws.map fun p => if p.1 = f then (f, true) else p } : Nv).bad g = n.bad g := by
  have hfst (p : NvFlaw × Bool) : ((if p.1 = f then (f, true) else p).1 == g) = (p.1 == g) := by
    split
    · simp [*]
    · rfl
  simp only [Nv.bad, List.any_map, Function.comp_def, hfst]

/-- The head record goes by its own copies, and where none is valid by the retained entries. -/
theorem Nv.headRec_congr {n m : Nv} (hh : m.head = n.head) (hl : m.ledger = n.ledger)
    (hc : ∀ b, m.bad (.counter 6 b) = n.bad (.counter 6 b)) (hs : ∀ k, m.bad (.ledger k) = n.bad (.ledger k)) :
    m.headRec = n.headRec := by
  have hshown : m.shown = n.shown := funext fun e => by unfold Nv.shown; rw [hs]
  unfold Nv.headRec Nv.held
  rw [hh, hl, hc, hc, hshown]

/-- Both copies of a record written alike, without an error, give what was written. -/
theorem Nv.value_held_both {α : Type} {n : Nv} {k i : Nat} {x : α} (hc : ∀ b, n.bad (.counter k b) = false) :
    (n.held k ⟨some (i, x), some (i, x)⟩).value = some x := by
  simp [Nv.held, NvRec.value, hc]

theorem Nv.count_held_both {w : Nat} {n : Nv} {k i : Nat} {x : BitVec w} (hc : ∀ b, n.bad (.counter k b) = false) :
    (n.held k ⟨some (i, x), some (i, x)⟩).count = some x := by
  simp [Nv.held, NvRec.count, hc]

theorem Nv.headRec_both {n : Nv} {i : Nat} {x : HeadRec} (hn : n.head = ⟨some (i, x), some (i, x)⟩)
    (hc : ∀ b, n.bad (.counter 6 b) = false) : n.headRec = x := by
  rw [Nv.headRec, hn, Nv.value_held_both hc]
  rfl

/-- Both copies of record `k` written: neither has an error. -/
theorem Nv.bad_renewed_both (n : Nv) (k : Nat) (b : Bool) :
    ((n.renewed (.counter k false)).renewed (.counter k true)).bad (.counter k b) = false := by
  cases b <;> simp [Nv.bad_renewed]

/-- What writes other than those of the two records keep of an NV store (R494): the firmware counter and the boot
    count as they are read.  SEQ of the ledger does not fall (R508). -/
structure NvGrows (n m : Nv) : Prop where
  fwArb : m.held 0 m.fwArb = n.held 0 n.fwArb
  bootCount : m.held 2 m.bootCount = n.held 2 n.bootCount
  seq : n.headRec.seq ≤ m.headRec.seq

theorem NvGrows.refl (n : Nv) : NvGrows n n := ⟨rfl, rfl, Nat.le_refl _⟩

theorem NvGrows.trans {n m k : Nv} (h : NvGrows n m) (h' : NvGrows m k) : NvGrows n k :=
  ⟨h'.fwArb.trans h.fwArb, h'.bootCount.trans h.bootCount, Nat.le_trans h.seq h'.seq⟩

theorem Nv.held_congr {α : Type} {n m : Nv} {k : Nat} (r : NvRec α)
    (hc : ∀ b, m.bad (.counter k b) = n.bad (.counter k b)) : m.held k r = n.held k r := by
  unfold Nv.held
  rw [hc, hc]

theorem NvGrows.of_bad {n m : Nv} (hf : m.fwArb = n.fwArb) (hb : m.bootCount = n.bootCount)
    (h0 : ∀ b, m.bad (.counter 0 b) = n.bad (.counter 0 b)) (h2 : ∀ b, m.bad (.counter 2 b) = n.bad (.counter 2 b))
    (hs : n.headRec.seq ≤ m.headRec.seq) : NvGrows n m :=
  ⟨by rw [hf, Nv.held_congr _ h0], by rw [hb, Nv.held_congr _ h2], hs⟩

/-- A change of other parts of the NV store than the two records, the ledger and its head, and of latent errors in
    other places. -/
theorem NvGrows.of_parts {n m : Nv} (hf : m.fwArb = n.fwArb) (hb : m.bootCount = n.bootCount) (hh : m.head = n.head)
    (hl : m.ledger = n.ledger) (hc : ∀ k b, m.bad (.counter k b) = n.bad (.counter k b))
    (hs : ∀ k, m.bad (.ledger k) = n.bad (.ledger k)) : NvGrows n m :=
  .of_bad hf hb (hc 0) (hc 2) (Nv.headRec_congr hh hl (hc 6) hs ▸ Nat.le_refl _)

@[simp] theorem alert_nv (b : BitVec 6) (s : State) : (alert b s).nv = s.nv := by
  obtain ⟨_, _, h⟩ := alert_frame b s
  rw [h]

theorem nvGrows_health (code wher : BitVec 16) (data : List Byte) (s : State) :
    NvGrows s.nv (health code wher data s).nv := by
  obtain ⟨_, _, _, h, -⟩ := health_frame code wher data s
  rw [h]
  refine .of_parts rfl rfl rfl rfl (fun k b => ?_) fun k => ?_
  · exact Nv.bad_renewed_other _ (by simp)
  · exact Nv.bad_renewed_other _ (by simp)

theorem nvGrows_nvMeet (fs : List NvFlaw) (s : State) : NvGrows s.nv (nvMeet fs s).nv := by
  refine foldl_rel (R := fun s t => NvGrows s.nv t.nv) (fun _ => .refl _) NvGrows.trans (fun s f => ?_) fs s
  dsimp only
  split
  · refine NvGrows.trans ?_ (nvGrows_health 9 0xFFFF [] _)
    exact .of_parts rfl rfl rfl rfl (fun k b => Nv.bad_met _ _ _) fun k => Nv.bad_met _ _ _
  · exact .refl _

/-- The NV store after an entry. -/
theorem appendEntry_nv (e : List Byte) (s : State) : ∃ k, (appendEntry e s).nv =
    ((recorded s.nv e ⟨some (k, ⟨s.nv.nextSeq, ledgerHead s.nv.headRec.head e, s.nv.boots⟩),
      some (k, ⟨s.nv.nextSeq, ledgerHead s.nv.headRec.head e, s.nv.boots⟩)⟩).renewed
        (.counter 6 false)).renewed (.counter 6 true) := by
  obtain ⟨before, n, m, h⟩ := appendEntry_eq e s
  obtain ⟨w, ht, -⟩ := nvRecordFrom_eq 6 before (recorded s.nv e) s.nv.head
    ⟨s.nv.nextSeq, ledgerHead s.nv.headRec.head e, s.nv.boots⟩ (nvSet n (nvSet m s))
  refine ⟨((nvSet n (nvSet m s)).nv.held 6 s.nv.head).writes + 1, ?_⟩
  rw [h, apply_ite State.nv, alert_nv, ite_self, ht, State.nvSet_nv]

/-- An entry appended takes the next SEQ (R508). -/
theorem appendEntry_seq (e : List Byte) (s : State) : (appendEntry e s).nv.headRec.seq = s.nv.headRec.seq + 1 := by
  obtain ⟨k, h⟩ := appendEntry_nv e s
  rw [h, Nv.headRec_both rfl (Nv.bad_renewed_both _ 6)]
  rfl

/-- An entry takes its place in the ledger, and in no other record than the head. -/
theorem recorded_parts (n : Nv) (e : List Byte) (r : NvRec HeadRec) :
    (recorded n e r).fwArb = n.fwArb ∧ (recorded n e r).bootCount = n.bootCount ∧
      ∀ k b, (recorded n e r).bad (.counter k b) = n.bad (.counter k b) :=
  ⟨rfl, rfl, fun _ _ => Nv.bad_renewed_other n (f := .ledger _) (by simp)⟩

theorem nvGrows_appendEntry (e : List Byte) (s : State) : NvGrows s.nv (appendEntry e s).nv := by
  have hseq := appendEntry_seq e s
  obtain ⟨k, h⟩ := appendEntry_nv e s
  rw [h] at hseq ⊢
  obtain ⟨hf, hb, hbad⟩ := recorded_parts s.nv e ⟨some (k, ⟨s.nv.nextSeq, ledgerHead s.nv.headRec.head e, s.nv.boots⟩),
    some (k, ⟨s.nv.nextSeq, ledgerHead s.nv.headRec.head e, s.nv.boots⟩)⟩
  generalize recorded s.nv e _ = n at hseq hf hb hbad ⊢
  have hother {k : Nat} (hk : k ≠ 6) (b : Bool) :
      ((n.renewed (.counter 6 false)).renewed (.counter 6 true)).bad (.counter k b) = s.nv.bad (.counter k b) := by
    rw [Nv.bad_renewed_other _ (by simp [hk]), Nv.bad_renewed_other _ (by simp [hk]), hbad]
  exact .of_bad hf hb (hother (by decide)) (hother (by decide)) (hseq.symm ▸ Nat.le_succ _)

/-! #### The entries of the steward and of the ROM -/

/-- What was checkpointed and lost is no part of what an NV store grows in. -/
theorem nvGrows_counts (n : Nv) (q l : Nat) (k : BitVec 32) :
    NvGrows n { n with ckptDone := q, lostSince := l, lostTot := k } :=
  .of_parts rfl rfl rfl rfl (fun _ _ => rfl) fun _ => rfl

/-- Work that is folded grows the store where each step does. -/
theorem nvGrows_foldl {α : Type} {f : State → α → State} (h : ∀ s a, NvGrows s.nv (f s a).nv) (l : List α)
    (s : State) : NvGrows s.nv (l.foldl f s).nv :=
  foldl_rel (R := fun s t => NvGrows s.nv t.nv) (fun s => .refl s.nv) NvGrows.trans h l s

theorem nvGrows_cksigEntry (sig : List Byte) (s : State) (j : Nat) : NvGrows s.nv (cksigEntry sig s j).nv :=
  nvGrows_appendEntry _ s

theorem nvGrows_checkpointGroup (s : State) : NvGrows s.nv (checkpointGroup s).nv := by
  obtain ⟨e, sig, q, lost, h⟩ := checkpointGroup_eq s
  have happ := nvGrows_appendEntry e { s with free := s.free + 1 }
  have hsig := nvGrows_foldl (nvGrows_cksigEntry sig) (List.range 5) (appendEntry e { s with free := s.free + 1 })
  rw [h]
  exact (happ.trans hsig).trans (nvGrows_counts _ _ _ _)

theorem nvGrows_checkpointDue (s : State) :
    NvGrows s.nv (if checkpointDue s.nv then checkpointGroup s else s).nv := by
  split
  · exact nvGrows_checkpointGroup s
  · exact .refl _

/-- An entry grows the store, and raises SEQ (R508). -/
structure NvLogs (n m : Nv) : Prop extends NvGrows n m where
  logged : n.headRec.seq < m.headRec.seq

theorem nvLogs_appendEntry (e : List Byte) (s : State) : NvLogs s.nv (appendEntry e s).nv :=
  ⟨nvGrows_appendEntry e s, by have := appendEntry_seq e s; omega⟩

theorem NvGrows.trans_logs {n m k : Nv} (h : NvGrows n m) (h' : NvLogs m k) : NvLogs n k :=
  ⟨h.trans h'.toNvGrows, Nat.lt_of_le_of_lt h.seq h'.logged⟩

theorem NvLogs.trans_grows {n m k : Nv} (h : NvLogs n m) (h' : NvGrows m k) : NvLogs n k :=
  ⟨h.toNvGrows.trans h', Nat.lt_of_lt_of_le h.logged h'.seq⟩

/-- Which changes are open is no part of what an NV store grows in. -/
theorem nvGrows_opened (n : Nv) (l : List Opened) : NvGrows n { n with opened := l } :=
  .of_parts rfl rfl rfl rfl (fun _ _ => rfl) fun _ => rfl

theorem nvLogs_logEntry (typ : BitVec 16) (comp meas data : List Byte) (s : State) :
    NvLogs s.nv (logEntry typ comp meas data s).nv :=
  (nvGrows_checkpointDue s).trans_logs (nvLogs_appendEntry _ _)

theorem nvLogs_logChange (typ : BitVec 16) (comp meas data : List Byte) (s : State) :
    NvLogs s.nv (logChange typ comp meas data s).nv :=
  ((nvGrows_checkpointDue s).trans (nvGrows_opened _ _)).trans_logs
    (nvLogs_appendEntry _ { (if checkpointDue s.nv then checkpointGroup s else s) with nv := _ })

theorem nvGrows_changeDone (s : State) : NvGrows s.nv (changeDone s).nv := nvGrows_opened _ _

theorem nvGrows_abandonOpened (s : State) : NvGrows s.nv (abandonOpened s).nv := by
  unfold abandonOpened
  refine NvGrows.trans (nvGrows_foldl (fun t o => ?_) _ s) (nvGrows_opened _ [])
  split
  · exact .refl _
  · exact (nvLogs_logEntry _ _ _ _ t).toNvGrows

theorem nvGrows_saveSpare (sq : Nat) (s : State) : NvGrows s.nv (saveSpare sq s).nv := by
  refine .of_parts rfl rfl rfl rfl (fun k b => ?_) fun k => ?_
  · exact Nv.bad_renewed_other s.nv (by simp)
  · exact Nv.bad_renewed_other s.nv (by simp)

theorem nvGrows_refusal (slotB : Bool) (code : Nat) (x : ImgSlot) (s : State) :
    NvGrows s.nv (refusal slotB code x s).nv := by
  unfold refusal
  split
  · exact .refl _
  · exact nvGrows_health _ _ _ s

/-- Record 0 or 2 written is read as written (R494). -/
theorem nvRecord_nv {α : Type} (k : Nat) (put : NvRec α → Nv) (r : NvRec α) (x : α) (s : State) :
    ∃ i, (nvRecord k put r x s).nv =
      ((put ⟨some (i, x), some (i, x)⟩).renewed (.counter k false)).renewed (.counter k true) := by
  obtain ⟨w, h, -⟩ := nvRecordFrom_eq k (fun r => { put r with opened := s.nv.opened }) put r x s
  exact ⟨_, by rw [nvRecord, h, State.nvSet_nv]⟩

end Sys2Proof.Machine

/-! ### What the stopping of work leaves as it was -/

namespace Sys2Proof.Machine

/-- The state but for engines, squares, jobs and chains, and for what is on its way between them and to other
    parts. -/
def besideWork (s : State) : State :=
  { s with engines := [], squares := [], jobs := [], chains := [], chst := [], cxl := {}, frx := {}, reqs := [],
           nextTag := 0, out := [], free := 0, ik := {}, mg := { s.mg with xlost := 0 } }

@[simp] theorem besideWork_setEng (s : State) (e : Nat) (x : Engine) : besideWork (s.setEng e x) = besideWork s := rfl
@[simp] theorem besideWork_modEng (s : State) (e : Nat) (f : Engine → Engine) :
    besideWork (s.modEng e f) = besideWork s := rfl
@[simp] theorem besideWork_modSq (s : State) (i : Nat) (f : Square → Square) :
    besideWork (s.modSq i f) = besideWork s := rfl
@[simp] theorem besideWork_emit (s : State) (o : Out) : besideWork (s.emit o) = besideWork s := rfl
@[simp] theorem besideWork_modChain (c : Nat) (f : Chain → Chain) (s : State) :
    besideWork (modChain c f s) = besideWork s := rfl
@[simp] theorem besideWork_setChState (n st : Nat) (keep : Bool) (s : State) :
    besideWork (setChState n st keep s) = besideWork s := rfl
@[simp] theorem besideWork_modJob (id : Nat) (f : Job → Job) (s : State) :
    besideWork (modJob id f s) = besideWork s := rfl
@[simp] theorem besideWork_sendOn (i : Nat) (p : FrxPacket) (s : State) : besideWork (sendOn i p s) = besideWork s := rfl
@[simp] theorem besideWork_hostRequest (who : Requester) (write : Bool) (va : Word) (acc : BitVec 3)
    (o : BitVec 32 → Out) (s : State) : besideWork (hostRequest who write va acc o s) = besideWork s := rfl
@[simp] theorem besideWork_markSent (w : FarWrite) (s0 s : State) : besideWork (markSent w s0 s) = besideWork s := rfl
@[simp] theorem besideWork_endQueued (id : Nat) (status detail : Byte) (s : State) :
    besideWork (endQueued id status detail s) = besideWork s := rfl
@[simp] theorem besideWork_setFrx (x : Frx) (s : State) : besideWork { s with frx := x } = besideWork s := rfl
@[simp] theorem besideWork_setReqs (l : List Req) (s : State) : besideWork { s with reqs := l } = besideWork s := rfl

section
variable {s t : State} (h : besideWork t = besideWork s)
include h

theorem besideWork_boot : t.boot = s.boot := (congrArg State.boot h :)
theorem besideWork_nv : t.nv = s.nv := (congrArg State.nv h :)
theorem besideWork_hbm : t.hbm = s.hbm := (congrArg State.hbm h :)
theorem besideWork_timebase : t.mg.timebase = s.mg.timebase := (congrArg (fun u : State => u.mg.timebase) h :)

end

/-- Work that is folded leaves what each step leaves. -/
theorem besideWork_foldl {α : Type} {f : State → α → State} (h : ∀ s a, besideWork (f s a) = besideWork s)
    (l : List α) (s : State) : besideWork (l.foldl f s) = besideWork s := foldl_keeps besideWork h l s

/-! #### Packets and notices -/

@[simp] theorem besideWork_frxSend (cls : Nat) (p : FrxPacket) (s : State) :
    besideWork (frxSend cls p s).2 = besideWork s := by
  unfold frxSend
  dsimp only
  split
  · rfl
  · split
    · rfl
    · split <;> rfl

@[simp] theorem besideWork_frxRequest (who : Requester) (write atomic : Bool) (va : Word) (acc : BitVec 3)
    (node : BitVec 16) (typ code : Byte) (pa : Nat) (mask : BitVec 64) (data : List Byte) (s : State) :
    besideWork (frxRequest who write atomic va acc node typ code pa mask data s).2 = besideWork s := by
  have h := besideWork_frxSend 0 (packet s node typ code s.nextTag pa (requestPayload pa mask data)) s
  unfold frxRequest
  dsimp only
  split <;> exact h

@[simp] theorem besideWork_tunnelSend (x : Tunnel) (cls : Nat) (p : FrxPacket) (s : State) :
    besideWork (tunnelSend x cls p s).2 = besideWork s := by
  unfold tunnelSend
  split
  · rfl
  · dsimp only
    rw [besideWork_setFrx]
    split <;> simp

@[simp] theorem besideWork_noticeSend (x : Tunnel) (p : FrxPacket) (s : State) :
    besideWork (noticeSend x p s) = besideWork s := by
  have h := besideWork_tunnelSend x 3 p s
  unfold noticeSend
  split
  all_goals
    rename_i hs
    rw [hs] at h
    exact h

@[simp] theorem besideWork_sendNotice (c kind t : Nat) (s : State) : besideWork (sendNotice c kind t s) = besideWork s := by
  unfold sendNotice
  split
  · rfl
  · dsimp only
    split <;> simp

@[simp] theorem besideWork_sendNotices (c kind : Nat) (s : State) : besideWork (sendNotices c kind s) = besideWork s :=
  besideWork_foldl (fun s t => besideWork_sendNotice c kind t s) _ s

@[simp] theorem besideWork_abortNotices (s : State) : besideWork (abortNotices s) = besideWork s := by
  unfold abortNotices
  refine besideWork_foldl (fun s x => ?_) _ s
  split <;> simp

/-! #### Writes on their way -/

@[simp] theorem besideWork_deferError (e : Nat) (host : Bool) (va : Word) (acc : BitVec 3) (s : State) :
    besideWork (deferError e host va acc s) = besideWork s := by
  unfold deferError
  split
  · rfl
  · split <;> rfl

@[simp] theorem besideWork_deferBoth (e : Nat) (host : Bool) (va : Word) (acc : BitVec 3) (s : State) :
    besideWork (deferBoth e host va acc s) = besideWork s := by
  unfold deferBoth
  dsimp only
  split
  · split <;> simp
  · simp

@[simp] theorem besideWork_sendFar (e : Nat) (w : FarWrite) (s : State) : besideWork (sendFar e w s) = besideWork s := by
  unfold sendFar
  split
  · split <;> simp
  · dsimp only
    split <;> simp
  · rfl

@[simp] theorem besideWork_flushFar (e : Nat) (s : State) : besideWork (flushFar e s) = besideWork s := by
  unfold flushFar
  split
  · rfl
  · exact besideWork_foldl (fun s (p : Nat × FarWrite) => besideWork_sendFar e p.2 s) _ _

/-! #### Strips that are discarded -/

@[simp] theorem besideWork_flushWire (l : Nat) (s : State) (q : Nat) : besideWork (flushWire l s q) = besideWork s := by
  unfold flushWire
  split <;> rfl

@[simp] theorem besideWork_returnStrips (x : Tunnel) (n : Nat) (s : State) :
    besideWork (returnStrips x n s) = besideWork s := by
  unfold returnStrips
  split
  · rfl
  · split <;> rfl

@[simp] theorem besideWork_leaveQueue (e q n : Nat) (s : State) : besideWork (leaveQueue e q n s) = besideWork s := by
  unfold leaveQueue
  split
  · split <;> simp
  · rfl

@[simp] theorem besideWork_flushEngine (e : Nat) (s : State) : besideWork (flushEngine e s) = besideWork s := by
  unfold flushEngine
  simp only [besideWork_modSq, besideWork_setEng]
  rw [besideWork_foldl fun s q => besideWork_leaveQueue e q _ s]
  split
  · exact besideWork_foldl (besideWork_flushWire _) _ s
  · rfl

@[simp] theorem besideWork_flushTunnels (c : Nat) (s : State) : besideWork (flushTunnels c s) = besideWork s := by
  unfold flushTunnels
  refine besideWork_foldl (fun s t => ?_) _ s
  split <;> simp

/-! #### Chains -/

@[simp] theorem besideWork_takeAbort (f e n c : Nat) (s : State) : besideWork (takeAbort f e n c s) = besideWork s := by
  unfold takeAbort
  simp

@[simp] theorem besideWork_abortChain (c : Nat) (reset spared : List Nat) (ctx : Option Byte) (s : State) :
    besideWork (abortChain c reset spared ctx s) = besideWork s := by
  unfold abortChain
  simp only [besideWork_sendNotices]
  rw [besideWork_foldl, besideWork_modChain, besideWork_flushTunnels, besideWork_foldl]
  · intro s n
    split <;> simp
  · intro s n
    split
    · split
      · split <;> simp
      · simp
    · simp

@[simp] theorem besideWork_leaveAborted (c n : Nat) (s : State) : besideWork (leaveAborted c n s) = besideWork s := rfl

@[simp] theorem besideWork_endAborted (e : Nat) (s : State) : besideWork (endAborted e s) = besideWork s := by
  unfold endAborted
  split
  · rfl
  · split
    · rfl
    · split <;> simp

/-! #### Jobs and engines -/

@[simp] theorem besideWork_haltWork (e : Nat) (s : State) : besideWork (haltWork e s) = besideWork s := by
  unfold haltWork
  simp

@[simp] theorem besideWork_stopWork (e : Nat) (s : State) : besideWork (stopWork e s) = besideWork s := by
  unfold stopWork
  split <;> simp

@[simp] theorem besideWork_endJobBy (reset : List Nat) (id : Nat) (status detail : Byte) (faultEng : BitVec 16)
    (cause : Byte) (s : State) : besideWork (endJobBy reset id status detail faultEng cause s) = besideWork s := by
  unfold endJobBy
  split
  · rfl
  · split
    · rfl
    · dsimp only
      rw [besideWork_foldl, besideWork_foldl, besideWork_modJob]
      · exact fun s c => besideWork_abortChain _ _ _ _ s
      · intro s e
        rw [besideWork_endAborted]
        split <;> simp

@[simp] theorem besideWork_endJob (id : Nat) (status detail : Byte) (faultEng : BitVec 16) (cause : Byte) (s : State) :
    besideWork (endJob id status detail faultEng cause s) = besideWork s := besideWork_endJobBy [] _ _ _ _ _ s

@[simp] theorem besideWork_sweepQueued (s : State) : besideWork (sweepQueued s) = besideWork s := by
  unfold sweepQueued
  refine besideWork_foldl (fun s j => ?_) _ s
  split
  · split <;> simp
  · rfl

@[simp] theorem besideWork_resumeTenders (sq : Nat) (s : State) : besideWork (resumeTenders sq s) = besideWork s := by
  unfold resumeTenders
  split <;> simp

@[simp] theorem besideWork_loseFlight (k : Nat) (s : State) : besideWork (loseFlight k s) = besideWork s := by
  unfold loseFlight
  split <;> rfl

@[simp] theorem besideWork_clearEngine (e : Nat) (s : State) : besideWork (clearEngine e s) = besideWork s := by
  unfold clearEngine
  dsimp only
  rw [besideWork_resumeTenders, besideWork_setReqs, besideWork_setEng, besideWork_endAborted, besideWork_flushEngine,
    besideWork_loseFlight]

@[simp] theorem besideWork_resetWithJobs (jobs es : List Nat) (status detail : Byte) (fault : BitVec 16) (s : State) :
    besideWork (resetWithJobs jobs es status detail fault s) = besideWork s := by
  unfold resetWithJobs
  dsimp only
  rw [besideWork_foldl (fun s e => besideWork_clearEngine e s), besideWork_foldl fun s c => besideWork_abortChain _ _ _ _ s,
    besideWork_foldl fun s j => besideWork_endJobBy _ _ _ _ _ _ s]

@[simp] theorem besideWork_stopEngine (sq pos : Nat) (status : Byte) (s : State) :
    besideWork (stopEngine sq pos status s) = besideWork s := besideWork_resetWithJobs _ _ _ _ _ s
end Sys2Proof.Machine

namespace Sys2Proof.Machine

/-! ### 64-bit accesses to the register windows (R52, R130) -/

/-- An aligned 64-bit store to a register window that the ring may write is the store to the register. -/
theorem storeAt_window {e : Nat} {va v : Word} {w : Window} {s : State} (hw : windowOf va = some w)
    (hring : windowRing w true (s.eng e).rights = true) (hal : va.toNat % 8 = 0) :
    storeAt e va 8 v s = windowStore e w v s := by
  simp only [storeAt, bind, EStateM.bind, em_engM, hw, windowCheck]
  simp [hal, hring, pure, EStateM.pure]

/-- An aligned 64-bit load of a register window that the ring may read is the load of the register. -/
theorem loadAt_window {e : Nat} {va : Word} {w : Window} {s : State} (hw : windowOf va = some w)
    (hring : windowRing w false (s.eng e).rights = true) (hal : va.toNat % 8 = 0) :
    loadAt e va 8 s = windowLoad e w s := by
  simp only [loadAt, bind, EStateM.bind, em_engM, hw, windowCheck]
  simp [hal, hring, pure, EStateM.pure]

/-- The device registers (R141). -/
theorem windowOf_device {off : Nat} (h : off < 0x1000000) :
    windowOf (BitVec.ofNat 64 (0xFFFF40000000 + off)) = some (.device off) ∧
      (BitVec.ofNat 64 (0xFFFF40000000 + off)).toNat = 0xFFFF40000000 + off := by
  have ha : (BitVec.ofNat 64 (0xFFFF40000000 + off)).toNat = 0xFFFF40000000 + off := by
    rw [BitVec.toNat_ofNat]; omega
  refine ⟨?_, ha⟩
  unfold windowOf regionOf
  simp only [ha]
  rw [if_neg (by omega), if_neg (by omega), if_neg (by omega), if_neg (by omega), if_neg (by omega),
    if_pos (by omega)]
  simp

/-- A ring-0 store of an engine to a device register. -/
theorem issue_storeDevice {e : Eng} {off : Nat} {v : Word} {s : State} (hoff : off < 0x1000000) (hal : off % 8 = 0)
    (hr : ready e (storeWordInst e (BitVec.ofNat 64 (0xFFFF40000000 + off)) v) s = true)
    (h0 : (found e s).rights = 0) :
    issue e (storeWordInst e (BitVec.ofNat 64 (0xFFFF40000000 + off)) v) s =
      committed e (storeWordInst e (BitVec.ofNat 64 (0xFFFF40000000 + off)) v) .next
        (devWrite (.engine e) off v (fetched e s)) := by
  obtain ⟨hw, ha⟩ := windowOf_device hoff
  have hst := storeAt_window (v := v) (s := fetched e s) hw (by
    show (((fetched e s).eng e).rights == 0) = true
    exact beq_iff_eq.mpr h0) (by omega)
  refine issue_ready hr ?_
  simp only [storeWordInst, EStateM.run, bind, EStateM.bind, hst, windowStore, get, getThe, MonadStateOf.get,
    EStateM.get, dif_pos e.isLt, em_upd, em_pure]

/-- A store of an engine to a device register, whose command is the store. -/
theorem storesDevice_of_exec {c : Instr} {e : Eng} {off : Nat} {v : Word} (hoff : off < 0x1000000)
    (hal : off % 8 = 0)
    (hc : ∀ s, exec c s = .next (issue e (storeWordInst e (BitVec.ofNat 64 (0xFFFF40000000 + off)) v) s)) :
    StoresDevice c e off v :=
  fun s hr h0 => (hc s).trans (congrArg _ (issue_storeDevice hoff hal hr h0))

/-- A read of MEM_UE_LOG clears VALID (R126). -/
def clearUeValid (s : State) : State :=
  { s with hub := { s.hub with ueLog := s.hub.ueLog &&& 0x7FFFFFFFFFFFFFFF } }

/-- A ring-0 load of MEM_UE_LOG delivers the log and clears VALID (R126). -/
theorem issue_loadUeLog {e : Eng} {rd : Reg} {s : State}
    (hr : ready e (loadWordInst e 0xFFFF40002018 rd) s = true) (h0 : (found e s).rights = 0) :
    issue e (loadWordInst e 0xFFFF40002018 rd) s = committed e (loadWordInst e 0xFFFF40002018 rd) .next
      ((clearUeValid (fetched e s)).modEng e fun y => y.setReg rd (fetched e s).hub.ueLog) := by
  have hld := loadAt_window (e := e) (va := 0xFFFF40002018) (s := fetched e s) (w := .device 0x2018) (by decide) (by
    show (((fetched e s).eng e).rights == 0) = true
    exact beq_iff_eq.mpr h0) (by decide)
  refine issue_ready hr ?_
  simp only [loadWordInst, EStateM.run, bind, EStateM.bind, hld, windowLoad, get, getThe, MonadStateOf.get,
    EStateM.get, em_liftP, em_updE, em_pure, devRead, if_true, clearUeValid]

/-- SQ_TNDn_CTL in the square window (Table 1.16). -/
theorem windowOf_tenderCtl (n : Fin 4) :
    windowOf (tenderCtlAddr n) = some (.square (0x118 + 0x40 * n)) ∧ (tenderCtlAddr n).toNat % 8 = 0 ∧
      isTenderReg (0x118 + 0x40 * n) = true := by
  revert n
  decide

/-- A write of SQ_TNDn_CTL (R45). -/
theorem sqWrite_tenderCtl (sq : Nat) (n : Fin 4) (v : Word) (s : State) :
    sqWrite sq (0x118 + 0x40 * n) v s = tenderCtl sq n v s := by
  obtain ⟨-, -, htnd⟩ := windowOf_tenderCtl n
  have hn : (0x118 + 0x40 * n.val - 0x100) / 0x40 = n := by omega
  have hr : (0x118 + 0x40 * n.val) % 0x40 = 0x18 := by omega
  simp only [sqWrite, htnd, hn, hr]
  simp

/-- A ring-0 store of an engine to SQ_TNDn_CTL reaches the tender of its own square, none on a partner (R51). -/
theorem issue_storeTenderCtl {e : Eng} {n : Fin 4} {v : Word} {s : State}
    (hr : ready e (storeWordInst e (tenderCtlAddr n) v) s = true) (h0 : (found e s).rights = 0) :
    issue e (storeWordInst e (tenderCtlAddr n) v) s = committed e (storeWordInst e (tenderCtlAddr n) v) .next
      (if isPartner (fetched e s) (e / 9) then fetched e s else tenderCtl (e / 9) n v (fetched e s)) := by
  obtain ⟨hw, hal, -⟩ := windowOf_tenderCtl n
  have hst := storeAt_window (v := v) (s := fetched e s) hw (by
    simp only [windowRing, Bool.or_eq_true, beq_iff_eq]
    exact .inr h0) hal
  refine issue_ready hr ?_
  simp only [storeWordInst, EStateM.run, bind, EStateM.bind, hst, windowStore, get, getThe, MonadStateOf.get,
    EStateM.get]
  by_cases hp : isPartner (fetched e s) (e / 9) = true
  · simp only [hp, if_true, em_pure]
  · simp only [hp, Bool.false_eq_true, if_false, em_upd, em_pure, sqWrite_tenderCtl]

/-! ### The steward's registers and its watchdog (R481, R598, R609, R613) -/

/-- While the steward runs its program, its core is not halted and its watchdog does not stand still (R642). -/
theorem not_frozen_of_stewardRuns {s : State} (h : stewardRuns s = true) :
    s.mg.running = true ∧ s.ik.steward.halted = false ∧ stewardWdFrozen s = false := by
  unfold stewardRuns at h
  obtain ⟨hr, hh⟩ := Bool.and_eq_true_iff.mp h
  have hh : s.ik.steward.halted = false := by simpa using hh
  exact ⟨hr, hh, by simp [stewardWdFrozen, hh]⟩

/-- The first bite is taken as an exception (R613). -/
theorem stewardBite_first {s : State} (h : stewardRuns s = true) (hb : s.mg.wdBite = false) :
    stewardBite s = { s with mg := { s.mg with wdT := 0, wdBite := true, stewardExc := true } } := by
  obtain ⟨-, hh, hf⟩ := not_frozen_of_stewardRuns h
  unfold stewardBite
  simp [hf, hh, hb]

/-- The second bite restarts the core (R613). -/
theorem stewardBite_second {s : State} (h : stewardRuns s = true) (hb : s.mg.wdBite = true) :
    stewardBite s = restartSteward { s with mg := { s.mg with wdT := 0 } } := by
  obtain ⟨-, hh, hf⟩ := not_frozen_of_stewardRuns h
  unfold stewardBite
  rw [if_neg (by simp [hf]), if_neg (by simp [hh]), if_pos hb]

/-- A restart of the core is counted, whether or not the copy in SRAM passes (R613). -/
theorem restartSteward_eq (s : State) : ∃ b r w o c, restartSteward s =
    let u := loseFlight 0 s
    { u with
      boot := b, cmd := {}, ik := { u.ik with steward := u.ik.steward.resumed }
      mg := { u.mg with remap := false, restarts := satInc u.mg.restarts, wdT := 0, wdBite := false,
                        stewardExc := false, running := r, wdEn := w, wdOpen := o, wdClose := c } } := by
  unfold restartSteward
  dsimp only
  by_cases hc : fwBodyCode (loseFlight 0 s).nv (loseFlight 0 s).boot.recovery ((loseFlight 0 s).mg.sram.bytes 0 1048576) = 0
  · rw [if_pos hc]
    exact ⟨_, _, _, _, _, rfl⟩
  · rw [if_neg hc]
    exact ⟨_, _, _, _, _, rfl⟩

theorem restartSteward_parts (s : State) :
    let t := restartSteward s
    t.mg.restarts = satInc s.mg.restarts ∧ t.mg.remap = false ∧ t.mg.wdBite = false ∧ t.cmd.busy = none ∧
      t.cmd.response = none := by
  have hr : (loseFlight 0 s).mg.restarts = s.mg.restarts :=
    (congrArg (fun u : State => u.mg.restarts) (besideWork_loseFlight 0 s) :)
  obtain ⟨b, r, w, o, c, ht⟩ := restartSteward_eq s
  dsimp only
  rw [ht]
  exact ⟨congrArg satInc hr, rfl, rfl, rfl, rfl⟩

/-- A kick with the key is taken inside the window, and is a bite outside it (R613). -/
theorem stewardKick_of_key {v : Word} {s : State} (h : stewardRuns s = true) (hk : v.extractLsb' 0 16 = 0x4B1C) :
    stewardKick v s = if s.mg.wdOpen ≤ s.mg.wdT ∧ s.mg.wdT < s.mg.wdClose then
      { s with mg := { s.mg with wdT := 0, wdBite := false } } else stewardBite s := by
  have hkey : v.setWidth 16 = (0x4B1C : BitVec 16) := by
    rw [← hk, BitVec.setWidth_eq_extractLsb' (by decide)]
  unfold stewardKick
  exact if_neg (by simp [h, hkey])

theorem stewardKick_of_not_key {v : Word} {s : State} (hk : v.extractLsb' 0 16 ≠ 0x4B1C) : stewardKick v s = s := by
  have hkey : v.setWidth 16 ≠ (0x4B1C : BitVec 16) := by
    rw [BitVec.setWidth_eq_extractLsb' (by decide)]
    exact hk
  unfold stewardKick
  exact if_pos (by simpa using .inr hkey)

/-- The clear of half of the coalesce registers (R598). -/
theorem clearXcoal_parts (second : Bool) (s : State) :
    (∀ i : Fin 14, (clearXcoal second s).mg.xcoal[i] = if decide (8 ≤ i.val) = second then 0 else s.mg.xcoal[i]) ∧
      SameMemory s (clearXcoal second s) ∧ (clearXcoal second s).engines = s.engines := by
  have hhbm : (clearXcoal second s).hbm = s.hbm := rfl
  have htile : (clearXcoal second s).tile = s.tile := rfl
  refine ⟨fun i => ?_, fun a => by rw [hhbm, htile]; exact ⟨rfl, rfl⟩, rfl⟩
  unfold clearXcoal
  simp

/-- A store of the steward to a management register (Table 11.11). -/
theorem registerWrite_management {addr v : Word} {off : Nat} {s : State} (h : stewardRuns s = true)
    (ha : addr.toNat = hubBase + (mgBase + off)) (hoff : off < 0x100000) (hal : off % 8 = 0) :
    exec (.registerWrite .steward addr v) s = .next (mgWrite off v s) := by
  have hw : hubStore addr.toNat v s = mgWrite off v s := by
    have hsub : hubBase + (mgBase + off) - hubBase = mgBase + off := by omega
    unfold hubStore hubWrite
    dsimp only
    rw [ha, hsub, if_pos (by unfold mgBase; omega), if_neg (by omega), Nat.add_sub_cancel_left]
  refine Eq.trans (b := .next (if stewardRuns s then hubStore addr.toNat v s else s)) rfl ?_
  rw [if_pos h, hw]

/-- A read of the NV store does not change the ledger (R499). -/
theorem nvMeet_ledger (fs : List NvFlaw) (s : State) : (nvMeet fs s).nv.ledger = s.nv.ledger := by
  unfold nvMeet
  refine foldl_keeps (fun u : State => u.nv.ledger) (fun s f => ?_) fs s
  dsimp only
  split
  · obtain ⟨o, i, h, hh, -⟩ := health_frame 9 0xFFFF [] { s with
      nv := { s.nv with flaws := s.nv.flaws.map fun p => if p.1 = f then (f, true) else p } }
    rw [hh]
    rfl
  · rfl

/-- NV_REFRESH moves on by one block, and its reads are met (R498, R499). -/
theorem nvRefresh_parts {s : State} (h : stewardRuns s = true) : ∃ t, exec .nvRefresh s = .next t ∧
    t.mg.nvBlock = s.mg.nvBlock + 1 ∧
    t.mg.nvPasses = (if s.mg.nvBlock = 4095 then s.mg.nvPasses + 1 else s.mg.nvPasses) ∧
    t.nv.ledger = s.nv.ledger ∧ (s.nv.flaws = [] → s.nv.soft = [] → t.nv = s.nv) := by
  have hexec : ∃ here p, exec .nvRefresh s = .next (nvMeet ((s.nv.flaws.map Prod.fst).filter here) { s with
      free := s.free + 1
      nv := { s.nv with soft := s.nv.soft.filter p }
      mg := { s.mg with
        nvBlock := s.mg.nvBlock + 1
        nvPasses := if s.mg.nvBlock == 0xFFF then s.mg.nvPasses + 1 else s.mg.nvPasses } }) :=
    ⟨_, _, if_neg (by rw [h]; simp)⟩
  obtain ⟨here, p, hexec⟩ := hexec
  have hout := outsideNv_nvMeet ((s.nv.flaws.map Prod.fst).filter here) { s with
      free := s.free + 1
      nv := { s.nv with soft := s.nv.soft.filter p }
      mg := { s.mg with
        nvBlock := s.mg.nvBlock + 1
        nvPasses := if s.mg.nvBlock == 0xFFF then s.mg.nvPasses + 1 else s.mg.nvPasses } }
  refine ⟨_, hexec, (congrArg (fun u : State => u.mg.nvBlock) hout :), ?_, nvMeet_ledger _ _, fun hf hs => ?_⟩
  · refine (congrArg (fun u : State => u.mg.nvPasses) hout :).trans ?_
    show (if (s.mg.nvBlock == 0xFFF) = true then _ else _) = _
    simp only [beq_iff_eq]
  · rw [hf]
    show ({ s.nv with soft := s.nv.soft.filter p } : Nv) = s.nv
    rw [show s.nv.soft.filter p = s.nv.soft by rw [hs]; rfl]

/-! ### The host's decoder (R518, R522) -/

/-- While the link is up the host writes its component registers (R521). -/
theorem registerWrite_hostDecoder {addr v : Word} {s : State} (hup : s.cxl.up = true) (hp : s.cxl.perst = false) :
    exec (.registerWrite .hostDecoder addr v) s = .next { s with cxl := componentWrite addr.toNat v s.cxl } := by
  refine Eq.trans (b := .next (cxlPortWrite (componentWrite addr.toNat v) s)) rfl ?_
  unfold cxlPortWrite
  rw [if_pos (by simp [hup, hp])]

/-- The steward's writes to its watchdog, its busy bits and REMAP, and its NV_REFRESH, while it runs. -/
theorem stewardWrites {s : State} (h : stewardRuns s = true) (v : Word) :
    exec (.registerWrite .steward 0x60F00330 v) s = .next
      { s with mg := { s.mg with wdClose := v.extractLsb' 40 24, wdOpen := v.extractLsb' 16 24 } } ∧
    exec (.registerWrite .steward 0x60F00348 v) s = .next
      { s with mg := { s.mg with rkbusy := s.mg.rkbusy &&& ~~~(v.extractLsb' 8 8),
                                 mgbusy := s.mg.mgbusy &&& ~~~(v.setWidth 8) } } ∧
    exec (.remap v) s = .next { s with mg := { s.mg with remap := v.getLsbD 0 } } :=
  ⟨registerWrite_management (off := 0x330) h rfl (by decide) (by decide),
    registerWrite_management (off := 0x348) h rfl (by decide) (by decide),
    congrArg Host.Outcome.next (if_pos h)⟩

theorem exec_expiry_of_early {s : State} (h : s.mg.wdT < s.mg.wdClose) : exec .stewardWatchdogExpiry s = .next s :=
  congrArg Host.Outcome.next (if_neg (by simp [h]))

/-- An expiry at CLOSE, and a kick outside the window, are a bite (R613). -/
theorem exec_of_bites {k : Instr} {v : Word} {s : State} (h : stewardRuns s = true)
    (hk : (k = .stewardWatchdogExpiry ∧ s.mg.wdClose ≤ s.mg.wdT) ∨ (k = .stewardWatchdogKick v ∧
      v.extractLsb' 0 16 = 0x4B1C ∧ (s.mg.wdT < s.mg.wdOpen ∨ s.mg.wdClose ≤ s.mg.wdT))) :
    exec k s = .next (stewardBite s) := by
  obtain ⟨hr, -, -⟩ := not_frozen_of_stewardRuns h
  rcases hk with ⟨rfl, hc⟩ | ⟨rfl, hkey, hw⟩
  · exact congrArg Host.Outcome.next (if_pos (by simp [hr, hc]))
  · refine congrArg Host.Outcome.next ((stewardKick_of_key h hkey).trans (if_neg ?_))
    rintro ⟨ho, hc⟩
    rcases hw with hw | hw
    · exact absurd ho (BitVec.not_le.mpr hw)
    · exact absurd hc (BitVec.not_lt.mpr hw)

/-- Settles O43: the ports of an engine are its stores, and the steward's and the host's writes are those of the
    functions of their registers. -/
theorem registerCommands : Obligations.RegisterCommands := by
  unfold Obligations.RegisterCommands
  intro e s
  refine ⟨storesDevice_of_exec (by decide) (by decide) fun _ => rfl,
    storesDevice_of_exec (by decide) (by decide) fun _ => rfl, fun p hp => ?_,
    fun off v hoff hal => storesDevice_of_exec hoff hal fun _ => rfl,
    fun sq n v hr h0 => congrArg Host.Outcome.next (issue_storeTenderCtl hr h0),
    fun rd => ⟨fun hr h0 => congrArg Host.Outcome.next (issue_loadUeLog hr h0),
      fun h => congrArg Host.Outcome.next (if_pos h), fun h => congrArg Host.Outcome.next (if_pos h),
      fun h => congrArg Host.Outcome.next (if_neg (by rw [h]; simp))⟩,
    fun second h => ⟨_, congrArg Host.Outcome.next (if_pos h), clearXcoal_parts second s⟩, fun h v => ?_,
    fun v hup hp => ⟨?_, ?_, ?_, ?_⟩⟩
  · simp only [List.mem_cons, List.not_mem_nil, or_false] at hp
    rcases hp with rfl | rfl | rfl | rfl | rfl <;>
      exact storesDevice_of_exec (by decide) (by decide) fun _ => rfl
  · obtain ⟨hwindow, hbusy, hremap⟩ := stewardWrites h v
    refine ⟨⟨_, hwindow, rfl, rfl, rfl⟩, ⟨_, hbusy, ?_, rfl⟩, hremap,
      fun hk => congrArg Host.Outcome.next (stewardKick_of_not_key hk),
      fun hk ho hc => congrArg Host.Outcome.next ((stewardKick_of_key h hk).trans (if_pos ⟨ho, hc⟩)),
      exec_expiry_of_early, fun k hk => ⟨fun hb => ?_, fun hb => ?_⟩, nvRefresh_parts h⟩
    · rw [← BitVec.setWidth_eq_extractLsb' (by decide)]
    · rw [exec_of_bites h hk, stewardBite_first h hb]
    · rw [exec_of_bites h hk, stewardBite_second h hb]
      exact ⟨_, rfl, restartSteward_parts _⟩
  · rw [registerWrite_hostDecoder hup hp]
    show Host.Outcome.next { s with cxl := if s.cxl.hdm.committed then s.cxl else _ } = _
    split <;> rfl
  · rw [registerWrite_hostDecoder hup hp]
    show Host.Outcome.next { s with cxl := if s.cxl.hdm.committed then s.cxl else _ } = _
    split <;> rfl
  · exact registerWrite_hostDecoder hup hp
  · exact registerWrite_hostDecoder hup hp

end Sys2Proof.Machine

/-! ### Squares and quarters that fail (O48) -/

namespace Sys2Proof.Machine

/-- A job that waits for square 0. -/
def waitingJob : Job :=
  { id := 5, ctx := 0, seq := 0, prio := 0, order := 0, entry := 0, arg := 0, sqmask := 1, compl := 0,
    tag := 0, home := 0 }

/-- Square 17 has a waiting job as its own, and square 0, for which that job waits, has FAILED. -/
def waitingJobOnSquare : State :=
  { State.reset with squares := [(0, { st := .failed }), (17, { job := 5 })], jobs := [waitingJob] }

/-- The failure of square 16 sweeps the waiting jobs (R64) before the failure of square 17 ends its job (R42):
    the job has ended for square 0. -/
theorem linkFail_jobs_of_waitingJobOnSquare : (linkFail 1 waitingJobOnSquare).jobs =
    [{ waitingJob with stage := .ended, status := 4, detail := 0 }] := by decide +kernel

/-- Refutes O48, in the clause of D2D_LINK_FAIL that names a failed square of the quarter in DETAIL of the job
    of each of its squares: the statement lets the job of a square be one that still waits, and such a job may
    have ended for a square of its mask that lies in another quarter. -/
theorem not_squareAndStructureResults : ¬ Obligations.SquareAndStructureResults := by
  unfold Obligations.SquareAndStructureResults
  intro h
  obtain ⟨-, -, -, -, hlink, -⟩ := h 0 waitingJobOnSquare
  obtain ⟨t, hexec, -, -, hsq⟩ := hlink 1
  obtain ⟨-, hwork⟩ := hsq 17 (by decide)
  obtain ⟨-, -, hjob⟩ := hwork (by decide)
  obtain ⟨m, hm, -, -, -, hdetail⟩ := hjob waitingJob (by decide) (by decide) (by decide)
  have ht : linkFail 1 waitingJobOnSquare = t := by injection hexec
  rw [← ht, linkFail_jobs_of_waitingJobOnSquare, List.mem_singleton] at hm
  subst hm
  exact absurd hdetail (by decide)

end Sys2Proof.Machine

/-! ### Supplies (R476, R483, R558, R561) -/

namespace Sys2Proof.Machine

/-- The management domain has no supply. -/
theorem supplied_eq_false {s : State} :
    supplied s = false ↔ ¬ (s.boot.vinValid = true ∨ s.boot.vaux = true) := by
  unfold supplied
  cases s.boot.vinValid <;> cases s.boot.vaux <;> simp

theorem supplied_eq_true {s : State} : supplied s = true ↔ s.boot.vinValid = true ∨ s.boot.vaux = true := by
  unfold supplied
  rw [Bool.or_eq_true]

/-- No boot starts while the management domain is down. -/
theorem bootIfFree_of_not_powered {s : State} (h : s.boot.powered = false) : bootIfFree s = s := by
  unfold bootIfFree
  exact if_neg (by rw [h]; simp)

/-- No boot starts while device reset is held. -/
theorem bootIfFree_of_held {s : State} (h : heldReset s = true) : bootIfFree s = s := by
  unfold bootIfFree
  exact if_neg (by rw [h]; simp)

theorem bootIfFree_of_free {s : State} (hp : s.boot.powered = true) (h : heldReset s = false) :
    bootIfFree s = romBoot s := by
  unfold bootIfFree
  exact if_pos (by rw [hp, h]; rfl)

/-- VIN on a part without a supply is a power-on (R558). -/
theorem vinValid_of_not_supplied (mv : BitVec 16) (z : Straps) {s : State} (h : supplied s = false) :
    ∃ w p, vinValid mv z s = { powerOn z s with boot := { first := true, vinValid := true, start := w }, pw := p } := by
  have hv : s.boot.vinValid = false := by
    unfold supplied at h
    exact (Bool.or_eq_false_iff.mp h).1
  have hb : (powerOn z s).boot = { first := true } := rfl
  unfold vinValid
  rw [if_neg (by simp [hv]), h]
  generalize powerOn z s = u at hb ⊢
  simp only [Bool.not_false, if_true, hb]
  by_cases hh : s.boot.held = true
  · simp only [hh, if_true]
    rw [bootIfFree_of_not_powered rfl]
    exact ⟨0, _, rfl⟩
  · simp only [hh]
    exact ⟨_, _, rfl⟩

/-- With VAUX present and no device reset held by VIN, VIN is noted (R483). -/
theorem vinValid_of_vaux (mv : BitVec 16) (z : Straps) {s : State} (hv : s.boot.vinValid = false)
    (ha : s.boot.vaux = true) (hh : s.boot.held = false) :
    ∃ b p, vinValid mv z s = { s with boot := b, pw := p } ∧ b.vinValid = true := by
  unfold vinValid
  rw [if_neg (by simp [hv])]
  simp only [supplied, hv, ha, hh]
  exact ⟨_, _, rfl, rfl⟩

/-- VAUX on a part without a supply is a power-on (R561). -/
theorem vauxValid_of_not_supplied (z : Straps) {s : State} (h : supplied s = false) :
    vauxValid z s = { powerOn z s with boot := { first := true, vaux := true } } := by
  unfold vauxValid
  simp only [h]
  rfl

theorem vauxValid_of_supplied (z : Straps) {s : State} (h : supplied s = true) :
    vauxValid z s = { s with boot := { s.boot with vaux := true } } := by
  unfold vauxValid
  simp only [h, if_true]

/-- A loss of the last supply unpowers the part; the NV store is found as of one of its last words (R497). -/
theorem powerLoss_unpowered (s : State) : Unpowered s (powerLoss s) := by
  refine ⟨rfl, rfl, rfl, rfl, rfl, rfl, rfl, ?_, rfl⟩
  show (s.nv :: s.nvWas).getD (Config.freeNat s.free % (s.nvWas.length + 1)) s.nv ∈ s.nv :: s.nvWas
  have hn : Config.freeNat s.free % (s.nvWas.length + 1) < (s.nv :: s.nvWas).length := Nat.mod_lt _ (by simp)
  rw [List.getD_eq_getElem?_getD, List.getElem?_eq_getElem hn, Option.getD_some]
  exact List.getElem_mem hn

/-! ### The end of a debug level, and device reset (R589, R628) -/

theorem nvLogs_debugEntry (level : BitVec 2) (meas : List Byte) (slot : Byte) (duration certid : List Byte)
    (s : State) : NvLogs s.nv (debugEntry level meas slot duration certid s).nv :=
  (nvLogs_logChange _ _ _ _ s).trans_grows (nvGrows_changeDone _)

@[simp] theorem outsideNv_debugEntry (level : BitVec 2) (meas : List Byte) (slot : Byte)
    (duration certid : List Byte) (s : State) :
    outsideNv (debugEntry level meas slot duration certid s) = outsideNv s := by
  rw [debugEntry, outsideNv_changeDone, outsideNv_logChange]

@[simp] theorem outsideNv_resetLevel (s : State) : outsideNv (resetLevel s) = outsideNv s := by
  unfold resetLevel
  split
  · rfl
  · exact outsideNv_debugEntry _ _ _ _ _ s

/-- A device reset enters the end of a debug level, and nothing when none is in force (R628). -/
theorem resetLevel_nv (s : State) :
    (s.ik.level = 0 → (resetLevel s).nv = s.nv) ∧ (s.ik.level ≠ 0 → NvLogs s.nv (resetLevel s).nv) := by
  unfold resetLevel
  refine ⟨fun h => ?_, fun h => ?_⟩
  · rw [if_pos h]
  · rw [if_neg h]
    exact nvLogs_debugEntry _ _ _ _ _ s

/-- What a device reset makes of the boot registers, memory and time, and where its NV store comes from. -/
theorem deviceState_parts (c : BitVec 4) (s : State) :
    (deviceState c s).boot = keptBoot c s.boot ∧ (deviceState c s).engines = [] ∧ (deviceState c s).hbm = s.hbm ∧
      (deviceState c s).mg.timebase = s.mg.timebase ∧ (deviceState c s).nv = (resetLevel s).nv := by
  have hn := besideWork_abortNotices (resetLevel s)
  have ho := outsideNv_resetLevel s
  exact ⟨congrArg (keptBoot c) ((besideWork_boot hn).trans (outsideNv_boot ho)), rfl,
    (besideWork_hbm hn).trans (outsideNv_hbm ho), (besideWork_timebase hn).trans (outsideNv_timebase ho), (besideWork_nv hn :)⟩

/-- VIN_RESET with VAUX present stops conversion and holds device reset (R558). -/
theorem vinReset_of_vaux {s : State} (hv : s.boot.vinValid = true) (ha : s.boot.vaux = true) :
    ∃ c b p, vinReset s = deviceState c { conversionStop { s with free := s.free + 1 } with boot := b, pw := p } ∧
      b.held = true ∧ b.vinValid = false ∧ b.conversion = false ∧ b.powered = s.boot.powered := by
  unfold vinReset
  rw [if_neg (by simp [hv]), if_neg (by simp [ha])]
  exact ⟨_, _, _, rfl, rfl, rfl, rfl, rfl⟩
end Sys2Proof.Machine

/-! ### The Boot Ledger as a boot takes it up (R495, R509, Table 12.5a) -/

namespace Sys2Proof.Machine

theorem leNat_lt (bs : List Byte) : leNat bs < 256 ^ bs.length := by
  induction bs with
  | nil => simp [leNat]
  | cons b bs ih =>
    have := b.isLt
    simp only [leNat, List.length_cons, Nat.pow_succ]
    omega

theorem fieldAt_lt (bs : List Byte) (off n : Nat) : fieldAt bs off n < 256 ^ n := by
  have h := leNat_lt (bytesAt bs off n)
  have hlen : (bytesAt bs off n).length = n := by
    simp only [bytesAt, List.length_append, List.length_take, List.length_drop, List.length_replicate]
    omega
  rwa [hlen] at h

/-- An entry that an error spoils shows the greatest SEQ (R499). -/
theorem fieldAt_shown_le (n : Nv) (e : List Byte) : fieldAt e 0 8 ≤ fieldAt (n.shown e) 0 8 := by
  unfold Nv.shown
  split
  · have h := fieldAt_lt e 0 8
    rw [show fieldAt (List.replicate 128 0xFF) 0 8 = 256 ^ 8 - 1 from by decide]
    omega
  · exact Nat.le_refl _

theorem seq_le_chainOn (l : List (List Byte)) (h : HeadRec) : h.seq ≤ (chainOn h l).seq := by
  induction l generalizing h with
  | nil => exact Nat.le_refl _
  | cons e l ih =>
    unfold chainOn
    split
    · next he => exact Nat.le_trans (by simp only [headAfter]; omega) (ih _)
    · exact Nat.le_refl _

/-- Entries after those that a chain reaches add nothing to it. -/
theorem chainOn_append {a b : List (List Byte)} {h : HeadRec}
    (hb : ∀ e ∈ b, (chainOn h (a ++ b)).seq < fieldAt e 0 8) : chainOn h (a ++ b) = chainOn h a := by
  induction a generalizing h with
  | nil =>
    cases b with
    | nil => rfl
    | cons e b =>
      have he := hb e (by simp)
      simp only [List.nil_append, chainOn] at he ⊢
      split at he
      · next hseq =>
        have := seq_le_chainOn b (headAfter h.head e)
        simp only [headAfter] at this he
        omega
      · next hseq => rw [if_neg hseq]
  | cons e a ih =>
    simp only [List.cons_append, chainOn] at hb ⊢
    split at hb
    · next hseq => rw [if_pos hseq, if_pos hseq, ih hb]
    · next hseq => rw [if_neg hseq, if_neg hseq]

/-- So do they to a head record that is rebuilt. -/
theorem rebuildHead_append {a b : List (List Byte)}
    (hb : ∀ e ∈ b, (rebuildHead (a ++ b)).seq < fieldAt e 0 8) : rebuildHead (a ++ b) = rebuildHead a := by
  induction a with
  | nil =>
    rw [List.nil_append] at hb ⊢
    induction b with
    | nil => rfl
    | cons e b ih =>
      have he := hb e (by simp)
      have hrest := fun x hx => hb x (List.mem_cons_of_mem e hx)
      simp only [rebuildHead] at he hrest ⊢
      split at he
      · omega
      · next h0 =>
        split at he
        · have := seq_le_chainOn b (headAfter (hashWord (bytesAt e 0x20 64)) e)
          simp only [headAfter] at this he
          omega
        · next hck =>
          rw [if_neg h0, if_neg hck] at hrest ⊢
          exact ih hrest
  | cons e a ih =>
    simp only [List.cons_append, rebuildHead] at hb ⊢
    split at hb
    · next h0 => rw [if_pos h0, if_pos h0, chainOn_append hb]
    · next h0 =>
      rw [if_neg h0, if_neg h0]
      split at hb
      · next hck => rw [if_pos hck, if_pos hck, chainOn_append hb]
      · next hck => rw [if_neg hck, if_neg hck, ih hb]

/-- A ledger cut to what its chain reaches has the same head record (Table 12.5a). -/
theorem chainedLedger_headRec (n : Nv) : (chainedLedger n).headRec = n.headRec := by
  unfold chainedLedger
  split
  · rfl
  · next hnone =>
    have hval : (n.held 6 n.head).value = none := by simpa using hnone
    have hrec : n.headRec = rebuildHead (n.ledger.reverse.map n.shown) := by rw [Nv.headRec, hval]; rfl
    generalize hcut : (fun e : List Byte => decide (n.headRec.seq < fieldAt e 0 8)) = p
    show ((n.held 6 n.head).value.getD (rebuildHead ((n.ledger.dropWhile p).reverse.map n.shown))) = _
    rw [hval, Option.getD_none]
    have happ : n.ledger.reverse.map n.shown =
        (n.ledger.dropWhile p).reverse.map n.shown ++ (n.ledger.takeWhile p).reverse.map n.shown := by
      rw [← List.map_append, ← List.reverse_append, List.takeWhile_append_dropWhile]
    rw [hrec, happ]
    refine (rebuildHead_append fun e he => ?_).symm
    rw [← happ, ← hrec]
    obtain ⟨x, hx, rfl⟩ := List.mem_map.mp he
    have hpx := List.all_eq_true.mp List.all_takeWhile x (List.mem_reverse.mp hx)
    rw [← hcut, decide_eq_true_eq] at hpx
    exact Nat.lt_of_lt_of_le hpx (fieldAt_shown_le n x)

end Sys2Proof.Machine

namespace Sys2Proof.Machine

/-! ### The ROM's steps 3 and 4 (R482, R489, R491) -/

theorem trainLinks_eq (s : State) : ∃ x, trainLinks s = { s with frx := x } := by
  unfold trainLinks
  split
  · exact ⟨s.frx, rfl⟩
  · exact ⟨_, rfl⟩

/-- An entry that a loss of power has left whole in the next slot is chained in (R509). -/
theorem acceptTail_seq (s : State) : s.nv.headRec.seq ≤ (acceptTail s).nv.headRec.seq := by
  unfold acceptTail
  dsimp only
  split
  · exact Nat.le_refl _
  · next h =>
    have hseq : fieldAt s.nv.tail 0 8 = s.nv.nextSeq := by
      simp only [Bool.or_eq_true, bne_iff_ne, ne_eq, not_or, Decidable.not_not] at h
      exact h.2
    obtain ⟨w, ht, -⟩ := nvRecordFrom_eq 6 (fun r => { s.nv with head := r }) (recorded s.nv s.nv.tail) s.nv.head
      (headAfter s.nv.headRec.head s.nv.tail) s
    rw [ht, State.nvSet_nv, Nv.headRec_both rfl (Nv.bad_renewed_both _ 6)]
    show _ ≤ fieldAt s.nv.tail 0 8
    rw [hseq]
    exact Nat.le_succ _

/-- The changes that a boot finds open leave the counts and the head record (R506). -/
theorem undone_parts (n : Nv) :
    (undone n).headRec = n.headRec ∧ (undone n).boots = n.boots ∧ (undone n).bootCount = n.bootCount := by
  have hkey (n : Nv) (o : Opened) : ∃ k, restoreKey n o = { n with keys := k } := by
    unfold restoreKey
    split
    · exact ⟨_, rfl⟩
    · exact ⟨n.keys, rfl⟩
  have hfold : ∀ (l : List Opened) (n : Nv), ∃ k, l.foldl restoreKey n = { n with keys := k } := by
    intro l
    induction l with
    | nil => exact fun n => ⟨n.keys, rfl⟩
    | cons o l ih =>
      intro n
      obtain ⟨k, hk⟩ := hkey n o
      obtain ⟨k', hk'⟩ := ih (restoreKey n o)
      exact ⟨k', by rw [List.foldl_cons, hk', hk]⟩
  obtain ⟨k, hk⟩ := hfold n.opened n
  unfold undone
  rw [hk]
  exact ⟨rfl, rfl, rfl⟩

/-- The boot count as both copies of its record have it, or the one that is valid. -/
def Nv.counted (n : Nv) : Option (BitVec 32) := (n.held 2 n.bootCount).count

theorem Nv.boots_of_counted {n : Nv} {b : BitVec 32} (h : n.counted = some b) : n.boots = b := by
  unfold Nv.boots
  rw [show (n.held 2 n.bootCount).count = some b from h]
  rfl

theorem NvGrows.counted {n m : Nv} (h : NvGrows n m) : m.counted = n.counted := by
  unfold Nv.counted
  rw [h.bootCount]

/-- Does the part convert, and is its management domain up? -/
def Boot.domains (b : Boot) : Bool × Bool := (b.conversion, b.powered)

theorem Boot.domains_congr {b c : Boot} (hc : b.conversion = c.conversion) (hp : b.powered = c.powered) :
    b.domains = c.domains := by
  unfold Boot.domains
  rw [hc, hp]

/-- What the ROM keeps as it goes on, once step 3 has counted the boot. -/
structure RomGoes (s t : State) : Prop where
  domains : t.boot.domains = s.boot.domains
  nv : NvGrows s.nv t.nv

theorem RomGoes.refl (s : State) : RomGoes s s := ⟨rfl, .refl _⟩

theorem RomGoes.trans {s t u : State} (h : RomGoes s t) (k : RomGoes t u) : RomGoes s u :=
  ⟨k.domains.trans h.domains, h.nv.trans k.nv⟩

/-- Work on the NV store alone goes on so where the store grows. -/
theorem RomGoes.of_nv {s t : State} (h : outsideNv t = outsideNv s) (k : NvGrows s.nv t.nv) : RomGoes s t :=
  ⟨congrArg Boot.domains (outsideNv_boot h), k⟩

theorem romGoes_nvMeet (fs : List NvFlaw) (s : State) : RomGoes s (nvMeet fs s) :=
  .of_nv (outsideNv_nvMeet fs s) (nvGrows_nvMeet fs s)

theorem romGoes_refusal (slotB : Bool) (code : Nat) (x : ImgSlot) (s : State) : RomGoes s (refusal slotB code x s) :=
  .of_nv (outsideNv_refusal slotB code x s) (nvGrows_refusal slotB code x s)

theorem romGoes_romEntry (typ : BitVec 16) (comp meas data : List Byte) (s : State) :
    RomGoes s (romEntry typ comp meas data s) :=
  .of_nv (outsideNv_romEntry typ comp meas data s) (nvGrows_appendEntry _ s)

theorem romEntry_seq (typ : BitVec 16) (comp meas data : List Byte) (s : State) :
    (romEntry typ comp meas data s).nv.headRec.seq = s.nv.headRec.seq + 1 := appendEntry_seq _ s

/-- Step 3 is the record of the boot count, and health entries. -/
theorem romStart_eq (s : State) : ∃ v,
    let u := acceptTail { s with nv := chainedLedger s.nv }
    let n := undone u.nv
    romStart s = (List.range (lostRecords s.nv)).foldl (fun s _ => health 9 0xFFFF [] s)
      (meetCounters (nvRecord 2 (fun r => { n with bootCount := r }) n.bootCount (n.boots + 1) v)) ∧
      v.boot.domains = u.boot.domains := ⟨_, rfl, Boot.domains_congr rfl rfl⟩

/-- The boot count written is read as written, and the head record stays. -/
theorem nvRecord_bootCount (n : Nv) (b : BitVec 32) (v : State) :
    let m := (nvRecord 2 (fun r => { n with bootCount := r }) n.bootCount b v).nv
    m.counted = some b ∧ m.headRec = n.headRec := by
  obtain ⟨i, h⟩ := nvRecord_nv 2 (fun r => { n with bootCount := r }) n.bootCount b v
  dsimp only
  rw [h]
  refine ⟨Nv.count_held_both (Nv.bad_renewed_both _ 2), Nv.headRec_congr rfl rfl (fun c => ?_) fun k => ?_⟩
  all_goals exact (Nv.bad_renewed_other _ (by simp)).trans (Nv.bad_renewed_other _ (by simp))

theorem acceptTail_boot (s : State) : (acceptTail s).boot = s.boot := by
  unfold acceptTail
  dsimp only
  split
  · rfl
  · obtain ⟨w, ht, hw⟩ := nvRecordFrom_eq 6 (fun r => { s.nv with head := r }) (recorded s.nv s.nv.tail) s.nv.head
      (headAfter s.nv.headRec.head s.nv.tail) s
    rw [ht]
    exact outsideNv_boot hw

/-- What a boot finds in the ledger is in the NV store. -/
theorem bootLedger_congr {s t : State} (h : t.nv = s.nv) : bootLedger t = bootLedger s := by
  have htail (s : State) (n : Nv) : (acceptTail { s with nv := n }).nv =
      if n.tail.isEmpty || fieldAt n.tail 0 8 != n.nextSeq then n else
        let c := some ((n.held 6 n.head).writes + 1, headAfter n.headRec.head n.tail)
        ((recorded n n.tail ⟨c, c⟩).renewed (.counter 6 false)).renewed (.counter 6 true) := by
    unfold acceptTail
    dsimp only
    split
    · rfl
    · obtain ⟨w, ht, -⟩ := nvRecordFrom_eq 6 (fun r => { n with head := r }) (recorded n n.tail) n.head
        (headAfter n.headRec.head n.tail) { s with nv := n }
      rw [ht, State.nvSet_nv]
  unfold bootLedger
  rw [htail, htail, h]

/-- Step 3 counts the boot, and no entry of the ledger is lost that its chain reaches (R495, R509). -/
theorem romStart_parts (s : State) :
    (romStart s).boot.domains = s.boot.domains ∧ (romStart s).nv.counted = some ((bootLedger s).boots + 1) ∧
      s.nv.headRec.seq ≤ (romStart s).nv.headRec.seq := by
  have hseq := acceptTail_seq { s with nv := chainedLedger s.nv }
  rw [show ({ s with nv := chainedLedger s.nv } : State).nv = chainedLedger s.nv from rfl, chainedLedger_headRec] at hseq
  have hboot := acceptTail_boot { s with nv := chainedLedger s.nv }
  obtain ⟨v, hs, hv⟩ := romStart_eq s
  unfold bootLedger
  generalize acceptTail { s with nv := chainedLedger s.nv } = u at hseq hboot hs hv ⊢
  obtain ⟨hhead, hboots, -⟩ := undone_parts u.nv
  obtain ⟨hcount, hrec⟩ := nvRecord_bootCount (undone u.nv) ((undone u.nv).boots + 1) v
  have hout := outsideNv_nvRecord 2 (fun r => { undone u.nv with bootCount := r }) (undone u.nv).bootCount
    ((undone u.nv).boots + 1) v
  have hgo : RomGoes (nvRecord 2 (fun r => { undone u.nv with bootCount := r }) (undone u.nv).bootCount
      ((undone u.nv).boots + 1) v) (romStart s) := by
    rw [hs]
    exact (romGoes_nvMeet _ _).trans (foldl_rel RomGoes.refl RomGoes.trans (fun s _ => .of_nv
      (outsideNv_health 9 0xFFFF [] s) (nvGrows_health 9 0xFFFF [] s)) _ _)
  refine ⟨?_, ?_, ?_⟩
  · rw [hgo.domains, outsideNv_boot hout, hv, hboot]
  · rw [hgo.nv.counted, hcount, hboots]
  · have := hgo.nv.seq
    rw [hrec, hhead] at this
    omega
end Sys2Proof.Machine

namespace Sys2Proof.Machine

/-- A code noted in the boot registers. -/
theorem setFwCode_domains (slotB : Bool) (c : BitVec 4) (b : Boot) : (setFwCode slotB c b).domains = b.domains := by
  unfold setFwCode
  split <;> rfl

theorem romGoes_setBoot {b : Boot} {s : State} (h : b.domains = s.boot.domains) (k : Nat) :
    RomGoes s { s with boot := b, free := k } := ⟨h, .refl _⟩

theorem romGoes_romSlot (slotB : Bool) (s : State) : RomGoes s (romSlot slotB s) := by
  unfold romSlot
  refine .trans ?_ (romGoes_refusal slotB _ _ _)
  exact (romGoes_nvMeet [.firmware slotB] s).trans (romGoes_setBoot (setFwCode_domains _ _ _) _)

theorem romGoes_romSlots (s : State) : RomGoes s (romSlots s) := by
  unfold romSlots
  refine .trans (.trans ?_ (romGoes_romSlot false _)) (romGoes_romSlot true _)
  exact (romGoes_nvMeet [.key 8] s).trans (romGoes_setBoot
    (show Boot.domains { s.boot with step := 4 } = _ from (romGoes_nvMeet [.key 8] s).domains.symm) _)

theorem romGoes_romCopy (slotB : Bool) (s : State) : RomGoes s (romCopy slotB s) := by
  unfold romCopy
  split
  · dsimp only
    refine .trans ?_ (romGoes_refusal slotB _ _ _)
    exact romGoes_setBoot (setFwCode_domains _ _ _) _
  · exact .refl s

theorem romGoes_romSelect (fuel : Nat) (s : State) : RomGoes s (romSelect fuel s).2 := by
  induction fuel generalizing s with
  | zero => exact .refl s
  | succ fuel ih =>
    unfold romSelect
    split
    · exact .refl s
    · next slotB _ =>
      dsimp only
      split
      · exact romGoes_romCopy slotB s
      · exact (romGoes_romCopy slotB s).trans (ih _)

/-- How step 4 ends: the steward runs and waits in the step that conversion and the image leave it (R482, R492), or
    the ROM has stopped (R491). -/
def RomEnds (d : Bool × Bool) (t : State) : Prop :=
  t.boot.domains = d ∧
    ((t.mg.running = true ∧ t.boot.step = (if t.boot.recovery then 4 else if d.1 then 5 else 2)) ∨
      (t.mg.running = false ∧ t.boot.step = 15))

/-- The steward starts, with the part in the step it waits in. -/
theorem afterRom_startSteward (i : List Byte) (s : State) :
    RomEnds s.boot.domains (afterRom (startSteward i s)) ∧ (afterRom (startSteward i s)).nv = s.nv := by
  unfold afterRom
  obtain ⟨x, h⟩ := trainLinks_eq (startSteward i s)
  rw [h]
  exact ⟨⟨rfl, .inl ⟨rfl, rfl⟩⟩, rfl⟩

theorem romFirmware_ends (slotB : Bool) (s : State) :
    RomEnds s.boot.domains (romFirmware slotB s) ∧ NvGrows s.nv (romFirmware slotB s).nv := by
  unfold romFirmware
  extract_lets i s1
  have hgo : RomGoes s s1 := romGoes_romEntry _ _ _ _ s
  obtain ⟨hends, hnv⟩ := afterRom_startSteward i { s1 with boot := { s1.boot with fwslotB := slotB, recovery := false } }
  rw [hnv, ← hgo.domains]
  exact ⟨hends, hgo.nv⟩

theorem romRecovery_ends (s : State) :
    RomEnds s.boot.domains (romRecovery s) ∧ NvGrows s.nv (romRecovery s).nv := by
  unfold romRecovery
  extract_lets i s1
  have hgo : RomGoes s s1 := romGoes_romEntry _ _ _ _ s
  obtain ⟨hends, hnv⟩ := afterRom_startSteward i { s1 with boot := { s1.boot with recovery := true } }
  rw [hnv, ← hgo.domains]
  exact ⟨hends, hgo.nv⟩

theorem romGo_ends (slot : Option Bool) (s : State) :
    RomEnds s.boot.domains (romGo slot s) ∧ NvGrows s.nv (romGo slot s).nv := by
  unfold romGo
  split
  · next slotB => exact romFirmware_ends slotB s
  · have hgo : RomGoes s (nvMeet [.factory] { s with free := s.free + 1 }) :=
      .trans (romGoes_setBoot rfl _) (romGoes_nvMeet [.factory] { s with free := s.free + 1 })
    dsimp only
    rw [← hgo.domains]
    split
    · obtain ⟨hends, hnv⟩ := romRecovery_ends (nvMeet [.factory] { s with free := s.free + 1 })
      exact ⟨hends, hgo.nv.trans hnv⟩
    · exact ⟨⟨rfl, .inr ⟨rfl, rfl⟩⟩, hgo.nv⟩

/-- The ROM's entries BOOT and ROM (R504). -/
theorem romEntries_parts (s : State) :
    RomGoes s (romEntries s) ∧ (romEntries s).nv.headRec.seq = s.nv.headRec.seq + 2 := by
  unfold romEntries
  extract_lets b
  exact ⟨.trans (romGoes_romEntry _ _ _ _ s) (romGoes_romEntry _ _ _ _ _), by rw [romEntry_seq, romEntry_seq]⟩

theorem romBoot_eq (s : State) : romBoot s =
    romGo (romSelect 2 (romSlots (romEntries (romStart s)))).1 (romSelect 2 (romSlots (romEntries (romStart s)))).2 := by
  unfold romBoot
  generalize romSelect 2 (romSlots (romEntries (romStart s))) = x
  rfl

/-- A boot of the ROM counts itself, writes at least its two entries, and ends in one of the ways of step 4. -/
theorem romBoot_parts (s : State) :
    RomEnds s.boot.domains (romBoot s) ∧ (romBoot s).nv.boots = (bootLedger s).boots + 1 ∧
      s.nv.headRec.seq + 2 ≤ (romBoot s).nv.headRec.seq := by
  obtain ⟨hdomains, hcount, hseq⟩ := romStart_parts s
  obtain ⟨hgo, hentries⟩ := romEntries_parts (romStart s)
  have hslots := romGoes_romSlots (romEntries (romStart s))
  have hsel := romGoes_romSelect 2 (romSlots (romEntries (romStart s)))
  rw [romBoot_eq]
  generalize romSelect 2 (romSlots (romEntries (romStart s))) = x at hsel ⊢
  have hall := hgo.trans (hslots.trans hsel)
  obtain ⟨hends, hgrow⟩ := romGo_ends x.1 x.2
  rw [hall.domains, hdomains] at hends
  refine ⟨hends, Nv.boots_of_counted ((hall.nv.trans hgrow).counted.trans hcount), ?_⟩
  calc s.nv.headRec.seq + 2 ≤ (romEntries (romStart s)).nv.headRec.seq := by omega
    _ ≤ _ := ((hslots.trans hsel).nv.trans hgrow).seq

end Sys2Proof.Machine

namespace Sys2Proof.Machine

/-! ### Steps 1 and 2 (R482, R489) -/

theorem vinReset_of_not_valid {s : State} (h : s.boot.vinValid = false) : vinReset s = s := by
  unfold vinReset
  exact if_pos (by rw [h]; rfl)

theorem vinReset_of_not_vaux {s : State} (hv : s.boot.vinValid = true) (ha : s.boot.vaux = false) :
    vinReset s = powerLoss s := by
  unfold vinReset
  rw [if_neg (by simp [hv]), if_pos (by simp [ha])]

theorem vauxLoss_of_vin {s : State} (h : s.boot.vinValid = true) :
    vauxLoss s = { s with boot := { s.boot with vaux := false } } := by
  unfold vauxLoss
  exact if_pos h

theorem vauxLoss_of_last {s : State} (hv : s.boot.vinValid = false) (ha : s.boot.vaux = true) :
    vauxLoss s = powerLoss s := by
  unfold vauxLoss
  rw [if_neg (by simp [hv]), if_pos ha]

/-- The pins of a part without a supply (R667). -/
theorem pinLevels_of_not_supplied {s : State} (h : supplied s = false) :
    pinLevels s = ⟨false, false, false, false, false⟩ := by
  have hon : (s.boot.vinValid || s.boot.vaux) = false := h
  unfold pinLevels
  simp only [hon, Bool.false_and]

theorem pinLevels_of_supplied {s : State} (h : supplied s = true) :
    pinLevels s = ⟨s.boot.ready, s.mg.alert != 0 || s.boot.step == 15, s.pins.thermtrip, true, true⟩ := by
  have hon : (s.boot.vinValid || s.boot.vaux) = true := h
  unfold pinLevels
  simp only [hon, Bool.true_and]

theorem managementUp_of_up {s : State} (h : s.boot.powered = true ∨ supplied s = false) : managementUp s = s := by
  unfold managementUp
  refine if_pos ?_
  rcases h with h | h <;> rw [h] <;> simp

theorem managementUp_of_down {s : State} (hp : s.boot.powered = false) (h : supplied s = true) :
    managementUp s = bootIfFree { s with boot := { s.boot with powered := true } } := by
  unfold managementUp
  exact if_neg (by rw [hp, h]; simp)

/-- What a boot of the ROM leaves, on a part with its management domain up (R482). -/
theorem romBoot_up {s u : State} (hp : u.boot.powered = true) (hconv : u.boot.conversion = s.boot.conversion)
    (hnv : u.nv = s.nv) :
    (romBoot u).boot.powered = true ∧ (romBoot u).nv.boots = (bootLedger s).boots + 1 ∧
      s.nv.headRec.seq + 2 ≤ (romBoot u).nv.headRec.seq ∧
      ((romBoot u).boot.step = 15 ↔ (romBoot u).mg.running = false) ∧
      ((romBoot u).mg.running = true →
        (romBoot u).boot.step = (if (romBoot u).boot.recovery then 4 else if s.boot.conversion then 5 else 2)) := by
  obtain ⟨⟨hdomains, hends⟩, hboots, hseq⟩ := romBoot_parts u
  rw [bootLedger_congr hnv] at hboots
  rw [hnv] at hseq
  rw [show u.boot.domains.1 = _ from hconv] at hends
  generalize romBoot u = t at hends hdomains hboots hseq ⊢
  refine ⟨(congrArg Prod.snd hdomains).trans hp, hboots, hseq, ?_⟩
  rcases hends with ⟨hr, hstep⟩ | ⟨hr, hstep⟩
  · have hne : t.boot.step ≠ 15 := by
      rw [hstep]
      split
      · decide
      · split <;> decide
    exact ⟨⟨fun h => absurd h hne, fun h => absurd (hr.symm.trans h) (by decide)⟩, fun _ => hstep⟩
  · exact ⟨by simp [hr, hstep], by simp [hr]⟩

/-- The management domain comes up and device reset does not hold the part: the ROM boots (R482). -/
theorem managementUp_free {s : State} (hp : s.boot.powered = false) (h : supplied s = true)
    (hfree : heldReset s = false) : ∃ u, managementUp s = romBoot u ∧ u.boot.powered = true ∧
      u.boot.conversion = s.boot.conversion ∧ u.nv = s.nv :=
  ⟨_, (managementUp_of_down hp h).trans (bootIfFree_of_free rfl hfree), rfl, rfl, rfl⟩

theorem managementUp_held {s : State} (hp : s.boot.powered = false) (h : supplied s = true)
    (hheld : heldReset s = true) : managementUp s = { s with boot := { s.boot with powered := true } } := by
  rw [managementUp_of_down hp h]
  exact bootIfFree_of_held hheld

theorem conversionUp_of_not {s : State}
    (h : s.boot.vinValid = false ∨ s.boot.conversion = true ∨ s.pins.thermtrip = true) : conversionUp s = s := by
  unfold conversionUp
  refine if_pos ?_
  rcases h with h | h | h <;> rw [h] <;> simp

/-- Conversion up notes the lock of REFCLK and takes a steward that waits to step 5. -/
theorem conversionUp_eq {s : State} (hv : s.boot.vinValid = true) (hc : s.boot.conversion = false)
    (ht : s.pins.thermtrip = false) : ∃ x, conversionUp s =
      { s with mg := { s.mg with refLock := true }, frx := x, boot := { s.boot with
          conversion := true, step := if s.boot.step = 2 ∧ s.mg.running then 5 else s.boot.step } } := by
  unfold conversionUp
  rw [if_neg (by simp [hv, hc, ht])]
  by_cases hstep : (if s.boot.step = 2 ∧ s.mg.running then (5 : BitVec 4) else s.boot.step) = 5
  · obtain ⟨x, hx⟩ := trainLinks_eq { s with
      mg := { s.mg with refLock := true }
      boot := { s.boot with conversion := true,
                            step := if s.boot.step = 2 ∧ s.mg.running then 5 else s.boot.step } }
    exact ⟨x, (if_pos hstep).trans hx⟩
  · exact ⟨s.frx, if_neg hstep⟩

end Sys2Proof.Machine

namespace Sys2Proof.Machine

/-! ### Step 5 (R76, R128, R426) -/

/-- With FORCE_OPENING high no structure is chosen (R426). -/
theorem selectStructure_of_force {s : State} (h : s.pins.force = true) : (selectStructure s).1 = none := by
  unfold selectStructure
  rw [if_pos h]

theorem trainingDone_of_not (rows : BitVec 16) {s : State} (h : inStep 5 s = false) : trainingDone rows s = s := by
  unfold trainingDone
  exact if_pos (by rw [h]; rfl)

/-- The end of training sets the interleave, the counts of the spare rows and the structure of the boot. -/
theorem trainingDone_eq (rows : BitVec 16) {s : State} (h : inStep 5 s = true) :
    ∃ u c ca cb, outsideNv u = outsideNv s ∧ trainingDone rows s = { u with
      hub := { u.hub with
        spareHard := satAdd (satAdd u.hub.spareHard u.hub.sparePending.toNat) rows.toNat, sparePending := 0,
        spareRows := [], ilvLocal := Board.ilvLocal c, chskew := Board.chskew c, bkskew := Board.bkskew c }
      boot := { u.boot with step := 6, next := (selectStructure s).1, stCodeA := ca, stCodeB := cb } } := by
  unfold trainingDone
  rw [if_neg (by rw [h]; simp)]
  generalize selectStructure s = x
  obtain ⟨b, ca, cb⟩ := x
  refine ⟨_, _, _, _, ?_, rfl⟩
  rw [outsideNv_refusal, outsideNv_refusal]
  split
  · rfl
  · exact outsideNv_nvMeet _ s

/-- Step 5 ends (R128, R426). -/
theorem trainingDone_parts (rows : BitVec 16) {s : State} (h : inStep 5 s = true) :
    (trainingDone rows s).boot.step = 6 ∧
      (trainingDone rows s).hub.spareHard = satAdd (satAdd s.hub.spareHard s.hub.sparePending.toNat) rows.toNat ∧
      (trainingDone rows s).hub.sparePending = 0 ∧
      (s.pins.force = true → (trainingDone rows s).boot.next = none) ∧ SameMemory s (trainingDone rows s) := by
  obtain ⟨u, c, ca, cb, hu, ht⟩ := trainingDone_eq rows h
  rw [ht]
  refine ⟨rfl, ?_, rfl, selectStructure_of_force, sameMemory_of_outsideNv (s := s) (t := u) hu⟩
  show satAdd (satAdd u.hub.spareHard u.hub.sparePending.toNat) rows.toNat = _
  rw [outsideNv_hub hu]

/-! ### Steps 6 and 7 (R129, R426, R485) -/

theorem zeroFillDone_of_not {s : State} (h : inStep 6 s = false) : zeroFillDone s = s := by
  unfold zeroFillDone
  exact if_pos (by rw [h]; rfl)

@[simp] theorem outsideNv_structureEntry (s : State) : outsideNv (structureEntry s) = outsideNv s := by
  unfold structureEntry
  dsimp only
  split <;> exact outsideNv_logEntry _ _ _ _ s

@[simp] theorem outsideNv_meetCalibration (s : State) : outsideNv (meetCalibration s) = outsideNv s := by
  unfold meetCalibration
  refine foldl_keeps outsideNv (fun s f => ?_) _ s
  split
  · rw [outsideNv_nvMeet]
    rfl
  · rfl

end Sys2Proof.Machine

namespace Sys2Proof.Machine

/-! #### Every square, every rank controller -/

/-- Squares changed one after the other change nothing else. -/
theorem foldl_modSq_eq (f : Nat → Square → Square) (l : List Nat) (s : State) :
    ∃ q, l.foldl (fun s i => s.modSq i (f i)) s = { s with squares := q } := by
  induction l generalizing s with
  | nil => exact ⟨s.squares, rfl⟩
  | cons i l ih =>
    obtain ⟨q, hq⟩ := ih (s.modSq i (f i))
    exact ⟨q, hq⟩

theorem mapOpp_eq (f : Nat → Square → Square) (s : State) : ∃ q, mapOpp f s = { s with squares := q } :=
  foldl_modSq_eq f _ s

/-- Squares changed one after the other are each changed once. -/
theorem sqr_foldl_modSq (f : Nat → Square → Square) {l : List Nat} (hl : l.Nodup) (s : State) (i : Nat) :
    (l.foldl (fun s i => s.modSq i (f i)) s).sqr i = if i ∈ l then f i (s.sqr i) else s.sqr i := by
  induction l generalizing s with
  | nil => rfl
  | cons k l ih =>
    obtain ⟨hk, hl⟩ := List.nodup_cons.mp hl
    rw [List.foldl_cons, ih hl, State.sqr_modSq]
    by_cases hi : i = k
    · subst hi
      simp [hk]
    · simp [hi, Ne.symm hi]

theorem mapOpp_sqr (f : Nat → Square → Square) (s : State) {i : Nat} (h : i < 64) :
    (mapOpp f s).sqr i = f i (s.sqr i) :=
  (sqr_foldl_modSq f List.nodup_range s i).trans (if_pos (List.mem_range.mpr h))

/-- The rank controllers that take up the rank code of the firmware; nothing else changes. -/
theorem foldl_rankCode_eq (l : List Nat) (s : State) :
    ∃ m, l.foldl (fun s k => s.modRank k fun r => { r with fwver := s.boot.fwVersion }) s = { s with ranks := m } ∧
      ∀ k, (s.rank k).fwver = s.boot.fwVersion ∨ k ∈ l → (SMap.get ({} : Rank) m k).fwver = s.boot.fwVersion := by
  induction l generalizing s with
  | nil => exact ⟨s.ranks, rfl, fun k h => h.resolve_right List.not_mem_nil⟩
  | cons i l ih =>
    obtain ⟨m, hm, hv⟩ := ih (s.modRank i fun r => { r with fwver := s.boot.fwVersion })
    refine ⟨m, hm, fun k hk => hv k ?_⟩
    rw [State.rank_modRank]
    by_cases hi : i = k
    · exact .inl (by simp [hi])
    · simpa [hi, Ne.symm hi] using hk

/-! #### The board of a boot -/

theorem chooseLinks_eq (o b : Board) (s : State) :
    ∃ w, chooseLinks o b s = { s with frx := w } ∧ Frx.node w = s.frx.node := ⟨_, rfl, rfl⟩

/-- A board loaded is the board in force, its node is that of the part, and the maps and memories stay. -/
theorem loadBoard_eq (b : Board) (s : State) : ∃ u h p x w q,
    loadBoard b s = { u with board := b, hub := h, pw := p, boot := x, frx := w, squares := q } ∧
      outsideNv u = outsideNv s ∧ h.live = s.hub.live ∧ h.shadow = s.hub.shadow ∧ Boot.step x = s.boot.step ∧
      x.fwVersion = s.boot.fwVersion ∧ Frx.node w = b.node := by
  unfold loadBoard
  dsimp only
  have hs0 : outsideNv (if b.opening then s else nvRecord 1 (fun r => { s.nv with stArb := r }) s.nv.stArb
      (BitVec.ofNat 32 (Nat.max s.nv.stCounter.toNat b.arb.toNat)) s) = outsideNv s := by
    split
    · rfl
    · exact outsideNv_nvRecord _ _ _ _ s
  generalize (if b.opening = true then s else _) = u at hs0 ⊢
  generalize hs1 : ({ u with board := b, hub := _, frx := _, pw := _, boot := _ } : State) = s1
  obtain ⟨q, hq⟩ := foldl_modSq_eq (squareSettings b) (List.range 64) s1
  obtain ⟨w, hw, hnode⟩ := chooseLinks_eq s.board b { s1 with squares := q }
  rw [hq, hw]
  subst hs1
  exact ⟨u, _, _, _, w, q, rfl, hs0, rfl, rfl, rfl, rfl, hnode⟩

/-- The settings of a board are those of the structure, whatever the IDs of its chains. -/
theorem withChains_parts (b : Board) (l : List (List Nat × Nat)) :
    (withChains b l).opening = b.opening ∧ (withChains b l).parts = b.parts ∧ (withChains b l).wires = b.wires ∧
      (withChains b l).node = b.node := by
  unfold withChains
  split <;> exact ⟨rfl, rfl, rfl, rfl⟩

/-- The structure of `b` is in force in `t`, with memories, maps and the step of the boot as in `s`. -/
structure BoardApplied (b : Board) (s t : State) : Prop where
  opening : t.board.opening = b.opening
  parts : t.board.parts = b.parts
  wires : t.board.wires = b.wires
  node : t.frx.node = b.node
  memories : t.hbm = s.hbm ∧ t.tile = s.tile ∧ t.poison = s.poison ∧ t.flaws = s.flaws
  maps : t.hub.live = s.hub.live ∧ t.hub.shadow = s.hub.shadow
  step : t.boot.step = s.boot.step
  fwVersion : t.boot.fwVersion = s.boot.fwVersion

theorem boardApplied_loadBoard (b : Board) (s : State) : BoardApplied b s (loadBoard b s) := by
  obtain ⟨u, h, p, x, w, q, ht, hu, hl, hs, hx, hv, hw⟩ := loadBoard_eq b s
  rw [ht]
  exact ⟨rfl, rfl, rfl, hw, ⟨(outsideNv_hbm hu :), (outsideNv_tile hu :), (outsideNv_poison hu :), (outsideNv_flaws hu :)⟩,
    ⟨hl, hs⟩, hx, hv⟩

theorem boardApplied_bootBoard (b : Board) (s : State) : BoardApplied b s (bootBoard b s) := by
  obtain ⟨ho, hp, hw, hn⟩ := withChains_parts b (chainIds b fun _ => none)
  have h := boardApplied_loadBoard (withChains b (chainIds b fun _ => none)) { s with chains := [], chst := [] }
  unfold bootBoard
  exact ⟨h.opening.trans ho, h.parts.trans hp, h.wires.trans hw, h.node.trans hn, h.memories, h.maps, h.step,
    h.fwVersion⟩

/-- Once the fill is done, the structure applies to a part with every memory and map 0 (R129, R426), which then takes
    up the operating points, the rank code and the power policy (R485). -/
theorem zeroFillDone_eq {s : State} (h : inStep 6 s = true) : ∃ (t : State) (v : State), ∃ p c q m,
    zeroFillDone s = { t with pw := p, hub := { t.hub with scrubPeriod := c }, squares := q, ranks := m } ∧
      BoardApplied (s.boot.next.getD openingBoard) { v with boot := { v.boot with next := none, step := 8, ranks := true } } t ∧
      outsideNv v = outsideNv (zeroFill s) ∧
      ∀ k < 8, (SMap.get ({} : Rank) m k).fwver = t.boot.fwVersion := by
  unfold zeroFillDone
  rw [if_neg (by rw [h]; simp)]
  have hv : outsideNv (structureEntry (meetCalibration (zeroFill s))) = outsideNv (zeroFill s) := by simp
  generalize structureEntry (meetCalibration (zeroFill s)) = v at hv ⊢
  have hnext : v.boot.next = s.boot.next := (congrArg Boot.next (outsideNv_boot hv) :)
  dsimp only
  generalize ht : bootBoard (v.boot.next.getD openingBoard) _ = t
  obtain ⟨q, hq⟩ := mapOpp_eq (fun i q => stepEight t (restoreGuard t.nv i q)) t
  rw [hq]
  obtain ⟨m, hm, hver⟩ := foldl_rankCode_eq (List.range 8) { t with squares := q }
  rw [hm]
  refine ⟨t, v, _, _, q, m, rfl, ?_, hv, fun k hk => hver k (.inr (List.mem_range.mpr hk))⟩
  rw [← ht, ← hnext]
  exact boardApplied_bootBoard _ _

theorem zeroFillDone_parts {s : State} (h : inStep 6 s = true) :
    let t := zeroFillDone s
    t.boot.step = 8 ∧ t.hbm = [] ∧ t.tile = [] ∧ t.poison = [] ∧ t.flaws = {} ∧ t.hub.live = [] ∧ t.hub.shadow = [] ∧
      (s.boot.next = none → t.board.opening = true) ∧
      (∀ b : Board, s.boot.next = some b → t.board.parts = b.parts ∧ t.board.wires = b.wires ∧ t.frx.node = b.node) ∧
      ∀ k : Fin 8, (t.rank k).fwver = s.boot.fwVersion := by
  obtain ⟨t, v, p, c, q, m, hz, hb, hv, hver⟩ := zeroFillDone_eq h
  obtain ⟨hhbm, htile, hpoison, hflaws⟩ := hb.memories
  obtain ⟨hlive, hshadow⟩ := hb.maps
  have hhub := outsideNv_hub hv
  dsimp only
  rw [hz]
  refine ⟨hb.step, hhbm.trans (outsideNv_hbm hv), htile.trans (outsideNv_tile hv), hpoison.trans (outsideNv_poison hv),
    hflaws.trans (outsideNv_flaws hv), hlive.trans (congrArg Hub.live hhub), hshadow.trans (congrArg Hub.shadow hhub),
    fun hn => ?_, fun b hn => ?_, fun k => ?_⟩
  · rw [hn] at hb
    exact hb.opening
  · rw [hn] at hb
    exact ⟨hb.parts, hb.wires, hb.node⟩
  · exact (hver k k.isLt).trans (hb.fwVersion.trans (congrArg Boot.fwVersion (outsideNv_boot hv) :))

end Sys2Proof.Machine

namespace Sys2Proof.Machine

/-! ### Steps 8 and 9 (R11, R416, R417, R493, R506) -/

@[simp] theorem besideWork_tenderIrq (sq n : Nat) (s : State) : besideWork (tenderIrq sq n s) = besideWork s := by
  unfold tenderIrq
  dsimp only
  split <;> rfl

@[simp] theorem besideWork_dropTenderReqs (sq n : Nat) (s : State) :
    besideWork (dropTenderReqs sq n s) = besideWork s := rfl

@[simp] theorem besideWork_tenderStop (sq n : Nat) (code : BitVec 4) (s : State) :
    besideWork (tenderStop sq n code s) = besideWork s := by
  rw [tenderStop, besideWork_tenderIrq, modTnd, besideWork_modSq, besideWork_dropTenderReqs]

@[simp] theorem besideWork_stopTenders (sq : Nat) (which : Tender → Bool) (code : BitVec 4) (s : State) :
    besideWork (stopTenders sq which code s) = besideWork s := by
  unfold stopTenders
  refine besideWork_foldl (fun s n => ?_) _ s
  split
  · exact besideWork_tenderStop _ _ _ s
  · rfl

/-- What the work of step 8 keeps: the boot registers, and an NV store that grows. -/
structure TestGoes (s t : State) : Prop where
  boot : t.boot = s.boot
  nv : NvGrows s.nv t.nv

theorem TestGoes.refl (s : State) : TestGoes s s := ⟨rfl, .refl _⟩

theorem TestGoes.trans {s t u : State} (h : TestGoes s t) (k : TestGoes t u) : TestGoes s u :=
  ⟨k.boot.trans h.boot, h.nv.trans k.nv⟩

theorem TestGoes.of_work {s t : State} (h : besideWork t = besideWork s) : TestGoes s t :=
  ⟨besideWork_boot h, besideWork_nv h ▸ .refl _⟩

theorem TestGoes.of_nv {s t : State} (h : outsideNv t = outsideNv s) (k : NvGrows s.nv t.nv) : TestGoes s t :=
  ⟨outsideNv_boot h, k⟩

theorem testGoes_saveSpare (sq : Nat) (s : State) : TestGoes s (saveSpare sq s) :=
  .of_nv (outsideNv_saveSpare sq s) (nvGrows_saveSpare sq s)

theorem testGoes_abandonOpened (s : State) : TestGoes s (abandonOpened s) :=
  .of_nv (outsideNv_abandonOpened s) (nvGrows_abandonOpened s)

theorem testGoes_clearTiles (lo hi : Nat) (s : State) : TestGoes s (clearTiles lo hi s) := ⟨rfl, .refl _⟩

theorem testGoes_changeDone (s : State) : TestGoes s (changeDone s) := .of_nv (outsideNv_changeDone s) (nvGrows_changeDone s)

theorem testGoes_sweepQueued (s : State) : TestGoes s (sweepQueued s) := .of_work (besideWork_sweepQueued s)

theorem testGoes_modSq (s : State) (i : Nat) (f : Square → Square) : TestGoes s (s.modSq i f) := ⟨rfl, .refl _⟩

theorem testGoes_squareFail (sq : Nat) (s : State) : TestGoes s (squareFail sq s) := by
  unfold squareFail
  by_cases hf : (s.sqr sq).st = .failed
  · rw [if_pos hf]
    exact .refl s
  · rw [if_neg hf]
    refine .trans (.trans (.trans (t := stopTenders sq (fun _ => true) 4 (if (s.sqr sq).job = 0 then _ else _)) ?_
      (testGoes_saveSpare sq _)) (.of_nv (outsideNv_health _ _ _ _) (nvGrows_health _ _ _ _))) (testGoes_sweepQueued _)
    refine .of_work ?_
    rw [besideWork_stopTenders]
    split
    · rfl
    · rw [besideWork_endJob]
      rfl

theorem testGoes_loseEngine (sq pos n : Nat) (s : State) : TestGoes s (loseEngine sq pos n s) := by
  unfold loseEngine
  extract_lets st s1 s2
  have h : TestGoes s s2 := .trans (.of_work (besideWork_stopEngine sq pos st { s with free := s.free + 1 }))
    (.trans (testGoes_modSq s1 sq _) (testGoes_saveSpare sq _))
  split
  · exact h.trans (testGoes_squareFail sq s2)
  · exact h.trans (testGoes_sweepQueued s2)

theorem testGoes_substitute (sq pos n reason : Nat) (ok : Bool) (s : State) :
    TestGoes s (substitute sq pos n reason ok s) := by
  unfold substitute
  extract_lets s1 s2 s3 s4
  have h1 : TestGoes s s1 := .of_work (besideWork_stopEngine sq pos 5 s)
  have hlog : TestGoes s1 (logChange 0x40 (ascii "SPARE") [] (leBytes 1 sq ++ leBytes 1 pos ++ leBytes 1 reason) s1) :=
    .of_nv (outsideNv_logChange _ _ _ _ s1) (nvLogs_logChange _ _ _ _ s1).toNvGrows
  have h2 : TestGoes s s2 := h1.trans (hlog.trans (.of_nv (outsideNv_health _ _ _ _) (nvGrows_health _ _ _ _)))
  by_cases hok : ok = true
  · rw [if_pos hok]
    have h3 : TestGoes s2 s3 := .trans (.of_work (besideWork_clearEngine _ s2)) (testGoes_modSq _ _ _)
    refine .trans ?_ (testGoes_sweepQueued _)
    refine .trans ?_ (testGoes_changeDone _)
    refine .trans ?_ (testGoes_saveSpare sq _)
    exact (h2.trans h3).trans (testGoes_clearTiles _ _ s3)
  · rw [if_neg hok]
    have h4 : TestGoes s s4 := h2.trans (.trans (testGoes_abandonOpened s2)
      (.trans (testGoes_modSq _ _ _) (testGoes_saveSpare sq _)))
    split
    · exact h4.trans (testGoes_squareFail sq s4)
    · exact h4.trans (testGoes_sweepQueued s4)

theorem testGoes_failEngine (sq pos : Nat) (reason : SpareReason) (ok : Bool) (s : State) :
    TestGoes s (failEngine sq pos reason ok s) := by
  unfold failEngine
  dsimp only
  split
  · exact .refl s
  · split
    · split
      · exact testGoes_substitute _ _ _ _ _ s
      · exact .refl s
    · split
      · exact testGoes_loseEngine _ _ _ s
      · exact .refl s

theorem testGoes_selfTestFail (failed : List Eng) (s : State) (e : Eng) : TestGoes s (selfTestFail failed s e) := by
  unfold selfTestFail
  dsimp only
  split
  · exact .refl s
  · exact testGoes_failEngine _ _ _ _ s

theorem selfTestDone_of_not (failed : List Eng) {s : State} (h : inStep 8 s = false) : selfTestDone failed s = s := by
  unfold selfTestDone
  exact if_pos (by rw [h]; rfl)

@[simp] theorem outsideNv_readyEntry (s : State) : outsideNv (readyEntry s) = outsideNv s :=
  outsideNv_logEntry _ _ _ _ s

theorem nvLogs_readyEntry (s : State) : NvLogs s.nv (readyEntry s).nv := nvLogs_logEntry _ _ _ _ s

/-- The square that a release leaves has failed, or is idle or parked. -/
theorem releaseSquare_st (s : State) (i : Nat) (q : Square) :
    let r := releaseSquare s i q
    r.st = .failed ∨ r.st = (if r.assigned then .idle else .parked) := by
  unfold releaseSquare stepEight brakeHold
  by_cases hf : q.st = .failed
  · left
    simp only [hf, if_true]
    split <;> rfl
  · right
    simp only [hf, if_false]
    split <;> rfl

theorem State.sqr_congr {s t : State} (h : t.squares = s.squares) (i : Nat) : t.sqr i = s.sqr i :=
  congrArg (fun m => SMap.get ({} : Square) m i) h

/-- Step 9 raises the firmware counter to that of the image that runs, and the part is ready (R493). -/
theorem selfTestDone_eq (failed : List Eng) {s : State} (h : inStep 8 s = true) : ∃ u v w : State, ∃ x,
    selfTestDone failed s = { w with boot := x } ∧
      w = nvRecord 0 (fun r => { u.nv with fwArb := r }) u.nv.fwArb
        (BitVec.ofNat 32 (Nat.max u.nv.fwCounter.toNat u.boot.fwArb.toNat)) u ∧
      u = readyEntry (mapOpp (releaseSquare v) v) ∧ TestGoes s v ∧ Boot.step x = 9 ∧ Boot.ready x = true := by
  unfold selfTestDone
  rw [if_neg (by rw [h]; simp)]
  have hv : TestGoes s (failed.foldl (selfTestFail failed) (abandonOpened s)) :=
    (testGoes_abandonOpened s).trans (foldl_rel TestGoes.refl TestGoes.trans (testGoes_selfTestFail failed) failed _)
  exact ⟨_, _, _, _, rfl, rfl, rfl, hv, rfl, rfl⟩

theorem Nv.fwCounter_of_count {n : Nv} {b : BitVec 32} (h : (n.held 0 n.fwArb).count = some b) : n.fwCounter = b := by
  unfold Nv.fwCounter
  rw [h]
  rfl

/-- The firmware counter written is read as written, and the head record stays. -/
theorem nvRecord_fwArb (n : Nv) (b : BitVec 32) (v : State) :
    let m := (nvRecord 0 (fun r => { n with fwArb := r }) n.fwArb b v).nv
    m.fwCounter = b ∧ m.headRec = n.headRec := by
  obtain ⟨i, h⟩ := nvRecord_nv 0 (fun r => { n with fwArb := r }) n.fwArb b v
  dsimp only
  rw [h]
  refine ⟨?_, Nv.headRec_congr rfl rfl (fun c => ?_) fun k => ?_⟩
  · exact Nv.fwCounter_of_count (Nv.count_held_both (Nv.bad_renewed_both _ 0))
  all_goals exact (Nv.bad_renewed_other _ (by simp)).trans (Nv.bad_renewed_other _ (by simp))

theorem selfTestDone_parts (failed : List Eng) {s : State} (h : inStep 8 s = true) :
    let t := selfTestDone failed s
    t.boot.step = 9 ∧ t.boot.ready = true ∧ s.nv.headRec.seq < t.nv.headRec.seq ∧
      t.nv.fwCounter.toNat = max s.nv.fwCounter.toNat s.boot.fwArb.toNat ∧
      ∀ i : Fin 64, (t.sqr i).st = .failed ∨ (t.sqr i).st = (if (t.sqr i).assigned then .idle else .parked) := by
  obtain ⟨u, v, w, x, ht, hw, hu, hv, hstep, hready⟩ := selfTestDone_eq failed h
  obtain ⟨q, hq⟩ := mapOpp_eq (releaseSquare v) v
  have hnv : NvLogs s.nv u.nv := by
    have hlog := nvLogs_readyEntry (mapOpp (releaseSquare v) v)
    rw [← hu, show (mapOpp (releaseSquare v) v).nv = v.nv by rw [hq]] at hlog
    exact hv.nv.trans_logs hlog
  have hboot : u.boot = s.boot := by
    rw [hu, outsideNv_boot (outsideNv_readyEntry _), hq]
    exact hv.boot
  have hmax : (BitVec.ofNat 32 (Nat.max u.nv.fwCounter.toNat u.boot.fwArb.toNat)).toNat =
      max s.nv.fwCounter.toNat s.boot.fwArb.toNat := by
    have hcounter : u.nv.fwCounter = s.nv.fwCounter := by
      unfold Nv.fwCounter
      rw [hnv.fwArb]
    rw [hcounter, hboot, BitVec.toNat_ofNat]
    exact Nat.mod_eq_of_lt (Nat.max_lt.mpr ⟨BitVec.isLt _, BitVec.isLt _⟩)
  have hsq (i : Fin 64) : w.sqr i = releaseSquare v i (v.sqr i) := by
    have hsquares : w.squares = (mapOpp (releaseSquare v) v).squares := by
      rw [hw, outsideNv_squares (outsideNv_nvRecord _ _ _ _ u), hu, outsideNv_squares (outsideNv_readyEntry _)]
    exact (State.sqr_congr hsquares i).trans (mapOpp_sqr (releaseSquare v) v i.isLt)
  obtain ⟨hfw, hhead⟩ := nvRecord_fwArb u.nv (BitVec.ofNat 32 (Nat.max u.nv.fwCounter.toNat u.boot.fwArb.toNat)) u
  rw [← hw] at hfw hhead
  dsimp only
  rw [ht]
  refine ⟨hstep, hready, hhead ▸ hnv.logged, hfw ▸ hmax, fun i => ?_⟩
  show (w.sqr i).st = _ ∨ (w.sqr i).st = (if (w.sqr i).assigned then _ else _)
  rw [hsq]
  exact releaseSquare_st v i _

end Sys2Proof.Machine

namespace Sys2Proof.Machine

/-! ### The boot sequence (O50) -/

theorem vinValid_of_valid (mv : BitVec 16) (z : Straps) {s : State} (h : s.boot.vinValid = true) : vinValid mv z s = s := by
  unfold vinValid
  exact if_pos h

/-- What a power-on leaves of the NV store, and what it samples (R476, R483). -/
theorem powerOn_parts (z : Straps) (s : State) :
    (powerOn z s).pins.addrSel = z.addrSel ∧ (powerOn z s).pins.force = z.forceOpening ∧ (powerOn z s).hbm = [] ∧
      (powerOn z s).tile = [] ∧ (powerOn z s).engines = [] ∧ (powerOn z s).nv = { s.nv with spares := [] } :=
  ⟨rfl, rfl, rfl, rfl, rfl, rfl⟩

theorem vinReset_parts {s : State} (hv : s.boot.vinValid = true) (ha : s.boot.vaux = true) :
    let t := vinReset s
    t.boot.held = true ∧ t.boot.vinValid = false ∧ t.boot.conversion = false ∧ t.engines = [] ∧ t.hbm = [] ∧
      t.boot.powered = s.boot.powered ∧ t.mg.timebase = s.mg.timebase ∧ (s.ik.level = 0 → t.nv = s.nv) ∧
      (s.ik.level ≠ 0 → s.nv.headRec.seq < t.nv.headRec.seq) := by
  obtain ⟨c, b, p, ht, hheld, hvin, hconv, hpow⟩ := vinReset_of_vaux hv ha
  obtain ⟨hboot, heng, hhbm, htime, hnv⟩ :=
    deviceState_parts c { conversionStop { s with free := s.free + 1 } with boot := b, pw := p }
  obtain ⟨hnone, hsome⟩ := resetLevel_nv { conversionStop { s with free := s.free + 1 } with boot := b, pw := p }
  dsimp only
  rw [ht, hboot, heng, hhbm, htime, hnv]
  exact ⟨hheld, hvin, hconv, rfl, rfl, hpow, rfl, hnone, fun h => (hsome h).logged⟩

/-- The management domain comes up with a supply present: the ROM boots, unless device reset holds the part (R482). -/
theorem managementUp_parts {s : State} (hp : s.boot.powered = false) (h : supplied s = true) :
    let t := managementUp s
    t.boot.powered = true ∧
      (heldReset s = true → t = { s with boot := { s.boot with powered := true } }) ∧
      (heldReset s = false → t.nv.boots = (bootLedger s).boots + 1 ∧ s.nv.headRec.seq + 2 ≤ t.nv.headRec.seq ∧
        (t.boot.step = 15 ↔ t.mg.running = false) ∧
        (t.mg.running = true → t.boot.step = (if t.boot.recovery then 4 else if s.boot.conversion then 5 else 2))) := by
  dsimp only
  by_cases hheld : heldReset s = true
  · rw [managementUp_held hp h hheld]
    exact ⟨rfl, fun _ => rfl, fun hf => absurd (hheld.symm.trans hf) (by decide)⟩
  · have hfree : heldReset s = false := Bool.eq_false_iff.mpr hheld
    obtain ⟨u, hu, hup, hconv, hnv⟩ := managementUp_free hp h hfree
    obtain ⟨hpowered, hboots⟩ := romBoot_up hup hconv hnv
    rw [hu]
    exact ⟨hpowered, fun h => absurd h hheld, fun _ => hboots⟩

/-- Settles O50: each boot step and each supply event is described by its own lemma above. -/
theorem bootSequence : Obligations.BootSequence := by
  unfold Obligations.BootSequence
  intro s
  dsimp only
  rw [← supplied_eq_false, ← supplied_eq_true]
  refine ⟨fun mv z => ⟨fun h => congrArg Host.Outcome.next (vinValid_of_valid mv z h), fun h => ?_, fun hv ha hh => ?_⟩,
    fun z => ⟨fun h => congrArg Host.Outcome.next (vauxValid_of_supplied z h), fun h => ?_⟩,
    pinLevels_of_not_supplied, pinLevels_of_supplied,
    fun h => congrArg Host.Outcome.next (vinReset_of_not_valid h), fun hv ha => ⟨_, rfl, ?_⟩,
    fun hv ha => ⟨_, rfl, vinReset_parts hv ha⟩,
    fun h => congrArg Host.Outcome.next (vauxLoss_of_vin h), fun hv ha => ⟨_, rfl, ?_⟩,
    fun h => congrArg Host.Outcome.next (managementUp_of_up h), fun hp h => ⟨_, rfl, managementUp_parts hp h⟩,
    fun hv hc ht => ⟨_, rfl, ?_⟩, fun h => congrArg Host.Outcome.next (conversionUp_of_not h),
    fun rows => ⟨fun h => congrArg Host.Outcome.next (trainingDone_of_not rows h), fun h => ⟨_, rfl, trainingDone_parts rows h⟩⟩,
    fun h => congrArg Host.Outcome.next (zeroFillDone_of_not h), fun h => ⟨_, rfl, zeroFillDone_parts h⟩,
    fun failed => ⟨fun h => congrArg Host.Outcome.next (selfTestDone_of_not failed h),
      fun h => ⟨_, rfl, selfTestDone_parts failed h⟩⟩⟩
  · obtain ⟨w, p, ht⟩ := vinValid_of_not_supplied mv z h
    obtain ⟨hsel, hforce, hhbm, htile, heng, hnv⟩ := powerOn_parts z s
    exact ⟨_, congrArg Host.Outcome.next ht, rfl, rfl, rfl, hsel, hforce, hhbm, htile, heng, hnv⟩
  · obtain ⟨b, p, ht, hb⟩ := vinValid_of_vaux mv z hv ha hh
    exact ⟨_, congrArg Host.Outcome.next ht, hb, rfl, rfl, rfl, fun _ => ⟨rfl, rfl⟩⟩
  · obtain ⟨hsel, -, hhbm, -, -, hnv⟩ := powerOn_parts z s
    exact ⟨_, congrArg Host.Outcome.next (vauxValid_of_not_supplied z h), rfl, rfl, rfl, hsel, hhbm, hnv⟩
  · rw [vinReset_of_not_vaux hv ha]
    exact powerLoss_unpowered s
  · rw [vauxLoss_of_last hv ha]
    exact powerLoss_unpowered s
  · obtain ⟨x, hx⟩ := conversionUp_eq hv hc ht
    rw [hx]
    exact ⟨rfl, rfl, rfl⟩

end Sys2Proof.Machine
